-- ==== Sys2Proof/Word.lean ====
section
/-! DEFINITION. The machine word, the byte, and the sparse map that registers and memories are held in. -/

namespace Sys2Proof

/-- A scalar register holds 64 bits (R83). -/
abbrev Word := BitVec 64

/-- Memory is byte-addressed (R5). -/
abbrev Byte := BitVec 8

/-- A program address has 32 bits (R73). -/
abbrev PAddr := BitVec 32

/-- The five sticky numeric flags of VSTAT (R150). -/
abbrev Flags := BitVec 5

/-- A sparse map by natural keys: a list of pairs with rising keys. -/
abbrev AMap (α : Type) := List (Nat × α)

end Sys2Proof
end

