-- ==== Sys2Proof/Syntax.lean ====
section
/-! DEFINITION. The instructions: one constructor for each row of the opcode table. The first part holds the
slot words of R98 to R112; the second part holds the steps of the part that have no encoding (spec/95). -/

namespace Sys2Proof

abbrev SReg := Fin 64
abbrev VReg := Fin 64
abbrev KReg := Fin 8
abbrev QReg := Fin 8
abbrev ATile := Fin 16
abbrev Colour := Fin 8
abbrev Chan := Fin 8
/-- The mask field K of a vector word names k0 to k3 (R82). -/
abbrev KSel := Fin 4

/-- The ten slots of a bundle, in the order of R74. -/
inductive Slot where
  | sa | sb | va | vb | vc | f | ma | mb | x | c
  deriving DecidableEq, Repr

/-- The sixteen element types of R134, in code order. -/
inductive ETy where
  | f32 | f16 | bf16 | e4m3 | e5m2 | e3m2 | e2m3 | e2m1
  | s32 | z32 | s16 | z16 | s8 | z8 | s4 | s64
  deriving DecidableEq, Repr

/-- The conditions of CMP (R99). -/
inductive Cond where
  | eq | ne | lt | ge | ltu | geu | bit
  deriving DecidableEq, Repr

/-- The rounding modes of R105. -/
inductive RMode where
  | rne | rtz | rdn | rup | sr
  deriving DecidableEq, Repr

/-- The conditions of VCMP (R108). -/
inductive VCond where
  | eq | ne | lt | ge | le | gt | un
  deriving DecidableEq, Repr

/-- The operations of VRED and VSCAN (R107). -/
inductive RedOp where
  | add | min | max | and | or | xor
  deriving DecidableEq, Repr

/-- The operations of AMOG (R112). -/
inductive AmogOp where
  | add | swap | cas
  deriving DecidableEq, Repr

/-- The kinds of PFH (R112, R185). -/
inductive PfhKind where
  | pf | res | rel
  deriving DecidableEq, Repr

/-- The scopes of DRAIN (R207). -/
inductive Scope where
  | context | tile | region | device | system
  deriving DecidableEq, Repr

/-- An element or access width of 8, 16, 32 or 64 bits. -/
inductive Width where
  | w8 | w16 | w32 | w64
  deriving DecidableEq, Repr

/-- The forms of LD, in opcode order from 0x01 (R385). -/
inductive LdTy where
  | s8 | z8 | s16 | z16 | s32 | z32 | s64
  deriving DecidableEq, Repr

/-- The insertion position of LIMM (R98): 0, 18, 36 or 54. -/
inductive LPos where
  | p0 | p18 | p36 | p54
  deriving DecidableEq, Repr

/-- The second operand of a shift, ROTL or CMP: a register, or the 6-bit b field itself when I is set (R98). -/
inductive Src where
  | reg (r : SReg)
  | imm (n : Fin 64)
  deriving DecidableEq, Repr

/-- How a request to the host ended (R286, R325). -/
inductive Completion where
  | success | unsupported | completerAbort | poisoned
  deriving DecidableEq, Repr

/-- Which of a context's engine queues a host request belongs to. -/
inductive EngSrc where
  | chan (ch : Chan) | cells | drains | gather | posted
  deriving DecidableEq, Repr

/-- The spares of R338. -/
inductive Spare where
  | tile (row col : Nat)
  | bankRow (tile bank row : Nat)
  | bank (tile bank : Nat)
  | dqLane (subchannel : Nat)
  | core (core : Nat)
  deriving DecidableEq, Repr

/-- One constructor for each row of the opcode table. -/
inductive Instr where
  -- scratchpad atomics, slot MA (R341)
  | aadd (d a b : SReg) (w : Bool) (col : Colour)
  | amin (d a b : SReg) (w u : Bool) (col : Colour)
  | amax (d a b : SReg) (w u : Bool) (col : Colour)
  | aand (d a b : SReg) (w : Bool) (col : Colour)
  | aor (d a b : SReg) (w : Bool) (col : Colour)
  | axor (d a b : SReg) (w : Bool) (col : Colour)
  | aswap (d a b : SReg) (w : Bool) (col : Colour)
  | acas (d a b : SReg) (w : Bool) (col : Colour)
  -- scalar, slots SA and SB (R98)
  | add (d a b : SReg)
  | addi (d a : SReg) (imm : BitVec 12)
  | amog (a k : SReg) (op : AmogOp) (w : Bool) (col : Colour) (ch : Chan)
  | and (d a b : SReg)
  | andi (d a : SReg) (imm : BitVec 12)
  | bkpt
  | br (q : QReg) (qn : Bool) (disp : BitVec 20)
  | brn (q : QReg) (qn : Bool) (disp : BitVec 20)
  | call (disp : BitVec 20)
  | clz (d a : SReg)
  | ctz (d a : SReg)
  | cmp (d : QReg) (a : SReg) (b : Src) (c : Cond)
  | coll (a : SReg) (col : Colour)
  | cpop (v : VReg) (d : SReg)
  | div (d a b : SReg) (u : Bool)
  | drain (sc : Scope) (mask : BitVec 8)
  | endTask (status : BitVec 12)
  | eret
  | fence (mask : BitVec 8)
  | fexp2 (d a : VReg) (t : ETy) (k : KSel)
  | flog2 (d a : VReg) (t : ETy) (k : KSel)
  | frcp (d a : VReg) (t : ETy) (k : KSel)
  | frsq (d a : VReg) (t : ETy) (k : KSel)
  | ftanh (d a : VReg) (t : ETy) (k : KSel)
  | fsig (d a : VReg) (t : ETy) (k : KSel)
  | fsin (d a : VReg) (t : ETy) (k : KSel)
  | fcos (d a : VReg) (t : ETy) (k : KSel)
  | gpop (v : VReg) (d : SReg)
  | gthr (v : VReg) (b : SReg) (w : Width)
  | jmp (disp : BitVec 20)
  | jmpr (a : SReg)
  | kand (d a b : KReg)
  | kor (d a b : KReg)
  | kxor (d a b : KReg)
  | knot (d a : KReg)
  | kpopc (d : SReg) (a : KReg)
  | kfirst (d : SReg) (a : KReg)
  | ladd (v i : VReg) (p : SReg) (col : Colour)
  | ld (t : LdTy) (d b : SReg) (off : BitVec 12)
  | limm (p : LPos) (d : SReg) (imm : BitVec 18)
  | linit (a n : SReg) (col : Colour)
  | loop (c1 : Bool) (disp : BitVec 20)
  | lraw (a b n : SReg)
  | maccd (acc : ATile) (a b : SReg) (clamp : Bool) (quarters : BitVec 4)
  | min (d a b : SReg) (u : Bool)
  | max (d a b : SReg) (u : Bool)
  | mcfg (a b : SReg)
  | mdrn (acc : ATile) (a b : SReg) (clamp : Bool) (quarters : BitVec 4)
  | mfc (d : SReg) (num : BitVec 12)
  | mtc (num : BitVec 12) (a : SReg)
  | mtcEvent (a : SReg)
  | mtcDmr (a : SReg)
  | mtcAshape (a : SReg)
  | mldw (a b : SReg) (bands : BitVec 4)
  | mmul (acc : ATile) (a b : SReg) (aip : Bool) (bands : BitVec 4)
  | mswap
  | mul (d a b : SReg)
  | mulh (d a b : SReg) (u : Bool)
  | mvec (acc : ATile) (a b : SReg) (aip : Bool) (bands : BitVec 4)
  | mzero (acc : ATile) (quarters : BitVec 4)
  | or (d a b : SReg)
  | ori (d a : SReg) (imm : BitVec 12)
  | pause (n : BitVec 12)
  | pfh (a b : SReg) (kind : PfhKind)
  | popc (d a : SReg)
  | rem (d a b : SReg) (u : Bool)
  | ret (a : SReg)
  | shl (d a : SReg) (b : Src)
  | shr (d a : SReg) (b : Src)
  | sra (d a : SReg) (b : Src)
  | rotl (d a : SReg) (b : Src)
  | sel (d a b : SReg) (qn : Bool) (q : QReg)
  | st (w : Width) (d b : SReg) (off : BitVec 9) (col : Colour)
  | sub (d a b : SReg)
  | sync (level : Fin 4) (mask : BitVec 8)
  | trap (n : BitVec 12)
  | vadd (d a b : VReg) (t : ETy) (k : KSel)
  | vsub (d a b : VReg) (t : ETy) (k : KSel)
  | vmul (d a b : VReg) (t : ETy) (k : KSel)
  | vfma (d a b : VReg) (t : ETy) (k : KSel)
  | vmin (d a b : VReg) (t : ETy) (k : KSel)
  | vmax (d a b : VReg) (t : ETy) (k : KSel)
  | vabs (d a : VReg) (t : ETy) (k : KSel)
  | vneg (d a : VReg) (t : ETy) (k : KSel)
  | vand (d a b : VReg) (t : ETy) (k : KSel)
  | vor (d a b : VReg) (t : ETy) (k : KSel)
  | vxor (d a b : VReg) (t : ETy) (k : KSel)
  | vshl (d a b : VReg) (t : ETy) (k : KSel)
  | vshr (d a b : VReg) (t : ETy) (k : KSel)
  | vsra (d a b : VReg) (t : ETy) (k : KSel)
  | vsel (d a b : VReg) (t : ETy) (k : KSel)
  | vclamp (d a b : VReg) (t : ETy) (k : KSel)
  | vdot (d a b : VReg) (t : ETy) (k : KSel)
  | vred (d a : VReg) (op : RedOp) (t : ETy) (k : KSel)
  | vscan (d a : VReg) (op : RedOp) (t : ETy) (k : KSel)
  | vperm (d a b : VReg) (t : ETy) (k : KSel)
  | vsplat (d : VReg) (a : SReg) (t : ETy) (k : KSel)
  | vmov (d a : VReg) (t : ETy) (k : KSel)
  | vget (d : SReg) (a : VReg) (b : SReg) (t : ETy) (k : KSel)
  | vput (d : VReg) (a b : SReg) (t : ETy) (k : KSel)
  | vxch (d a : VReg) (dist : Fin 8) (t : ETy) (k : KSel)
  | vcvt (m : RMode) (d a : VReg) (iov : Bool) (ts : ETy) (t : ETy) (k : KSel)
  | vqnt (m : RMode) (d a : VReg) (kind : Fin 4) (atype : Fin 4) (t : ETy) (k : KSel)
  | vdqnt (d a : VReg) (kind : Fin 4) (code : ETy) (t : ETy) (k : KSel)
  | vcmp (c : VCond) (d : KReg) (a b : VReg) (t : ETy) (k : KSel)
  | vcsq (d : SReg) (a : VReg) (b : SReg) (t : ETy) (k : KSel)
  | vld (d : VReg) (b : SReg) (off : BitVec 12)
  | vldb (d : VReg) (b : SReg) (off : BitVec 12)
  | vlds (w : Width) (d : VReg) (b : SReg) (off : BitVec 12)
  | vstK0 (d : VReg) (b : SReg) (off : BitVec 9) (col : Colour)
  | vstK1 (d : VReg) (b : SReg) (off : BitVec 9) (col : Colour)
  | vstK2 (d : VReg) (b : SReg) (off : BitVec 9) (col : Colour)
  | vstK3 (d : VReg) (b : SReg) (off : BitVec 9) (col : Colour)
  | vsts (w : Width) (d : VReg) (b : SReg) (off : BitVec 9) (col : Colour)
  | xfer (a : SReg) (col : Colour) (ch : Chan)
  | xor (d a b : SReg)
  | xori (d a : SReg) (imm : BitVec 12)
  | xptr (d : SReg) (ch : Chan)
  | xwait (a : SReg) (ch : Chan)
  | yield
  -- steps of the part without an encoding (spec/95); ctx is plane * 144 + 12 * y + x, tile is 12 * y + x
  | bundleIssue (tile : Nat)
  | registerWriteLands (ctx : Nat)
  | matrixResultLands (ctx : Nat)
  | mldwComplete (ctx : Nat)
  | segmentResident (ctx : Nat)
  | copyRecordPerform (ctx : Nat) (ch : Chan) (n : Nat)
  | remoteAtomicPerform (ctx : Nat) (ch : Chan)
  | hostAtomicPerform (ctx : Nat) (ch : Chan)
  | cellAddPerform (ctx : Nat)
  | cellInitPerform (ctx : Nat)
  | lrawPerform (ctx : Nat)
  | gatherComplete (ctx : Nat)
  | collectiveComplete (ctx : Nat)
  | drainPushPerform (ctx : Nat)
  | engineFaultDelivery (ctx : Nat)
  | eventTaken (ctx : Nat)
  | rollback (ctx : Nat)
  | syncRelease (ctx : Nat)
  | quantumExpiry (tile : Nat)
  | pauseEnd (ctx : Nat)
  | watchdogExpiry (ctx : Nat)
  | drainLimitExceeded (ctx : Nat)
  | taskEnd (ctx : Nat)
  | launchFailureStop (ctx : Nat)
  | launchStart (l plane y0 x0 : Nat)
  | evictionRequest (l : Nat)
  | evictionStop (ctx : Nat)
  | evictionComplete (l : Nat)
  | resume (l plane y0 x0 : Nat)
  | doorbell (fn q tail : Nat)
  | qreset (fn q : Nat)
  | hostRegisterWrite (fn reg : Nat) (v : Word)
  | nop (fn q : Nat)
  | launch (fn q : Nat)
  | signal (fn q : Nat)
  | barrier (fn q : Nat)
  | migrate (fn q : Nat)
  | migrationCopy (tenant : Nat)
  | migrationCommit (tenant : Nat)
  | evict (fn q : Nat)
  | timestamp (fn q : Nat)
  | release (fn q : Nat)
  | hostReadShared (fn addr : Nat)
  | hostReadOwn (fn addr : Nat)
  | hostMemWrite (fn addr : Nat) (enables : BitVec 64) (data : BitVec 512)
  | backInvalidateResponse (sector : Nat) (data : BitVec 512)
  | hostSnoop (line : Nat) (invalidate : Bool)
  | atticLineFill (line : Nat) (own : Bool)
  | hostAtomicopCompletion (ctx : Nat) (ch : Chan) (st : Completion)
  | hostCompletionTimeout (ctx : Nat) (src : EngSrc)
  | linkTraining (lanes : Nat) (rateMTs : Nat)
  | linkDown
  | functionLevelReset (fn : Nat)
  | tenantReset (tenant : Nat)
  | fwrangeWrite (lo hi : Nat)
  | prepare
  | paused (fn : Nat)
  | activate
  | firmwareRestart
  | spdmRequest (nonce : Nat)
  | debugConsent (tenant tid expiry : Nat) (signatureOk : Bool)
  | debugHalt (ctx : Nat)
  | debugRegisterAccess (ctx : Nat) (write : Bool) (reg : Nat) (v : Word)
  | debugSingleStep (ctx : Nat)
  | debugResume (ctx : Nat)
  | consentExpiry (tenant tid : Nat)
  | d3hotEntry
  | powerLoss
  | maintenanceFrameBoundary
  | guardBandStart
  | maintenanceSlotStart
  | sensorSweep (junction : Nat) (watts : Nat)
  | unannouncedExtension (cycles : Nat)
  | extendedFrameAnnounce (ahead : Nat)
  | spareBringIn (sp : Spare)
  | railSettled (rail : Nat)
  | cadenceChange (ctx : Nat)
  | tokenRefill (slice bucket : Nat)
  | slcRequestAdmit (slice plane cls sectors : Nat)
  | hostRequestCompletion (ctx : Nat) (src : EngSrc) (st : Completion)
  | reset
  | d3hotExit
  deriving DecidableEq, Repr

/-- The two parts of a bundle's 64-bit header that the sequencer reads (R75). -/
structure Header where
  pres : BitVec 10
  f : Bool
  b : Bool
  k : Bool
  d : Bool
  cmask : BitVec 8
  stamp : Nat
  prof : Nat
  deriving DecidableEq, Repr

/-- A decoded bundle: its header and its slot words in the order of R74. -/
structure Bundle where
  hdr : Header
  words : List (Slot × Instr)
  deriving DecidableEq, Repr

end Sys2Proof
end

