-- ==== Sys2Proof/WellFormed.lean ====
section
/-! DEFINITION. Which instructions the encoding of R98 to R112 admits, slot by slot, and the bounds of the
names that the steps without an encoding carry. -/

namespace Sys2Proof

/-- The float types F of R103: f32, f16, bf16. -/
def ETy.isF : ETy → Bool
  | .f32 | .f16 | .bf16 => true
  | _ => false

/-- The integer types I of R103: the codes 8 to 13 and 15. -/
def ETy.isI : ETy → Bool
  | .s32 | .z32 | .s16 | .z16 | .s8 | .z8 | .s64 => true
  | _ => false

/-- The types of the vector logic words: the codes 8 to 15 (R103). -/
def ETy.isLogic : ETy → Bool
  | .s4 => true
  | t => t.isI

/-- The types of VDOT: the codes 10 to 14 (R103). -/
def ETy.isDot : ETy → Bool
  | .s16 | .z16 | .s8 | .z8 | .s4 => true
  | _ => false

/-- The code types of MX blocks (R106). -/
def ETy.isMx : ETy → Bool
  | .s8 | .e4m3 | .e5m2 | .e3m2 | .e2m3 | .e2m1 => true
  | _ => false

/-- SA or SB. -/
def Slot.isScalar : Slot → Bool
  | .sa | .sb => true
  | _ => false

/-- VA, VB or VC. -/
def Slot.isVector : Slot → Bool
  | .va | .vb | .vc => true
  | _ => false

/-- VA or VB. -/
def Slot.isVab : Slot → Bool
  | .va | .vb => true
  | _ => false

/-- MA or MB. -/
def Slot.isScratch : Slot → Bool
  | .ma | .mb => true
  | _ => false

/-- The type rule of the arithmetic vector words: F or I in VA and VB, I in VC (R103). -/
def arithTypeIn (s : Slot) (t : ETy) : Bool :=
  (s.isVab && (t.isF || t.isI)) || (s == .vc && t.isI)

/-- A logic operation takes an integer type (R107). -/
def redTypeIn (s : Slot) (op : RedOp) (t : ETy) : Bool :=
  arithTypeIn s t && (match op with
    | .add | .min | .max => true
    | .and | .or | .xor => t.isI)

/-- KIND, code type and ATYPE of VQNT and VDQNT (R106). -/
def blockKindOk (kind : Fin 4) (code : ETy) : Bool :=
  (kind == 0 && code.isMx) || (kind == 1 && code == .s4)

/-- The slot word is one that the map of the slot class admits, every field within its limits. -/
def wfIn (s : Slot) : Instr → Bool
  | .aadd .. | .amin .. | .amax .. | .aand .. | .aor .. | .axor .. | .aswap .. | .acas .. => s == .ma
  | .add .. | .addi .. | .and .. | .andi .. | .clz .. | .ctz .. | .cmp .. | .div .. | .min .. | .max ..
  | .mul .. | .mulh .. | .or .. | .ori .. | .popc .. | .rem .. | .shl .. | .shr .. | .sra .. | .rotl ..
  | .sel .. | .sub .. | .xor .. | .xori .. => s.isScalar
  | .limm p _ imm => s.isScalar && (p != .p54 || decide (imm.toNat < 1024))
  | .bkpt | .br .. | .brn .. | .call .. | .eret | .jmp .. | .jmpr .. | .loop .. | .ret .. | .yield
  | .mfc .. | .mtcEvent .. | .mtcDmr .. | .mtcAshape .. => s == .sa
  | .mtc num _ => s == .sa && decide (num.toNat ≠ 0x016 ∧ num.toNat ≠ 0x006 ∧ num.toNat ≠ 0x005)
  | .endTask st => s == .sa && decide (st.toNat ≤ 2047)
  | .pause n => s == .sa && decide (1 ≤ n.toNat ∧ n.toNat ≤ 2047)
  | .trap n => s == .sa && decide (n.toNat ≤ 127)
  | .amog .. | .coll .. | .cpop .. | .drain .. | .fence .. | .gpop .. | .gthr .. | .ladd .. | .linit ..
  | .lraw .. | .pfh .. | .sync .. | .xfer .. | .xptr .. | .xwait .. => s == .c
  | .fexp2 _ _ t _ | .flog2 _ _ t _ | .frcp _ _ t _ | .frsq _ _ t _ | .ftanh _ _ t _ | .fsig _ _ t _
  | .fsin _ _ t _ | .fcos _ _ t _ => s == .f && t.isF
  | .kand .. | .kor .. | .kxor .. | .knot .. | .kpopc .. | .kfirst .. => s == .vc
  | .ld .. | .st .. | .vld .. | .vldb .. | .vstK0 .. | .vstK1 .. | .vstK2 .. | .vstK3 .. => s.isScratch
  | .vlds _ _ b _ | .vsts _ _ b _ _ => s.isScratch && decide (b.val ≠ 63)
  | .vcsq .. => s == .ma
  | .maccd .. | .mcfg .. | .mdrn .. | .mldw .. | .mmul .. | .mswap | .mvec .. | .mzero .. => s == .x
  | .vadd _ _ _ t _ | .vsub _ _ _ t _ | .vmul _ _ _ t _ | .vmin _ _ _ t _ | .vmax _ _ _ t _
  | .vabs _ _ t _ | .vneg _ _ t _ | .vclamp _ _ _ t _ => arithTypeIn s t
  | .vfma _ _ _ t _ => s.isVab && t.isF
  | .vand _ _ _ t _ | .vor _ _ _ t _ | .vxor _ _ _ t _ => s.isVector && t.isLogic
  | .vshl _ _ _ t _ | .vshr _ _ _ t _ | .vsra _ _ _ t _ => s.isVector && t.isI
  | .vsel .. | .vperm .. | .vsplat .. | .vmov .. | .vget .. | .vput .. | .vxch .. => s.isVector
  | .vdot _ _ _ t _ => s.isVab && t.isDot
  | .vred _ _ op t _ | .vscan _ _ op t _ => redTypeIn s op t
  | .vcvt .. => s == .vc
  | .vqnt _ _ _ kind atype t _ => s == .vc && blockKindOk kind t && (kind != 0 || atype == 0)
  | .vdqnt _ _ kind code t _ => s == .vc && blockKindOk kind code && t.isF
  | .vcmp c _ _ _ t _ => arithTypeIn s t && (c != .un || t.isF)
  | _ => false

/-- Contexts: 4 planes of 144 tiles (R19, R20). -/
def ctxOk (c : Nat) : Bool := decide (c < 576)
def tileOk (t : Nat) : Bool := decide (t < 144)
/-- Functions: the PF, numbered 0, and 96 VFs (R26). -/
def fnOk (f : Nat) : Bool := decide (f ≤ 96)
/-- One launch queue per service class (R326). -/
def queueOk (q : Nat) : Bool := decide (q < 3)
def placeOk (plane y x : Nat) : Bool := decide (plane < 4 ∧ y < 12 ∧ x < 12)

/-- A step without an encoding names tiles, contexts, functions and queues that exist. -/
def wfStep : Instr → Bool
  | .bundleIssue t | .quantumExpiry t => tileOk t
  | .registerWriteLands c | .matrixResultLands c | .mldwComplete c | .segmentResident c
  | .copyRecordPerform c _ _ | .remoteAtomicPerform c _ | .hostAtomicPerform c _ | .cellAddPerform c
  | .cellInitPerform c | .lrawPerform c | .gatherComplete c | .collectiveComplete c
  | .drainPushPerform c | .engineFaultDelivery c | .eventTaken c | .rollback c | .syncRelease c
  | .pauseEnd c | .watchdogExpiry c | .drainLimitExceeded c | .taskEnd c | .launchFailureStop c
  | .evictionStop c | .hostAtomicopCompletion c _ _ | .hostCompletionTimeout c _ | .debugHalt c
  | .debugRegisterAccess c _ _ _ | .debugSingleStep c | .debugResume c | .cadenceChange c
  | .hostRequestCompletion c _ _ => ctxOk c
  | .launchStart _ p y x | .resume _ p y x => placeOk p y x
  | .evictionRequest _ | .evictionComplete _ => true
  | .doorbell f q _ | .qreset f q | .nop f q | .launch f q | .signal f q | .barrier f q | .migrate f q
  | .evict f q | .timestamp f q | .release f q => fnOk f && queueOk q
  | .hostRegisterWrite f _ _ | .hostReadShared f _ | .hostReadOwn f _ | .hostMemWrite f _ _ _
  | .functionLevelReset f | .paused f => fnOk f
  | .migrationCopy t | .migrationCommit t | .tenantReset t | .debugConsent t _ _ _
  | .consentExpiry t _ => fnOk t
  | .backInvalidateResponse .. | .hostSnoop .. | .atticLineFill .. | .linkTraining .. | .linkDown
  | .fwrangeWrite .. | .prepare | .activate | .firmwareRestart | .spdmRequest _ | .d3hotEntry
  | .powerLoss | .maintenanceFrameBoundary | .guardBandStart | .maintenanceSlotStart | .sensorSweep ..
  | .reset | .d3hotExit | .spareBringIn _ => true
  | .unannouncedExtension n => decide (1 ≤ n ∧ n % 64 = 0 ∧ n ≤ 4096)
  | .extendedFrameAnnounce n => decide (4096 ≤ n)
  | .railSettled r => decide (r < 48)
  | .tokenRefill s b => decide (s < 32 ∧ b < 12)
  | .slcRequestAdmit s p c n => decide (s < 32 ∧ p < 4 ∧ c < 3 ∧ 1 ≤ n ∧ n ≤ 2)
  | _ => false

/-- The ten slots in the order of R74. -/
def Slot.all : List Slot := [.sa, .sb, .va, .vb, .vc, .f, .ma, .mb, .x, .c]

/-- An instruction is well formed when some slot admits its word, or when it is a step whose names exist. -/
def WellFormed (i : Instr) : Bool := Slot.all.any (fun s => wfIn s i) || wfStep i

end Sys2Proof
end

