-- ==== Sys2Proof/Decode.lean ====
section
/-! DEFINITION. Reading slot words and bundles (R72 to R113), total on any bits, and writing them. A word is read
as a natural number below 2^32; a field is a quotient and a remainder by powers of two. -/

namespace Sys2Proof

/-- Bits [lo + n - 1 : lo] of a word (R4). -/
def fld (w lo n : Nat) : Nat := w / 2 ^ lo % 2 ^ n

/-- Why a slot word is refused (R97), tested in this order. -/
inductive DecErr where
  | unassigned
  | rz
  | limit
  deriving DecidableEq, Repr

/-- The first digits of the cause code of R97; the slot number is added to it. -/
def DecErr.base : DecErr → Nat
  | .unassigned => 0x010
  | .rz => 0x020
  | .limit => 0x030

/-- The slot's PRES bit (R74). -/
def Slot.num : Slot → Nat
  | .sa => 0 | .sb => 1 | .va => 2 | .vb => 3 | .vc => 4 | .f => 5 | .ma => 6 | .mb => 7 | .x => 8 | .c => 9

/-! ### Codes of the small enumerations -/

/-- Type codes of R134. -/
def ETy.ofCode : Nat → ETy
  | 0 => .f32 | 1 => .f16 | 2 => .bf16 | 3 => .e4m3 | 4 => .e5m2 | 5 => .e3m2 | 6 => .e2m3 | 7 => .e2m1
  | 8 => .s32 | 9 => .z32 | 10 => .s16 | 11 => .z16 | 12 => .s8 | 13 => .z8 | 14 => .s4 | _ => .s64

def ETy.code : ETy → Nat
  | .f32 => 0 | .f16 => 1 | .bf16 => 2 | .e4m3 => 3 | .e5m2 => 4 | .e3m2 => 5 | .e2m3 => 6 | .e2m1 => 7
  | .s32 => 8 | .z32 => 9 | .s16 => 10 | .z16 => 11 | .s8 => 12 | .z8 => 13 | .s4 => 14 | .s64 => 15

/-- Conditions of R99; code 7 is outside its limits. -/
def Cond.ofCode : Nat → Option Cond
  | 0 => some .eq | 1 => some .ne | 2 => some .lt | 3 => some .ge | 4 => some .ltu | 5 => some .geu
  | 6 => some .bit | _ => none

def Cond.code : Cond → Nat
  | .eq => 0 | .ne => 1 | .lt => 2 | .ge => 3 | .ltu => 4 | .geu => 5 | .bit => 6

/-- Conditions of R108. -/
def VCond.ofCode : Nat → Option VCond
  | 0 => some .eq | 1 => some .ne | 2 => some .lt | 3 => some .ge | 4 => some .le | 5 => some .gt
  | 6 => some .un | _ => none

def VCond.code : VCond → Nat
  | .eq => 0 | .ne => 1 | .lt => 2 | .ge => 3 | .le => 4 | .gt => 5 | .un => 6

/-- Rounding modes of R105. -/
def RMode.ofCode : Nat → Option RMode
  | 0 => some .rne | 1 => some .rtz | 2 => some .rdn | 3 => some .rup | 4 => some .sr | _ => none

def RMode.code : RMode → Nat
  | .rne => 0 | .rtz => 1 | .rdn => 2 | .rup => 3 | .sr => 4

/-- Operations of R107. -/
def RedOp.ofCode : Nat → Option RedOp
  | 0 => some .add | 1 => some .min | 2 => some .max | 3 => some .and | 4 => some .or | 5 => some .xor
  | _ => none

def RedOp.code : RedOp → Nat
  | .add => 0 | .min => 1 | .max => 2 | .and => 3 | .or => 4 | .xor => 5

/-- AMOG operations, PFH kinds and DRAIN scopes of R112. -/
def AmogOp.ofCode : Nat → Option AmogOp
  | 0 => some .add | 1 => some .swap | 2 => some .cas | _ => none

def AmogOp.code : AmogOp → Nat
  | .add => 0 | .swap => 1 | .cas => 2

def PfhKind.ofCode : Nat → Option PfhKind
  | 0 => some .pf | 1 => some .res | 2 => some .rel | _ => none

def PfhKind.code : PfhKind → Nat
  | .pf => 0 | .res => 1 | .rel => 2

def Scope.ofCode : Nat → Option Scope
  | 0 => some .context | 1 => some .tile | 2 => some .region | 3 => some .device | 4 => some .system
  | _ => none

def Scope.code : Scope → Nat
  | .context => 0 | .tile => 1 | .region => 2 | .device => 3 | .system => 4

def Width.ofCode : Nat → Width
  | 0 => .w8 | 1 => .w16 | 2 => .w32 | _ => .w64

def Width.code : Width → Nat
  | .w8 => 0 | .w16 => 1 | .w32 => 2 | .w64 => 3

/-- LD opcodes 0x01 to 0x07 (R385). -/
def LdTy.ofCode : Nat → LdTy
  | 1 => .s8 | 2 => .z8 | 3 => .s16 | 4 => .z16 | 5 => .s32 | 6 => .z32 | _ => .s64

def LdTy.code : LdTy → Nat
  | .s8 => 1 | .z8 => 2 | .s16 => 3 | .z16 => 4 | .s32 => 5 | .z32 => 6 | .s64 => 7

def LPos.ofCode : Nat → LPos
  | 0 => .p0 | 1 => .p18 | 2 => .p36 | _ => .p54

def LPos.code : LPos → Nat
  | .p0 => 0 | .p18 => 1 | .p36 => 2 | .p54 => 3

/-! ### Register and immediate fields -/

/-- The 6-bit register fields at [23:18], [17:12] and [11:6] (R81). -/
def r18 (w : Nat) : Fin 64 := Fin.ofNat 64 (w / 2 ^ 18)
def r12 (w : Nat) : Fin 64 := Fin.ofNat 64 (w / 2 ^ 12)
def r6 (w : Nat) : Fin 64 := Fin.ofNat 64 (w / 2 ^ 6)
/-- The sa and sb fields of XS words, at [19:14] and [13:8]. -/
def x14 (w : Nat) : Fin 64 := Fin.ofNat 64 (w / 2 ^ 14)
def x8 (w : Nat) : Fin 64 := Fin.ofNat 64 (w / 2 ^ 8)
/-- A 3-bit register or colour field. -/
def f8 (w lo : Nat) : Fin 8 := Fin.ofNat 8 (w / 2 ^ lo)
def accF (w : Nat) : Fin 16 := Fin.ofNat 16 (w / 2 ^ 20)
def k2 (w : Nat) : Fin 4 := Fin.ofNat 4 w
def tyF (w : Nat) : ETy := ETy.ofCode (fld w 2 4)
def bit (w n : Nat) : Bool := fld w n 1 == 1
def imm12 (w : Nat) : BitVec 12 := BitVec.ofNat 12 w
def disp20 (w : Nat) : BitVec 20 := BitVec.ofNat 20 w
def off9 (w : Nat) : BitVec 9 := BitVec.ofNat 9 (w / 2 ^ 3)
def mask8 (w : Nat) : BitVec 8 := BitVec.ofNat 8 w
def bandF (w : Nat) : BitVec 4 := BitVec.ofNat 4 (w / 2 ^ 2)
/-- The b field with I (R98). -/
def srcF (w n : Nat) : Src := if bit w n then .imm (r6 w) else .reg (r6 w)

/-- The last two tests of R97 on a word whose opcode is assigned: the RZ fields, then the limits. -/
def finish (s : Slot) (rzBits : Nat) (i : Option Instr) : Except DecErr Instr :=
  if rzBits ≠ 0 then .error .rz
  else match i with
    | none => .error .limit
    | some i => if wfIn s i then .ok i else .error .limit

/-- MTC by register number: EVENT, DMR and ASHAPE have rows of their own. -/
def mtcOf (num : Nat) (a : SReg) : Instr :=
  if num = 0x016 then .mtcEvent a
  else if num = 0x006 then .mtcDmr a
  else if num = 0x005 then .mtcAshape a
  else .mtc (BitVec.ofNat 12 num) a

/-- The scalar map shared by SA and SB (R98). -/
def decodeScalar (s : Slot) (op w : Nat) : Except DecErr Instr :=
  match op with
  | 0x01 => finish s (fld w 0 6) (some (.add (r18 w) (r12 w) (r6 w)))
  | 0x02 => finish s (fld w 0 6) (some (.sub (r18 w) (r12 w) (r6 w)))
  | 0x03 => finish s (fld w 0 6) (some (.mul (r18 w) (r12 w) (r6 w)))
  | 0x04 => finish s (fld w 1 5) (some (.mulh (r18 w) (r12 w) (r6 w) (bit w 0)))
  | 0x05 => finish s (fld w 1 5) (some (.div (r18 w) (r12 w) (r6 w) (bit w 0)))
  | 0x06 => finish s (fld w 1 5) (some (.rem (r18 w) (r12 w) (r6 w) (bit w 0)))
  | 0x07 => finish s (fld w 0 6) (some (.and (r18 w) (r12 w) (r6 w)))
  | 0x08 => finish s (fld w 0 6) (some (.or (r18 w) (r12 w) (r6 w)))
  | 0x09 => finish s (fld w 0 6) (some (.xor (r18 w) (r12 w) (r6 w)))
  | 0x0A => finish s (fld w 0 5) (some (.shl (r18 w) (r12 w) (srcF w 5)))
  | 0x0B => finish s (fld w 0 5) (some (.shr (r18 w) (r12 w) (srcF w 5)))
  | 0x0C => finish s (fld w 0 5) (some (.sra (r18 w) (r12 w) (srcF w 5)))
  | 0x0D => finish s (fld w 0 5) (some (.rotl (r18 w) (r12 w) (srcF w 5)))
  | 0x0E => finish s (fld w 1 5) (some (.min (r18 w) (r12 w) (r6 w) (bit w 0)))
  | 0x0F => finish s (fld w 1 5) (some (.max (r18 w) (r12 w) (r6 w) (bit w 0)))
  | 0x10 => finish s (fld w 0 12) (some (.clz (r18 w) (r12 w)))
  | 0x11 => finish s (fld w 0 12) (some (.ctz (r18 w) (r12 w)))
  | 0x12 => finish s (fld w 0 12) (some (.popc (r18 w) (r12 w)))
  | 0x13 => finish s (fld w 21 3 + fld w 3 2)
      ((Cond.ofCode (fld w 0 3)).map (.cmp (f8 w 18) (r12 w) (srcF w 5)))
  | 0x14 => finish s (fld w 4 2) (some (.sel (r18 w) (r12 w) (r6 w) (bit w 3) (f8 w 0)))
  | 0x20 => finish s 0 (some (.addi (r18 w) (r12 w) (imm12 w)))
  | 0x21 => finish s 0 (some (.andi (r18 w) (r12 w) (imm12 w)))
  | 0x22 => finish s 0 (some (.ori (r18 w) (r12 w) (imm12 w)))
  | 0x23 => finish s 0 (some (.xori (r18 w) (r12 w) (imm12 w)))
  | 0x24 => finish s 0 (some (.limm .p0 (r18 w) (BitVec.ofNat 18 w)))
  | 0x25 => finish s 0 (some (.limm .p18 (r18 w) (BitVec.ofNat 18 w)))
  | 0x26 => finish s 0 (some (.limm .p36 (r18 w) (BitVec.ofNat 18 w)))
  | 0x27 => finish s 0 (some (.limm .p54 (r18 w) (BitVec.ofNat 18 w)))
  | _ => .error .unassigned

/-- The control and system opcodes, which exist only in SA (R98). -/
def decodeControl (op w : Nat) : Except DecErr Instr :=
  match op with
  | 0x40 => finish .sa 0 (some (.br (f8 w 21) (bit w 20) (disp20 w)))
  | 0x41 => finish .sa 0 (some (.brn (f8 w 21) (bit w 20) (disp20 w)))
  | 0x42 => finish .sa (fld w 20 4) (some (.jmp (disp20 w)))
  | 0x43 => finish .sa (fld w 20 4) (some (.call (disp20 w)))
  | 0x44 => finish .sa (fld w 18 6 + fld w 0 12) (some (.jmpr (r12 w)))
  | 0x45 => finish .sa (fld w 18 6 + fld w 0 12) (some (.ret (r12 w)))
  | 0x46 => finish .sa (fld w 22 2 + fld w 20 1) (some (.loop (bit w 21) (disp20 w)))
  | 0x50 => finish .sa (fld w 12 12) (some (.trap (imm12 w)))
  | 0x51 => finish .sa (fld w 0 24) (some .eret)
  | 0x52 => finish .sa (fld w 12 6) (some (.mfc (r18 w) (imm12 w)))
  | 0x53 => finish .sa (fld w 18 6) (some (mtcOf (fld w 0 12) (r12 w)))
  | 0x54 => finish .sa (fld w 0 24) (some .yield)
  | 0x55 => finish .sa (fld w 12 12) (some (.pause (imm12 w)))
  | 0x56 => finish .sa (fld w 12 12) (some (.endTask (imm12 w)))
  | 0x57 => finish .sa (fld w 0 24) (some .bkpt)
  | _ => decodeScalar .sa op w

/-- The scratchpad words that MA and MB share (R101). -/
def decodeScratch (s : Slot) (op w : Nat) : Except DecErr Instr :=
  match op with
  | 0x01 | 0x02 | 0x03 | 0x04 | 0x05 | 0x06 | 0x07 =>
      finish s 0 (some (.ld (LdTy.ofCode op) (r18 w) (r12 w) (imm12 w)))
  | 0x08 | 0x09 | 0x0A | 0x0B =>
      finish s 0 (some (.st (Width.ofCode (op % 4)) (r18 w) (r12 w) (off9 w) (f8 w 0)))
  | 0x10 => finish s 0 (some (.vld (r18 w) (r12 w) (imm12 w)))
  | 0x11 => finish s 0 (some (.vstK0 (r18 w) (r12 w) (off9 w) (f8 w 0)))
  | 0x12 => finish s 0 (some (.vstK1 (r18 w) (r12 w) (off9 w) (f8 w 0)))
  | 0x13 => finish s 0 (some (.vstK2 (r18 w) (r12 w) (off9 w) (f8 w 0)))
  | 0x14 => finish s 0 (some (.vstK3 (r18 w) (r12 w) (off9 w) (f8 w 0)))
  | 0x18 | 0x19 | 0x1A | 0x1B =>
      finish s 0 (some (.vlds (Width.ofCode (op % 4)) (r18 w) (r12 w) (imm12 w)))
  | 0x1C | 0x1D | 0x1E | 0x1F =>
      finish s 0 (some (.vsts (Width.ofCode (op % 4)) (r18 w) (r12 w) (off9 w) (f8 w 0)))
  | 0x20 => finish s 0 (some (.vldb (r18 w) (r12 w) (imm12 w)))
  | _ => .error .unassigned

/-- The words of MA: the shared ones, VCSQ and the atomics (R101, R102). -/
def decodeMa (op w : Nat) : Except DecErr Instr :=
  match op with
  | 0x28 => finish .ma 0 (some (.vcsq (r18 w) (r12 w) (r6 w) (tyF w) (k2 w)))
  | 0x30 => finish .ma (fld w 3 2) (some (.aadd (r18 w) (r12 w) (r6 w) (bit w 5) (f8 w 0)))
  | 0x31 => finish .ma (fld w 3 1) (some (.amin (r18 w) (r12 w) (r6 w) (bit w 5) (bit w 4) (f8 w 0)))
  | 0x32 => finish .ma (fld w 3 1) (some (.amax (r18 w) (r12 w) (r6 w) (bit w 5) (bit w 4) (f8 w 0)))
  | 0x33 => finish .ma (fld w 3 2) (some (.aand (r18 w) (r12 w) (r6 w) (bit w 5) (f8 w 0)))
  | 0x34 => finish .ma (fld w 3 2) (some (.aor (r18 w) (r12 w) (r6 w) (bit w 5) (f8 w 0)))
  | 0x35 => finish .ma (fld w 3 2) (some (.axor (r18 w) (r12 w) (r6 w) (bit w 5) (f8 w 0)))
  | 0x36 => finish .ma (fld w 3 2) (some (.aswap (r18 w) (r12 w) (r6 w) (bit w 5) (f8 w 0)))
  | 0x37 => finish .ma (fld w 3 2) (some (.acas (r18 w) (r12 w) (r6 w) (bit w 5) (f8 w 0)))
  | _ => decodeScratch .ma op w

/-- The words that VA, VB and VC share (R103). -/
def decodeVecShared (s : Slot) (op w : Nat) : Except DecErr Instr :=
  match op with
  | 0x01 => finish s 0 (some (.vadd (r18 w) (r12 w) (r6 w) (tyF w) (k2 w)))
  | 0x02 => finish s 0 (some (.vsub (r18 w) (r12 w) (r6 w) (tyF w) (k2 w)))
  | 0x03 => finish s 0 (some (.vmul (r18 w) (r12 w) (r6 w) (tyF w) (k2 w)))
  | 0x05 => finish s 0 (some (.vmin (r18 w) (r12 w) (r6 w) (tyF w) (k2 w)))
  | 0x06 => finish s 0 (some (.vmax (r18 w) (r12 w) (r6 w) (tyF w) (k2 w)))
  | 0x07 => finish s (fld w 6 6) (some (.vabs (r18 w) (r12 w) (tyF w) (k2 w)))
  | 0x08 => finish s (fld w 6 6) (some (.vneg (r18 w) (r12 w) (tyF w) (k2 w)))
  | 0x09 => finish s 0 (some (.vand (r18 w) (r12 w) (r6 w) (tyF w) (k2 w)))
  | 0x0A => finish s 0 (some (.vor (r18 w) (r12 w) (r6 w) (tyF w) (k2 w)))
  | 0x0B => finish s 0 (some (.vxor (r18 w) (r12 w) (r6 w) (tyF w) (k2 w)))
  | 0x0C => finish s 0 (some (.vshl (r18 w) (r12 w) (r6 w) (tyF w) (k2 w)))
  | 0x0D => finish s 0 (some (.vshr (r18 w) (r12 w) (r6 w) (tyF w) (k2 w)))
  | 0x0E => finish s 0 (some (.vsra (r18 w) (r12 w) (r6 w) (tyF w) (k2 w)))
  | 0x10 => finish s 0 (some (.vsel (r18 w) (r12 w) (r6 w) (tyF w) (k2 w)))
  | 0x11 => finish s 0 (some (.vclamp (r18 w) (r12 w) (r6 w) (tyF w) (k2 w)))
  | 0x13 => finish s (fld w 9 3) ((RedOp.ofCode (fld w 6 3)).map (.vred (r18 w) (r12 w) · (tyF w) (k2 w)))
  | 0x14 => finish s (fld w 9 3) ((RedOp.ofCode (fld w 6 3)).map (.vscan (r18 w) (r12 w) · (tyF w) (k2 w)))
  | 0x15 => finish s 0 (some (.vperm (r18 w) (r12 w) (r6 w) (tyF w) (k2 w)))
  | 0x16 => finish s (fld w 6 6) (some (.vsplat (r18 w) (r12 w) (tyF w) (k2 w)))
  | 0x17 => finish s (fld w 6 6) (some (.vmov (r18 w) (r12 w) (tyF w) (k2 w)))
  | 0x18 => finish s 0 (some (.vget (r18 w) (r12 w) (r6 w) (tyF w) (k2 w)))
  | 0x19 => finish s 0 (some (.vput (r18 w) (r12 w) (r6 w) (tyF w) (k2 w)))
  | 0x1A => finish s (fld w 9 3) (some (.vxch (r18 w) (r12 w) (f8 w 6) (tyF w) (k2 w)))
  | 0x38 | 0x39 | 0x3A | 0x3B | 0x3C | 0x3D | 0x3E =>
      finish s (fld w 21 3)
        ((VCond.ofCode (op % 8)).map (.vcmp · (f8 w 18) (r12 w) (r6 w) (tyF w) (k2 w)))
  | _ => .error .unassigned

/-- VA and VB also hold VFMA and VDOT (R103). -/
def decodeVab (s : Slot) (op w : Nat) : Except DecErr Instr :=
  match op with
  | 0x04 => finish s 0 (some (.vfma (r18 w) (r12 w) (r6 w) (tyF w) (k2 w)))
  | 0x12 => finish s 0 (some (.vdot (r18 w) (r12 w) (r6 w) (tyF w) (k2 w)))
  | _ => decodeVecShared s op w

/-- VC also holds conversions, quantising and the mask words (R103). -/
def decodeVc (op w : Nat) : Except DecErr Instr :=
  match op with
  | 0x20 | 0x21 | 0x22 | 0x23 | 0x24 =>
      finish .vc (fld w 10 1)
        ((RMode.ofCode (op % 8)).map
          (.vcvt · (r18 w) (r12 w) (bit w 11) (ETy.ofCode (fld w 6 4)) (tyF w) (k2 w)))
  | 0x28 | 0x29 | 0x2A | 0x2B | 0x2C =>
      finish .vc (fld w 6 2)
        ((RMode.ofCode (op % 8)).map
          (.vqnt · (r18 w) (r12 w) (Fin.ofNat 4 (w / 2 ^ 10)) (Fin.ofNat 4 (w / 2 ^ 8)) (tyF w) (k2 w)))
  | 0x30 => finish .vc 0
      (some (.vdqnt (r18 w) (r12 w) (Fin.ofNat 4 (w / 2 ^ 10)) (ETy.ofCode (fld w 6 4)) (tyF w) (k2 w)))
  | 0x40 => finish .vc (fld w 21 3 + fld w 15 3 + fld w 9 3 + fld w 0 6)
      (some (.kand (f8 w 18) (f8 w 12) (f8 w 6)))
  | 0x41 => finish .vc (fld w 21 3 + fld w 15 3 + fld w 9 3 + fld w 0 6)
      (some (.kor (f8 w 18) (f8 w 12) (f8 w 6)))
  | 0x42 => finish .vc (fld w 21 3 + fld w 15 3 + fld w 9 3 + fld w 0 6)
      (some (.kxor (f8 w 18) (f8 w 12) (f8 w 6)))
  | 0x43 => finish .vc (fld w 21 3 + fld w 15 3 + fld w 0 12) (some (.knot (f8 w 18) (f8 w 12)))
  | 0x44 => finish .vc (fld w 15 3 + fld w 0 12) (some (.kpopc (r18 w) (f8 w 12)))
  | 0x45 => finish .vc (fld w 15 3 + fld w 0 12) (some (.kfirst (r18 w) (f8 w 12)))
  | _ => decodeVecShared .vc op w

/-- The special functions (R109). -/
def decodeF (op w : Nat) : Except DecErr Instr :=
  match op with
  | 0x01 => finish .f (fld w 6 6) (some (.fexp2 (r18 w) (r12 w) (tyF w) (k2 w)))
  | 0x02 => finish .f (fld w 6 6) (some (.flog2 (r18 w) (r12 w) (tyF w) (k2 w)))
  | 0x03 => finish .f (fld w 6 6) (some (.frcp (r18 w) (r12 w) (tyF w) (k2 w)))
  | 0x04 => finish .f (fld w 6 6) (some (.frsq (r18 w) (r12 w) (tyF w) (k2 w)))
  | 0x05 => finish .f (fld w 6 6) (some (.ftanh (r18 w) (r12 w) (tyF w) (k2 w)))
  | 0x06 => finish .f (fld w 6 6) (some (.fsig (r18 w) (r12 w) (tyF w) (k2 w)))
  | 0x07 => finish .f (fld w 6 6) (some (.fsin (r18 w) (r12 w) (tyF w) (k2 w)))
  | 0x08 => finish .f (fld w 6 6) (some (.fcos (r18 w) (r12 w) (tyF w) (k2 w)))
  | _ => .error .unassigned

/-- The matrix words (R110). -/
def decodeX (op w : Nat) : Except DecErr Instr :=
  match op with
  | 0x01 => finish .x (fld w 20 4 + fld w 0 8) (some (.mcfg (x14 w) (x8 w)))
  | 0x02 => finish .x (fld w 20 4 + fld w 6 2 + fld w 0 2) (some (.mldw (x14 w) (x8 w) (bandF w)))
  | 0x03 => finish .x (fld w 0 24) (some .mswap)
  | 0x04 => finish .x (fld w 6 1 + fld w 0 2) (some (.mmul (accF w) (x14 w) (x8 w) (bit w 7) (bandF w)))
  | 0x05 => finish .x (fld w 6 1 + fld w 0 2) (some (.mvec (accF w) (x14 w) (x8 w) (bit w 7) (bandF w)))
  | 0x06 => finish .x (fld w 7 1 + fld w 0 2) (some (.mdrn (accF w) (x14 w) (x8 w) (bit w 6) (bandF w)))
  | 0x07 => finish .x (fld w 7 1 + fld w 0 2) (some (.maccd (accF w) (x14 w) (x8 w) (bit w 6) (bandF w)))
  | 0x08 => finish .x (fld w 8 12 + fld w 6 2 + fld w 0 2) (some (.mzero (accF w) (bandF w)))
  | _ => .error .unassigned

/-- The engine and ordering words (R112). -/
def decodeC (op w : Nat) : Except DecErr Instr :=
  match op with
  | 0x01 => finish .c (fld w 12 6 + fld w 6 6) (some (.xfer (r18 w) (f8 w 3) (f8 w 0)))
  | 0x02 => finish .c (fld w 12 6 + fld w 3 9) (some (.xwait (r18 w) (f8 w 0)))
  | 0x03 => finish .c (fld w 12 6 + fld w 3 9) (some (.xptr (r18 w) (f8 w 0)))
  | 0x04 => finish .c (fld w 6 6 + fld w 0 4) (some (.gthr (r18 w) (r12 w) (Width.ofCode (fld w 4 2))))
  | 0x05 => finish .c (fld w 0 12) (some (.gpop (r18 w) (r12 w)))
  | 0x06 => finish .c (fld w 12 6 + fld w 6 6 + fld w 0 3) (some (.coll (r18 w) (f8 w 3)))
  | 0x07 => finish .c (fld w 0 12) (some (.cpop (r18 w) (r12 w)))
  | 0x08 => finish .c (fld w 0 3) (some (.ladd (r18 w) (r12 w) (r6 w) (f8 w 3)))
  | 0x09 => finish .c (fld w 6 6 + fld w 0 3) (some (.linit (r18 w) (r12 w) (f8 w 3)))
  | 0x0A => finish .c (fld w 0 6) (some (.lraw (r18 w) (r12 w) (r6 w)))
  | 0x0B => finish .c (fld w 9 3)
      ((AmogOp.ofCode (fld w 7 2)).map (.amog (r18 w) (r12 w) · (bit w 6) (f8 w 3) (f8 w 0)))
  | 0x0C => finish .c (fld w 2 10) ((PfhKind.ofCode (fld w 0 2)).map (.pfh (r18 w) (r12 w)))
  | 0x0D => finish .c (fld w 12 12 + fld w 8 2) (some (.sync (Fin.ofNat 4 (w / 2 ^ 10)) (mask8 w)))
  | 0x0E => finish .c (fld w 12 12 + fld w 8 4) (some (.fence (mask8 w)))
  | 0x0F => finish .c (fld w 12 12 + fld w 11 1) ((Scope.ofCode (fld w 8 3)).map (.drain · (mask8 w)))
  | _ => .error .unassigned

/-- The instruction that slot `s` reads from a slot word, or why it is refused (R96, R97). -/
def decodeWord (s : Slot) (w : Nat) : Except DecErr Instr :=
  let op := fld w 24 8
  match s with
  | .sa => decodeControl op w
  | .sb => decodeScalar .sb op w
  | .va => decodeVab .va op w
  | .vb => decodeVab .vb op w
  | .vc => decodeVc op w
  | .f => decodeF op w
  | .ma => decodeMa op w
  | .mb => decodeScratch .mb op w
  | .x => decodeX op w
  | .c => decodeC op w

/-! ### Bundles -/

/-- A little-endian value (R5). -/
def leNat : List Byte → Nat
  | [] => 0
  | b :: bs => b.toNat + 256 * leNat bs

/-- The `n` bytes of a value, the least significant first (R5). -/
def leBytes : Nat → Nat → List Byte
  | 0, _ => []
  | n + 1, v => BitVec.ofNat 8 v :: leBytes n (v / 256)

/-- The slots that PRES names, in the order of R74. -/
def presSlots (pres : BitVec 10) : List Slot := Slot.all.filter (fun s => pres.getLsbD s.num)

/-- A bundle is 8 + 4 n bytes long (R72). -/
def bundleLen (pres : BitVec 10) : Nat := 8 + 4 * (presSlots pres).length

/-- The check byte of a bundle: the XOR of its other bytes with 0x5A (R76). -/
def chkOf (bytes : List Byte) : Byte :=
  ((bytes.take 7) ++ (bytes.drop 8)).foldl (· ^^^ ·) 0x5A#8

/-- The header fields of R75, read from the header's value. -/
def headerOf (h : Nat) : Header where
  pres := BitVec.ofNat 10 h
  f := bit h 24
  b := bit h 25
  k := bit h 26
  d := bit h 27
  cmask := BitVec.ofNat 8 (h / 2 ^ 28)
  stamp := fld h 36 14
  prof := fld h 50 6

/-- The slot words of a bundle, read in slot order; the first refused one gives the code of R97 and its slot. -/
def decodeSlots : List Slot → List Byte → Except (Nat × Nat) (List (Slot × Instr))
  | [], _ => .ok []
  | s :: ss, bs =>
    match decodeWord s (leNat (bs.take 4)) with
    | .error e => .error (e.base + s.num, s.num)
    | .ok i =>
      match decodeSlots ss (bs.drop 4) with
      | .error e => .error e
      | .ok is => .ok ((s, i) :: is)

/-- Reading a bundle from the bytes up to the end of its half, with the checks 3 to 7 of R94 in order. An error is a
cause code and a slot for ESLOT, 10 when no slot is at fault. -/
def decodeBundle (avail : List Byte) : Except (Nat × Nat) Bundle :=
  if avail.length < 8 then .error (0x005, 10)
  else
    let h := leNat (avail.take 8)
    let hdr := headerOf h
    let len := bundleLen hdr.pres
    if avail.length < len then .error (0x005, 10)
    else if chkOf (avail.take len) ≠ BitVec.ofNat 8 (h / 2 ^ 56) then .error (0x001, 10)
    else if fld h 10 14 ≠ 0 then .error (0x002, 10)
    else if 4 ≤ hdr.prof then .error (0x004, 10)
    else match decodeSlots (presSlots hdr.pres) (avail.drop 8) with
      | .error e => .error e
      | .ok ws => .ok ⟨hdr, ws⟩

/-! ### The encoder -/

/-- An opcode with the fields at [23:18], [17:12] and [11:6]. -/
def enc3 (op d a b : Nat) : Nat := op * 2 ^ 24 + d * 2 ^ 18 + a * 2 ^ 12 + b * 2 ^ 6

/-- A VEC word (R81). -/
def encV (op d a b : Nat) (t : ETy) (k : KSel) : Nat := enc3 op d a b + t.code * 2 ^ 2 + k.val

/-- An XS word (R81). -/
def encX (op acc a b ctl : Nat) : Nat := op * 2 ^ 24 + acc * 2 ^ 20 + a * 2 ^ 14 + b * 2 ^ 8 + ctl

def Src.field : Src → Nat
  | .reg r => r.val
  | .imm n => n.val

def Src.i : Src → Nat
  | .reg _ => 0
  | .imm _ => 1

/-- An atomic's word (R102). -/
def encA (op : Nat) (d a b : SReg) (w u : Bool) (col : Colour) : Nat :=
  enc3 op d.val a.val b.val + w.toNat * 2 ^ 5 + u.toNat * 2 ^ 4 + col.val

/-- A store's word (R81). -/
def encS (op d b : Nat) (off : BitVec 9) (col : Colour) : Nat :=
  op * 2 ^ 24 + d * 2 ^ 18 + b * 2 ^ 12 + off.toNat * 2 ^ 3 + col.val

/-- The slot word of an instruction, from the formats of R81 and the maps of R98 to R112. A step without an encoding
has no word. -/
def encodeWord? : Instr → Option Nat
  | .aadd d a b w c => some (encA 0x30 d a b w false c)
  | .amin d a b w u c => some (encA 0x31 d a b w u c)
  | .amax d a b w u c => some (encA 0x32 d a b w u c)
  | .aand d a b w c => some (encA 0x33 d a b w false c)
  | .aor d a b w c => some (encA 0x34 d a b w false c)
  | .axor d a b w c => some (encA 0x35 d a b w false c)
  | .aswap d a b w c => some (encA 0x36 d a b w false c)
  | .acas d a b w c => some (encA 0x37 d a b w false c)
  | .add d a b => some (enc3 0x01 d.val a.val b.val)
  | .addi d a i => some (enc3 0x20 d.val a.val 0 + i.toNat)
  | .amog a k o w c ch => some (enc3 0x0B a.val k.val 0 + o.code * 2 ^ 7 + w.toNat * 2 ^ 6 + c.val * 2 ^ 3 + ch.val)
  | .and d a b => some (enc3 0x07 d.val a.val b.val)
  | .andi d a i => some (enc3 0x21 d.val a.val 0 + i.toNat)
  | .bkpt => some (0x57 * 2 ^ 24)
  | .br q n x => some (0x40 * 2 ^ 24 + q.val * 2 ^ 21 + n.toNat * 2 ^ 20 + x.toNat)
  | .brn q n x => some (0x41 * 2 ^ 24 + q.val * 2 ^ 21 + n.toNat * 2 ^ 20 + x.toNat)
  | .call x => some (0x43 * 2 ^ 24 + x.toNat)
  | .clz d a => some (enc3 0x10 d.val a.val 0)
  | .ctz d a => some (enc3 0x11 d.val a.val 0)
  | .cmp d a b c => some (enc3 0x13 d.val a.val b.field + b.i * 2 ^ 5 + c.code)
  | .coll a c => some (enc3 0x06 a.val 0 0 + c.val * 2 ^ 3)
  | .cpop v d => some (enc3 0x07 v.val d.val 0)
  | .div d a b u => some (enc3 0x05 d.val a.val b.val + u.toNat)
  | .drain s m => some (0x0F * 2 ^ 24 + s.code * 2 ^ 8 + m.toNat)
  | .endTask n => some (0x56 * 2 ^ 24 + n.toNat)
  | .eret => some (0x51 * 2 ^ 24)
  | .fence m => some (0x0E * 2 ^ 24 + m.toNat)
  | .fexp2 d a t k => some (encV 0x01 d.val a.val 0 t k)
  | .flog2 d a t k => some (encV 0x02 d.val a.val 0 t k)
  | .frcp d a t k => some (encV 0x03 d.val a.val 0 t k)
  | .frsq d a t k => some (encV 0x04 d.val a.val 0 t k)
  | .ftanh d a t k => some (encV 0x05 d.val a.val 0 t k)
  | .fsig d a t k => some (encV 0x06 d.val a.val 0 t k)
  | .fsin d a t k => some (encV 0x07 d.val a.val 0 t k)
  | .fcos d a t k => some (encV 0x08 d.val a.val 0 t k)
  | .gpop v d => some (enc3 0x05 v.val d.val 0)
  | .gthr v b w => some (enc3 0x04 v.val b.val 0 + w.code * 2 ^ 4)
  | .jmp x => some (0x42 * 2 ^ 24 + x.toNat)
  | .jmpr a => some (enc3 0x44 0 a.val 0)
  | .kand d a b => some (enc3 0x40 d.val a.val b.val)
  | .kor d a b => some (enc3 0x41 d.val a.val b.val)
  | .kxor d a b => some (enc3 0x42 d.val a.val b.val)
  | .knot d a => some (enc3 0x43 d.val a.val 0)
  | .kpopc d a => some (enc3 0x44 d.val a.val 0)
  | .kfirst d a => some (enc3 0x45 d.val a.val 0)
  | .ladd v i p c => some (enc3 0x08 v.val i.val p.val + c.val * 2 ^ 3)
  | .ld t d b o => some (enc3 t.code d.val b.val 0 + o.toNat)
  | .limm p d i => some ((0x24 + p.code) * 2 ^ 24 + d.val * 2 ^ 18 + i.toNat)
  | .linit a n c => some (enc3 0x09 a.val n.val 0 + c.val * 2 ^ 3)
  | .loop c x => some (0x46 * 2 ^ 24 + c.toNat * 2 ^ 21 + x.toNat)
  | .lraw a b n => some (enc3 0x0A a.val b.val n.val)
  | .maccd c a b l q => some (encX 0x07 c.val a.val b.val (l.toNat * 2 ^ 6 + q.toNat * 2 ^ 2))
  | .min d a b u => some (enc3 0x0E d.val a.val b.val + u.toNat)
  | .max d a b u => some (enc3 0x0F d.val a.val b.val + u.toNat)
  | .mcfg a b => some (encX 0x01 0 a.val b.val 0)
  | .mdrn c a b l q => some (encX 0x06 c.val a.val b.val (l.toNat * 2 ^ 6 + q.toNat * 2 ^ 2))
  | .mfc d r => some (enc3 0x52 d.val 0 0 + r.toNat)
  | .mtc r a => some (enc3 0x53 0 a.val 0 + r.toNat)
  | .mtcEvent a => some (enc3 0x53 0 a.val 0 + 0x016)
  | .mtcDmr a => some (enc3 0x53 0 a.val 0 + 0x006)
  | .mtcAshape a => some (enc3 0x53 0 a.val 0 + 0x005)
  | .mldw a b n => some (encX 0x02 0 a.val b.val (n.toNat * 2 ^ 2))
  | .mmul c a b p n => some (encX 0x04 c.val a.val b.val (p.toNat * 2 ^ 7 + n.toNat * 2 ^ 2))
  | .mswap => some (0x03 * 2 ^ 24)
  | .mul d a b => some (enc3 0x03 d.val a.val b.val)
  | .mulh d a b u => some (enc3 0x04 d.val a.val b.val + u.toNat)
  | .mvec c a b p n => some (encX 0x05 c.val a.val b.val (p.toNat * 2 ^ 7 + n.toNat * 2 ^ 2))
  | .mzero c q => some (encX 0x08 c.val 0 0 (q.toNat * 2 ^ 2))
  | .or d a b => some (enc3 0x08 d.val a.val b.val)
  | .ori d a i => some (enc3 0x22 d.val a.val 0 + i.toNat)
  | .pause n => some (0x55 * 2 ^ 24 + n.toNat)
  | .pfh a b k => some (enc3 0x0C a.val b.val 0 + k.code)
  | .popc d a => some (enc3 0x12 d.val a.val 0)
  | .rem d a b u => some (enc3 0x06 d.val a.val b.val + u.toNat)
  | .ret a => some (enc3 0x45 0 a.val 0)
  | .shl d a b => some (enc3 0x0A d.val a.val b.field + b.i * 2 ^ 5)
  | .shr d a b => some (enc3 0x0B d.val a.val b.field + b.i * 2 ^ 5)
  | .sra d a b => some (enc3 0x0C d.val a.val b.field + b.i * 2 ^ 5)
  | .rotl d a b => some (enc3 0x0D d.val a.val b.field + b.i * 2 ^ 5)
  | .sel d a b n q => some (enc3 0x14 d.val a.val b.val + n.toNat * 2 ^ 3 + q.val)
  | .st w d b o c => some (encS (0x08 + w.code) d.val b.val o c)
  | .sub d a b => some (enc3 0x02 d.val a.val b.val)
  | .sync l m => some (0x0D * 2 ^ 24 + l.val * 2 ^ 10 + m.toNat)
  | .trap n => some (0x50 * 2 ^ 24 + n.toNat)
  | .vadd d a b t k => some (encV 0x01 d.val a.val b.val t k)
  | .vsub d a b t k => some (encV 0x02 d.val a.val b.val t k)
  | .vmul d a b t k => some (encV 0x03 d.val a.val b.val t k)
  | .vfma d a b t k => some (encV 0x04 d.val a.val b.val t k)
  | .vmin d a b t k => some (encV 0x05 d.val a.val b.val t k)
  | .vmax d a b t k => some (encV 0x06 d.val a.val b.val t k)
  | .vabs d a t k => some (encV 0x07 d.val a.val 0 t k)
  | .vneg d a t k => some (encV 0x08 d.val a.val 0 t k)
  | .vand d a b t k => some (encV 0x09 d.val a.val b.val t k)
  | .vor d a b t k => some (encV 0x0A d.val a.val b.val t k)
  | .vxor d a b t k => some (encV 0x0B d.val a.val b.val t k)
  | .vshl d a b t k => some (encV 0x0C d.val a.val b.val t k)
  | .vshr d a b t k => some (encV 0x0D d.val a.val b.val t k)
  | .vsra d a b t k => some (encV 0x0E d.val a.val b.val t k)
  | .vsel d a b t k => some (encV 0x10 d.val a.val b.val t k)
  | .vclamp d a b t k => some (encV 0x11 d.val a.val b.val t k)
  | .vdot d a b t k => some (encV 0x12 d.val a.val b.val t k)
  | .vred d a o t k => some (encV 0x13 d.val a.val o.code t k)
  | .vscan d a o t k => some (encV 0x14 d.val a.val o.code t k)
  | .vperm d a b t k => some (encV 0x15 d.val a.val b.val t k)
  | .vsplat d a t k => some (encV 0x16 d.val a.val 0 t k)
  | .vmov d a t k => some (encV 0x17 d.val a.val 0 t k)
  | .vget d a b t k => some (encV 0x18 d.val a.val b.val t k)
  | .vput d a b t k => some (encV 0x19 d.val a.val b.val t k)
  | .vxch d a x t k => some (encV 0x1A d.val a.val x.val t k)
  | .vcvt m d a i s t k => some (encV (0x20 + m.code) d.val a.val (i.toNat * 2 ^ 5 + s.code) t k)
  | .vqnt m d a n y t k => some (encV (0x28 + m.code) d.val a.val (n.val * 2 ^ 4 + y.val * 2 ^ 2) t k)
  | .vdqnt d a n c t k => some (encV 0x30 d.val a.val (n.val * 2 ^ 4 + c.code) t k)
  | .vcmp c d a b t k => some (encV (0x38 + c.code) d.val a.val b.val t k)
  | .vcsq d a b t k => some (encV 0x28 d.val a.val b.val t k)
  | .vld d b o => some (enc3 0x10 d.val b.val 0 + o.toNat)
  | .vldb d b o => some (enc3 0x20 d.val b.val 0 + o.toNat)
  | .vlds w d b o => some (enc3 (0x18 + w.code) d.val b.val 0 + o.toNat)
  | .vstK0 d b o c => some (encS 0x11 d.val b.val o c)
  | .vstK1 d b o c => some (encS 0x12 d.val b.val o c)
  | .vstK2 d b o c => some (encS 0x13 d.val b.val o c)
  | .vstK3 d b o c => some (encS 0x14 d.val b.val o c)
  | .vsts w d b o c => some (encS (0x1C + w.code) d.val b.val o c)
  | .xfer a c h => some (enc3 0x01 a.val 0 0 + c.val * 2 ^ 3 + h.val)
  | .xor d a b => some (enc3 0x09 d.val a.val b.val)
  | .xori d a i => some (enc3 0x23 d.val a.val 0 + i.toNat)
  | .xptr d h => some (enc3 0x03 d.val 0 0 + h.val)
  | .xwait a h => some (enc3 0x02 a.val 0 0 + h.val)
  | .yield => some (0x54 * 2 ^ 24)
  | _ => none

/-- The slot word of an instruction (R81); 0, which no slot decodes, for a step without one. -/
def encodeWord (i : Instr) : Nat := (encodeWord? i).getD 0

/-- PRES of a list of slot words. -/
def presOf (ws : List (Slot × Instr)) : Nat := (ws.map (fun p => 2 ^ p.1.num)).sum

/-- The header's value without CHK (R75). -/
def headerVal (h : Header) (pres : Nat) : Nat :=
  pres + h.f.toNat * 2 ^ 24 + h.b.toNat * 2 ^ 25 + h.k.toNat * 2 ^ 26 + h.d.toNat * 2 ^ 27
    + h.cmask.toNat * 2 ^ 28 + h.stamp % 2 ^ 14 * 2 ^ 36 + h.prof % 2 ^ 6 * 2 ^ 50

/-- The bytes of a bundle whose slot words are given as values: header, then words in slot order, with CHK (R76). -/
def packBundle (hv : Nat) (words : List Nat) : List Byte :=
  let body := (words.map (leBytes 4)).flatten
  let pre := leBytes 7 hv ++ [0#8] ++ body
  leBytes 7 hv ++ [chkOf pre] ++ body

/-- The bytes of a bundle (R72 to R76). -/
def encode (b : Bundle) : List Byte :=
  packBundle (headerVal b.hdr (presOf b.words)) (b.words.map (fun p => encodeWord p.2))

/-! ### Words of the opcode table -/

/-- The slots tried for a word that comes without its slot: the first slot of each class in the order of R74. -/
def tableSlots : List Slot := [.sa, .va, .vc, .f, .ma, .x, .c]

/-- The first slot whose map reads the word, with what it reads. -/
def firstSlot (w : Nat) : List Slot → Option (Slot × Instr)
  | [] => none
  | s :: ss =>
    match decodeWord s w with
    | .ok i => some (s, i)
    | .error _ => firstSlot w ss

/-- The instruction that a word of the opcode table gives. A slot word has a meaning only in its slot (R96), and the
table's word does not name one: the first slot class in the order of R74 that reads the word is taken. -/
def decodeTableWord (nbits w : Nat) : Option Instr :=
  if nbits = 0 ∨ 32 < nbits then none
  else (firstSlot (w % 2 ^ 32) tableSlots).map (·.2)

end Sys2Proof
end

