-- ==== Sys2Proof/Config.lean ====
section
/-! DEFINITION. What an implementation fixes and the values the manual leaves open. An opaque constant has no body:
nothing in Lean can evaluate it or prove a value of it. -/

namespace Sys2Proof.Config

/-- A byte whose value the manual does not give: the data of a scratchpad row or a memory sector that is lost
(R173, R338). The argument is the state's free-value counter. -/
opaque freeByte : Nat → Byte

/-- What a byte reads as that was encrypted under one generation of a key and is decrypted under another (R25, R182): the two
generations, its address, and the plaintext of its sector (log 2). -/
opaque otherKey : Nat → Nat → Nat → Nat → Byte

/-- Whether a special-function result beyond the precision bound of the model's bracketing rounds up (R371; log 7):
operation, operand. -/
opaque roundsUp : Nat → Nat → Bool

/-- The signature of an SPDM measurement report (R333): request nonce and measured value. -/
opaque spdmSignature : Nat → Nat → Nat

/-- Energy charged, in units of 1/2^20 µJ, for one band of one row or step at a vote (R313 gives no figure; log 16). -/
opaque bandEnergy : Nat → Nat

/-- How far each shedding threshold lies above the one before it, in degrees Celsius; R314 gives no figures (log 18). -/
opaque thresholdGap : Nat → Nat

/-- The shedding thresholds TH1 < TH2 < TH3 < TH4 in degrees Celsius, TH1 above 5 (R314). -/
def threshold : Nat → Nat
  | 0 => 5
  | n + 1 => threshold n + 1 + thresholdGap n

/-- The slice of the SLC that serves a 128-byte line, taken modulo 32 (R190 gives the number of slices, no map; log 55). -/
opaque sliceOf : Nat → Nat

/-- The set of the SLC that a line belongs to, and the ways of a set less one (R22, R184 give neither; log 55). -/
opaque slcSet : Nat → Nat
opaque slcMoreWays : Nat

/-- Which attic line leaves when a full attic takes another (R320 gives no rule, log 59): the free-value counter. -/
opaque atticVictim : Nat → Nat

/-- What the measurements of R333 take from the part itself: the boot ROM and the fuse settings. -/
opaque bootRom : Nat
opaque fuses : Nat

/-- The measured value of R333: boot ROM, firmware image, fuse settings, sparing map (log 51). -/
opaque measurement : Nat → List (Nat × Byte) → Nat → List (Nat × Nat) → Nat

/-- Which snoop-filter entry a capacity eviction takes (R319): the free-value counter. -/
opaque filterVictim : Nat → Nat

/-- Whether the firmware image that a carve-out holds passes its signature check (R332). -/
opaque imageOk : List (Nat × Byte) → Bool

/-- The length of the bundle "stored at" a program address that maps to no instruction memory, which CALL adds to its
link (R355 gives none). -/
opaque freeLength : Nat → Nat

/-- Cycles of one frame (R305). -/
def frameLen : Nat := 8192
/-- Cycles of an extended frame (R305). -/
def extFrameLen : Nat := 9728
/-- First cycle of the guard band of a frame (R306). -/
def guardStart : Nat := 7296
/-- First cycle of the maintenance slot of a frame (R305). -/
def slotStart : Nat := 7680
/-- Scratchpad bytes (R169). -/
def spBytes : Nat := 0x300000
/-- Device memory bytes: 384 GiB (R23). -/
def devBytes : Nat := 384 * 2 ^ 30
/-- The quantum of an elastic context (R45). -/
def quantum : Nat := 16384
/-- Entries of the gate (R280). -/
def gateMax : Nat := 128
/-- Scalar and vector entries of the undo log (R279). -/
def undoScalarMax : Nat := 64
def undoVectorMax : Nat := 32
/-- Entries of the snoop filter (R319). -/
def filterMax : Nat := 1048576
/-- Lines of the SLC: 128 MiB of 128 bytes (R22); lines of the attic: 16 MiB of 64 bytes (R24). -/
def slcLines : Nat := 1048576
def atticLines : Nat := 262144
/-- What token buckets and pools hold after reset, their depths, and the refill rate (log 3; R190 bounds the depths). -/
def bucketDepth : Nat := 4095
def poolDepth : Nat := 16383
def refillRate : Nat := 2048
/-- Cycles of a reference tick (R8). -/
def tickCycles : Nat := 14
/-- The default completion timeout of 16 ms, in cycles of the tile clock (R8, R325). -/
def defaultTimeout : Nat := 16 * 1400000

end Sys2Proof.Config
end

