-- ==== Sys2Proof/Machine/Store.lean ====
section
/-! DEFINITION. Sparse maps and byte memories: lists with rising keys. A memory lists no byte that equals what an
unlisted address reads as, so equal memories are equal lists. -/

namespace Sys2Proof.Machine

/-! ### Sparse maps -/

/-- The value at a key. -/
def mfind {α : Type} : AMap α → Nat → Option α
  | [], _ => none
  | (k, v) :: m, n => if k = n then some v else mfind m n

/-- The value at a key, or a default. -/
def mgetD {α : Type} (m : AMap α) (n : Nat) (d : α) : α := (mfind m n).getD d

/-- Store a value at a key, keeping the keys rising. -/
def mput {α : Type} : AMap α → Nat → α → AMap α
  | [], n, x => [(n, x)]
  | (k, v) :: m, n, x =>
    if n < k then (n, x) :: (k, v) :: m
    else if n = k then (n, x) :: m
    else (k, v) :: mput m n x

/-- Remove a key. -/
def merase {α : Type} : AMap α → Nat → AMap α
  | [], _ => []
  | (k, v) :: m, n => if k = n then m else (k, v) :: merase m n

/-- Change the value at a key that is present. -/
def mmodify {α : Type} : AMap α → Nat → (α → α) → AMap α
  | [], _, _ => []
  | (k, v) :: m, n, f => if k = n then (k, f v) :: m else (k, v) :: mmodify m n f

/-- Keys rise strictly. -/
def mwf {α : Type} : AMap α → Bool
  | [] => true
  | [_] => true
  | (k, _) :: (k', v') :: m => decide (k < k') && mwf ((k', v') :: m)

/-! ### Byte memories -/

/-- A byte memory: rising addresses, no byte equal to `blank` (log 2). -/
abbrev Memory := List Host.Cell

/-- What an address that nothing has written reads as (log 2). -/
def blank : Byte := 0#8

/-- The byte at an address. -/
def mread (m : Memory) (a : Nat) : Byte := mgetD m a blank

/-- Write one byte in canonical form. -/
def mwrite (m : Memory) (a : Nat) (b : Byte) : Memory := if b = blank then merase m a else mput m a b

/-- The canonical form: rising addresses and no blank byte. -/
def Memory.wf (m : Memory) : Bool := mwf m && m.all (fun c => c.2 != blank)

/-- The little-endian value of `n` bytes from an address (R5). -/
def readLE (m : Memory) (a : Nat) : Nat → Nat
  | 0 => 0
  | n + 1 => (mread m a).toNat + 256 * readLE m (a + 1) n

/-- Write `n` bytes of a value from an address, least significant first (R5). -/
def writeLE (m : Memory) (a : Nat) : Nat → Nat → Memory
  | 0, _ => m
  | n + 1, v => writeLE (mwrite m a (BitVec.ofNat 8 v)) (a + 1) n (v / 256)

/-- Write the bytes of a value that a byte mask names: bit `i` of the mask writes byte `i`. -/
def writeMasked (m : Memory) (a : Nat) : Nat → Nat → Nat → Memory
  | 0, _, _ => m
  | n + 1, mask, v =>
    writeMasked (if mask % 2 = 1 then mwrite m a (BitVec.ofNat 8 v) else m) (a + 1) n (mask / 2) (v / 256)

/-- Write a list of bytes from an address. -/
def writeBytes (m : Memory) (a : Nat) : List Byte → Memory
  | [] => m
  | b :: bs => writeBytes (mwrite m a b) (a + 1) bs

/-- The bytes from an address. -/
def readBytes (m : Memory) (a : Nat) : Nat → List Byte
  | 0 => []
  | n + 1 => mread m a :: readBytes m (a + 1) n

/-- Make `n` bytes from an address blank: one pass over the list. -/
def clearRange (m : Memory) (a n : Nat) : Memory := m.filter (fun c => !(decide (a ≤ c.1) && decide (c.1 < a + n)))

/-- The part of a memory in a range, moved so that the range starts at 0. -/
def window (m : Memory) (a n : Nat) : Memory :=
  (m.filter (fun c => decide (a ≤ c.1) && decide (c.1 < a + n))).map (fun c => (c.1 - a, c.2))

/-! ### Bits of natural numbers -/

/-- Bits [lo + n - 1 : lo]. -/
def bits (x lo n : Nat) : Nat := x / 2 ^ lo % 2 ^ n

/-- One bit. -/
def tbit (x n : Nat) : Bool := x / 2 ^ n % 2 == 1

/-- Two's complement (R10). -/
def sextN (n x : Nat) : Int := if 2 ^ (n - 1) ≤ x % 2 ^ n then (x % 2 ^ n : Int) - 2 ^ n else (x % 2 ^ n : Int)

/-- `trunc` of R10 on an integer. -/
def truncI (n : Nat) (x : Int) : Nat := (x % (2 ^ n : Nat)).toNat

/-- Replace the bits of `x` that `mask` names by those of `v`. -/
def blend (mask x v : Nat) : Nat := (v &&& mask) ||| (x &&& mask) ^^^ x

/-- The number `2^n - 1`. -/
def ones (n : Nat) : Nat := 2 ^ n - 1

/-- The positions of the set bits among the lowest `n`. -/
def setBits (n x : Nat) : List Nat := (List.range n).filter (fun i => tbit x i)

/-- Rounding up of a quotient. -/
def cdiv (a b : Nat) : Nat := (a + b - 1) / b

/-- Rounding up to a multiple. -/
def roundUp (a m : Nat) : Nat := cdiv a m * m

end Sys2Proof.Machine
end

