-- ==== Sys2Proof/Machine/State.lean ====
section
/-! DEFINITION. The state of the machine as plain data, why it can stop, and the state after reset. Contexts are
numbered plane * 144 + 12 * y + x and tiles 12 * y + x (R9, R20). Functions are numbered 0 for the PF and 1 to 96 for
the VFs; a function is a tenant (R26). -/

namespace Sys2Proof.Machine

/-! ### Stops -/

/-- Why the machine stops. The part itself never stops: faults of R284 to R287 are taken as exceptions. -/
inductive Fault where
  /-- HOST_REGISTER_WRITE to a register number that the manual does not describe (R326 names the queue registers and
  DOORBELL, QRESET, R331 the ring, R334 PAUSED and ACTIVATE, and no other). Safe: the hardware may go on. -/
  | unknownHostRegister (reg : Nat)
  deriving DecidableEq, Repr

/-- Why an instruction is refused. -/
inductive Refusal where
  /-- Raised by an arm of the dispatcher whose instruction has no meaning yet. Safe. -/
  | notModelled (mnemonic : String)
  deriving DecidableEq, Repr

/-! ### One context -/

/-- What an exposed-latency write goes to (R87). -/
inductive Dst where
  | s (n : Nat) | q (n : Nat) | v (n c : Nat) | k (n c : Nat)
  /-- A control register by its number (R86). -/
  | cr (num : Nat)
  /-- Flags ORed into VSTAT (R151). -/
  | flags
  /-- Dropped hints added to HINTDROP (R412). -/
  | hint
  deriving DecidableEq, Repr

/-- A register write in flight (R87). `post` tells that it was issued after the restart mark (R279). -/
structure PendWrite where
  due : Nat
  post : Bool
  dst : Dst
  /-- Bits written (R88); all bits for a scalar. -/
  mask : Nat
  val : Nat
  deriving DecidableEq, Repr

/-- What an undo entry covers (R279, R282, R395). -/
inductive UKey where
  | s (n : Nat) | q (n : Nat) | cr (num : Nat) | v (n : Nat) | k (n : Nat) | pair | sel
  deriving DecidableEq, Repr

/-- One undo entry; `prior` is filled when the first write lands. -/
structure UndoEntry where
  key : UKey
  prior : Option Nat
  deriving DecidableEq, Repr

/-- One gate row: its 64-byte row number, the bytes written and their prior values (R280). -/
structure GateRow where
  row : Nat
  mask : Nat
  prior : Nat
  deriving DecidableEq, Repr

/-- An arrival in force (R62, R66, R422): the level and the mask, DMR as it stood on the arrival's cycle, that cycle, the
cycle on which a member was last seen to leave the domain, and the members as last seen. -/
structure Arrival where
  level : Nat
  mask : Nat
  dmr : BitVec 18
  at' : Nat
  left : Nat
  members : List Nat
  deriving DecidableEq, Repr

/-- What holds a context at a boundary. -/
inductive Wait where
  | none
  /-- FENCE over the records pushed before `limit` (R370). -/
  | fence (mask limit : Nat)
  /-- DRAIN (R365). -/
  | drain (sc : Scope) (mask limit : Nat)
  /-- SYNC hold (R62). -/
  | hold (a : Arrival)
  /-- After a rollback with SVCV 0, until the page of an address is valid again (R283). -/
  | transit (va : Nat)
  deriving DecidableEq, Repr

/-- One band of a weight plane: codes, scale bytes and route words, packed little-endian (R234, R235). -/
structure Band where
  codes : Nat
  scales : Nat
  routes : Nat
  deriving DecidableEq, Repr

/-- A weight plane (R230); `fmt` is none until an MLDW loads it (R240). -/
structure Plane where
  fmt : Option Nat
  sparse : Bool
  b0 : Band
  b1 : Band
  b2 : Band
  b3 : Band
  deriving DecidableEq, Repr

/-- What a matrix operation in flight is. -/
inductive MKind where
  | mmul | mvec | mldw | drain | mzero
  deriving DecidableEq, Repr

/-- A matrix operation in flight, with the bytes its reads have taken (R196, R242). -/
structure MatOp where
  kind : MKind
  /-- Issued after the restart mark (R279). -/
  post : Bool
  issue : Nat
  cadence : Nat
  /-- Physical accumulator tile (R85). -/
  acc : Nat
  /-- Rows of MMUL; code-byte cycles of MLDW. -/
  rows : Nat
  aip : Bool
  prof : Nat
  bands : List Nat
  fmtA : Nat
  fmtW : Nat
  plane : Plane
  /-- Which physical plane it reads or loads. -/
  planeId : Nat
  sa : Nat
  sb : Nat
  /-- K and ROW of MVEC; the quarter mask of MZERO in `k`. -/
  k : Nat
  row : Nat
  gotA : Memory
  gotW : Memory
  /-- The route tables of an MLDW, which may overlap its images (R238). -/
  gotR : Memory
  /-- A row that it read held an uncorrectable error (R173). -/
  bad : Bool
  lands : Nat
  deriving DecidableEq, Repr

/-- A side of a copy record: this tile's scratchpad, the virtual space, or another tile's scratchpad. -/
inductive Loc where
  | sp | virt | tile (t : Nat)
  deriving DecidableEq, Repr

/-- Progress of a request to the host for the record at the head of a queue. -/
inductive HostReq where
  | idle
  | waiting (since : Nat)
  | answered (since : Nat)
  /-- An AMOG to a host-io page that goes through the attic (R325). -/
  | attic (since : Nat)
  /-- An AtomicOp that has completed and whose old value waits for its scratchpad bank (R344). -/
  | old (v : Nat)
  deriving DecidableEq, Repr

/-- A byte that a later store of its context has taken before a pushed update of this tile's scratchpad performs: its address, what it
held when the update was pushed, the cycle of the store, and whether that came after the restart mark (R200, R279). -/
structure Kept where
  at' : Nat
  val : Byte
  when' : Nat
  post : Bool
  deriving DecidableEq, Repr

/-- A copy record in a channel queue (R249 to R256). Its reads of this tile's scratchpad are made at the push (R280). -/
structure CopyRec where
  seq : Nat
  held : Bool
  post : Bool
  colour : Nat
  ch : Nat
  kind : Nat
  sloc : Loc
  dloc : Loc
  src : Nat
  dst : Nat
  n0 : Nat
  n1 : Nat
  n2 : Nat
  ss1 : Int
  ss2 : Int
  ds1 : Int
  ds2 : Int
  /-- A converting read of cells (R224). -/
  conv : Bool
  op : Nat
  wide : Bool
  uns : Bool
  nores : Bool
  opnd : Nat
  cmp : Nat
  snap : Memory
  /-- The address, in the form of R229, of an uncorrectable error met in the source at the push (R173). -/
  bad : Option Nat
  /-- Stream bytes that have moved, and those of them that DONE counts (R202, R463). -/
  moved : Nat
  counted : Nat
  host : HostReq
  pushed : Nat
  /-- Of a KIND 4 record onto this tile: the bytes that later stores of its context have taken (R200). -/
  kept : List Kept := []
  deriving DecidableEq, Repr

/-- A push in the cell queue (R383). -/
inductive CellOp where
  /-- Cells and f32 addends still to add. -/
  | ladd (items : List (Nat × Nat))
  /-- Next cell and how many are left. -/
  | linit (next left : Nat)
  | lraw (src dst left : Nat)
  deriving DecidableEq, Repr

/-- A push of the cell queue, with the cells that it has done. -/
structure CellRec where
  seq : Nat
  held : Bool
  post : Bool
  colour : Nat
  op : CellOp
  gone : Nat
  deriving DecidableEq, Repr

/-- A drain push (R246, R247): rows still to write, each a row index with its bytes or elements. -/
structure DrainRec where
  seq : Nat
  held : Bool
  post : Bool
  /-- Adds into the destination (MACCD) rather than storing. -/
  accd : Bool
  prof : Nat
  clamp : Bool
  base : Nat
  stride : Int
  /-- Bytes of a stored row. -/
  rowBytes : Nat
  rows : List (Nat × Nat)
  /-- First cycle on which every row has been read (R244). -/
  ready : Nat
  host : HostReq
  /-- Of an MACCD into this tile: the bytes that later stores of its context have taken (R200). -/
  kept : List Kept := []
  deriving DecidableEq, Repr

/-- A gather (R377): one optional byte address for each index, cluster by cluster. -/
structure GatherRec where
  seq : Nat
  post : Bool
  wbytes : Nat
  addrs : List (Option Nat)
  /-- Scratchpad results are read at the push (R200). -/
  results : Option (List Nat)
  /-- The address, in the form of R229, of an uncorrectable error met at the push (R173). -/
  bad : Option Nat
  nonNull : Nat
  host : HostReq
  deriving DecidableEq, Repr

/-- How a collective stands on one tile (R361). -/
inductive CollState where
  | pending | done | mismatch
  deriving DecidableEq, Repr

/-- A collective (R259, R260): its descriptor, its ordinal at its level, its source bytes and its view of the domain. -/
structure CollRec where
  seq : Nat
  post : Bool
  colour : Nat
  op : Nat
  ty : Nat
  level : Nat
  count : Nat
  rootY : Nat
  rootX : Nat
  src : Nat
  dst : Nat
  ordinal : Nat
  snap : Nat
  /-- Member contexts in (RY, RX) order. -/
  members : List Nat
  /-- The address, in the form of R229, of an uncorrectable error met in the source at the push (R173). -/
  bad : Option Nat
  st : CollState
  deriving DecidableEq, Repr

/-- A host-io write that has been sent and whose completion behind it is awaited (R207): the record, its colour, the send
cycle and the address. -/
structure Posted where
  seq : Nat
  colour : Nat
  sent : Nat
  addr : Nat
  deriving DecidableEq, Repr

/-- An engine fault that waits for a boundary (R277). -/
structure EngFault where
  code : Nat
  eaddr : Nat
  /-- Raised by a record pushed after the mark (R283). -/
  post : Bool
  /-- The channel to stop (R463), and the sequence number of the record. -/
  ch : Option Nat
  seq : Nat
  colour : Nat
  /-- Met at the boundary of a TRAP: it waits until the context is outside service mode (R427). -/
  later : Bool
  deriving DecidableEq, Repr

/-- A restartable fault whose rollback waits for results in flight (R283). -/
structure RollbackReq where
  code : Nat
  eaddr : Nat
  eslot : Nat
  pc : PAddr
  deriving DecidableEq, Repr

/-- The overlay copy in progress (R268). `clear` tells that its image was translated while no page of it was in transit:
it then completes to the frames it has (R188). `seq` is the sequence number of its requests (R190). -/
structure OvCopy where
  seg : Nat
  half : Nat
  clear : Bool
  seq : Nat
  deriving DecidableEq, Repr

/-- How a task stands. -/
inductive Life where
  | none | live | ended | failed | stopped | evicted
  deriving DecidableEq, Repr

/-- The state of one context (R83), of its task and of its engines. -/
structure Ctx where
  -- general registers (R83)
  s : AMap Word
  q : BitVec 8
  v : AMap (BitVec 2048)
  k : AMap (BitVec 256)
  pc : PAddr
  pend : List (PAddr × Nat)
  annul : Nat
  svcMode : Bool
  -- control registers (R86)
  region : BitVec 19
  fcount : BitVec 32
  /-- Cycle from which FCYC counts in an elastic context (R54). -/
  fcycFrom : Nat
  cadence : BitVec 5
  cadlock : Bool
  ashape : BitVec 4
  dmr : BitVec 18
  accBase : BitVec 4
  accCnt : BitVec 5
  epc : PAddr
  ecause : BitVec 12
  eaddr : Word
  eslot : BitVec 4
  etgt : Word
  edly : BitVec 8
  sigval : BitVec 16
  evEnable : BitVec 6
  evPending : BitVec 6
  loopc0 : Word
  loopc1 : Word
  hintdrop : BitVec 32
  srseed : Word
  vstat : Flags
  wtab : BitVec 41
  segtab : BitVec 49
  limit : BitVec 16
  -- timing
  inFlight : List PendWrite
  /-- Issue cycle and stamp of the bundle issued last; none when R48 sets no gap. -/
  last : Option (Nat × Nat)
  /-- Strict: start of the frame in progress and the stamp of its last bundle; none when an F bundle is awaited. -/
  frame : Option (Nat × Option Nat)
  /-- Strict: the cycle from which the next boundary is counted (R50). -/
  frameFrom : Nat
  /-- The last cycle on which the next bundle was held by a wait (R339). -/
  readyFrom : Nat
  /-- Strict: an ERET target awaits its F test (R369). -/
  eretTest : Bool
  /-- Precedence of R39 and R63 for the next bundle. -/
  first : Bool
  wait : Wait
  /-- The FENCE or DRAIN wait that a delivery of 0x282 found: it holds the first bundle after the return (R205, R206). -/
  savedWait : Wait
  /-- A SYNC bundle waits before arrival (R209). -/
  syncWait : Bool
  /-- Address of the SYNC bundle with D in whose hold the context is (R68, R293). -/
  holdD : Option PAddr
  /-- No event is taken before the first bundle after a SYNC release (R67). -/
  noEvent : Bool
  /-- The boundary that a TRAP has made its service entry at, before the first service bundle (R427). -/
  trapEdge : Bool
  /-- PAUSE: the cycle on which it ends (R411). -/
  pauseTo : Option Nat
  /-- END has retired, with its status and address (R367). -/
  ending : Option (Nat × Nat)
  /-- First cycle of the block in progress, for the monitors (R339). -/
  blockedFrom : Option Nat
  drainCount : Nat
  watchdog : Nat
  haltNext : Bool
  halted : Bool
  stepOnce : Bool
  /-- Debug enable (R336). -/
  dbg : Bool
  life : Life
  launch : Nat
  /-- The function whose task it is, its class, its watchdog limit in reference ticks, and the scratchpad assignment
  [spLo, spHi) of its region (R300, R315). -/
  tenant : Nat
  cls : Nat
  wdLimit : Nat
  spLo : Nat
  spHi : Nat
  newCadence : Option (BitVec 5)
  -- matrix state (R230)
  pair : Option (Nat × Nat)
  plane0 : Plane
  plane1 : Plane
  /-- Plane selector: the active plane is `plane1` when set. -/
  sel : Bool
  matOps : List MatOp
  -- restart mark (R278 to R283)
  markPc : PAddr
  markPend : List (PAddr × Nat)
  markAnnul : Nat
  undo : List UndoEntry
  rows : List GateRow
  cmt : Bool
  tileHaz : BitVec 16
  planeHaz : Bool
  rollback : Option RollbackReq
  -- memory tables
  imem : Memory
  half0 : Option Nat
  half1 : Option Nat
  cur : Nat
  ovCopy : Option OvCopy
  /-- By half: the segment whose copy into it met a fault, the cause and the address (R270). -/
  ovFault : AMap (Nat × Nat × Nat)
  segs : List (Nat × Nat)
  window : AMap (BitVec 128)
  /-- Where the drain-map table lies, and START of each of its maps (R291). -/
  drainMapAt : Nat
  drainStarts : List Nat
  -- engines
  seq : Nat
  recs : List CopyRec
  done : AMap Nat
  stopped : AMap Nat
  cells : List CellRec
  drains : List DrainRec
  gathers : List GatherRec
  colls : List CollRec
  collNext : AMap Nat
  posted : List Posted
  engFaults : List EngFault
  deriving DecidableEq, Repr

/-! ### One tile -/

/-- A monitor unit (R339): the plane and the quantity it is assigned to, none before firmware assigns one. -/
structure Monitor where
  on : Option (Nat × Nat)
  min : Nat
  max : Nat
  bins : List Nat
  deriving DecidableEq, Repr

structure Tile where
  sp : Memory
  /-- Rows of the accumulator storage: 128 * physical tile + row (R19). -/
  acc : AMap (BitVec 4096)
  /-- 64-bit words with an uncorrectable error (R173). -/
  bad : List Nat
  /-- Banks reserved by atomics and VCSQ, and the last cycle reserved (R263). -/
  resv : List (Nat × Nat)
  /-- Accumulator tiles that a drain still reads: tile and first cycle a write may issue (R244). -/
  accRead : List (Nat × Nat)
  /-- Plane that holds the issue width (R43), and the one that held it last when its task has ended (R44). -/
  holder : Option Nat
  lastPlane : Option Nat
  /-- The tenant whose context holds the issue width on this cycle (R301). -/
  width : Option Nat
  quantum : Nat
  /-- The quantum has run out (R45). -/
  expired : Bool
  /-- The holder has issued YIELD and the selector has not yet looked for another context (R468). -/
  yielded : Bool
  /-- The plane of a strict context that has used this cycle's issue slot (R42, R45). -/
  strictTook : Option Nat
  /-- Plane of a strict owner of the matrix engine (R57). -/
  owner : Option Nat
  monitors : List Monitor
  deriving DecidableEq, Repr

/-! ### The device -/

structure Failure where
  cycle : Nat
  /-- 12 * RY + RX of the tile. -/
  at' : Nat
  reason : Nat
  code : Nat
  w2 : Nat
  w3 : Nat
  deriving DecidableEq, Repr

inductive LaunchSt where
  | queued
  /-- Accepted and placed; it starts on a cycle fixed at acceptance or on a frame boundary (R37). -/
  | placed (accept : Nat)
  | running
  /-- Eviction requested on a cycle (R292). -/
  | evicting (since : Nat)
  | evicted
  /-- Resume accepted on a cycle (R295). -/
  | resuming (accept : Nat)
  | over
  deriving DecidableEq, Repr

/-- A launch: the fields of its packet (R328), its region and its state. -/
structure Launch where
  fn : Nat
  cls : Nat
  tag : Nat
  strict : Bool
  cadlock : Bool
  cbase : Nat
  votes : Nat
  planeReq : Nat
  rows : Nat
  cols : Nat
  wrapY : Bool
  wrapX : Bool
  enable : BitVec 6
  wtabAddr : Nat
  segAddr : Nat
  dmAddr : Nat
  srseed : Word
  tid : Nat
  limit : Nat
  spImages : Nat
  /-- The sp images that the launch unit has checked (R330): source, scratchpad address, bytes. -/
  spLoads : List (Nat × Nat × Nat)
  args : List Word
  bell : Nat
  st : LaunchSt
  plane : Nat
  y0 : Nat
  x0 : Nat
  /-- Shape of the eviction: contexts whose record has been written, with LIVE. -/
  saved : List (Nat × Nat)
  failure : Option Failure
  failing : Bool
  accBase : Nat
  accCnt : Nat
  spBase : Nat
  spSize : Nat
  /-- The cellar base and the slot size that firmware holds with the region (R293). -/
  cellarBase : Nat
  cellarSlot : Nat
  deriving DecidableEq, Repr

/-- A tenant's settings and counters (R301, R325, R328, R335). -/
structure Tenant where
  accBase : Nat
  accCnt : Nat
  limit : Nat
  wdLimit : Nat
  spBase : Nat
  spSize : Nat
  cellarBase : Nat
  cellarSlot : Nat
  pinQuota : Nat
  /-- The rotation weight of R298: launches that one turn serves. -/
  weight : Nat
  degraded : Bool
  /-- The cycle on which the function wrote PAUSED (R334). -/
  paused : Option Nat
  held : Bool
  /-- ISSUE, STARTED, DONE, WAIT, WMAX, DEBT, ENERGY by number (R301), and the part of ENERGY below 1 µJ. -/
  counters : AMap Nat
  deriving DecidableEq, Repr

/-- A launch queue (R326). -/
structure Queue where
  base : Nat
  size : Nat
  head : Nat
  tail : Nat
  halted : Bool
  /-- A BARRIER at the head waits for the launches numbered below this (R326). -/
  barrier : Option Nat
  /-- The doorbells whose packets have not all left, oldest first: the tail each one wrote and its cycle (R301). -/
  bells : List (Nat × Nat)
  deriving DecidableEq, Repr

/-- A completion ring (R326). -/
structure Ring where
  base : Nat
  size : Nat
  tail : Nat
  deriving DecidableEq, Repr

/-- An SLC sector: the key it was filled under, its policy, the tenant that pinned it, whether it was written since its
fill, and the cycle of its last use (R22, R183, R184). -/
structure Sector where
  key : Nat
  policy : Nat
  pinned : Option Nat
  dirty : Bool
  used : Nat
  deriving DecidableEq, Repr

/-- What the sectors of a frame stand encrypted under (R25, R182): a generation of a key for all of them but those listed. -/
structure Seal where
  base : Nat
  others : AMap Nat
  deriving DecidableEq, Repr

inductive LineSt where
  | s | e | m
  deriving DecidableEq, Repr

/-- A line of the attic (R320) with the tenants whose pages reached it (R321). -/
structure Line where
  st : LineSt
  data : Nat
  tenants : List Nat
  deriving DecidableEq, Repr

/-- An attic line that has been asked for: whether ownership is wanted, and the tenants that wait for it. -/
structure LineReq where
  own : Bool
  fns : List Nat
  deriving DecidableEq, Repr

/-- A back-invalidate that waits for the host (R319). -/
structure BackInv where
  invalidate : Bool
  since : Nat
  deriving DecidableEq, Repr

/-- A migration (R322): the tenant, the bases, the size, the list of image entries and the step reached. -/
structure Migration where
  fn : Nat
  q : Nat
  tag : Nat
  old : Nat
  new : Nat
  lsize : Nat
  entries : List Nat
  /-- The entries hold STATE 2: from the cycle after the MIGRATE (R188). -/
  marked : Bool
  copied : Bool
  deriving DecidableEq, Repr

/-- A rail (R307, R311): its level and, while it rises, the levels to come, each with its settle cycle, the lowest first. -/
structure Rail where
  level : Nat
  rising : List (Nat × Nat)
  deriving DecidableEq, Repr

structure Consent where
  tenant : Nat
  tid : Nat
  expiry : Nat
  deriving DecidableEq, Repr

/-- What the device sends to the host. -/
inductive HostMsg where
  | readData (fn addr data : Nat) (poisoned : Bool)
  | msix (fn vec : Nat)
  | backInvalidate (sector : Nat) (invalidate : Bool)
  | snoopData (line data : Nat) (dirty : Bool)
  | snoopMiss (line : Nat)
  | evictLine (line data : Nat) (dirty : Bool)
  | unsupported (fn addr : Nat)
  | spdm (report signature : Nat)
  | debugValue (v : Word)
  | monitorValue (fn tile unit min max : Nat) (bins : List Nat)
  | counterValue (fn tenant ctr v : Nat)
  /-- What the PF reads of FWSTATUS (R332) and of the health records (R338): the record at a position, its kind and its word. -/
  | fwstatusValue (v : Nat)
  | healthValue (i : Nat) (rec : Option (Nat × Nat))
  deriving DecidableEq, Repr

inductive Power where
  | d0 | d3hot | off
  deriving DecidableEq, Repr

/-- The maintenance calendar (R305 to R310). -/
structure Calendar where
  mfn : Nat
  start : Nat
  /-- MFN of the announced extended frame. -/
  ext : Option Nat
  /-- Cycles by which the slot of the frame in progress has been lengthened. -/
  slip : Nat
  /-- An extension reported before the planned boundary. -/
  slipNext : Nat
  /-- The guard band or the slot of this frame has begun (R306). -/
  guard : Bool
  slot : Bool
  deriving DecidableEq, Repr

/-- Activation phases (R334). -/
inductive Activation where
  | none | prepared | restarting (since : Nat)
  deriving DecidableEq, Repr

/-- A fault that a slot word of the bundle in hand raises. `pop` tells that the oldest COLL leaves its queue with it
(R361). -/
structure Raise where
  code : Nat
  eaddr : Nat
  eslot : Nat
  pop : Bool
  deriving DecidableEq, Repr

/-- The bundle in hand: the context, the slot whose word performs, the header's CMASK and PROF, the address and the
length, the tile's scratchpad as it stood before the bundle (R194), and what its words have raised. -/
structure Issue where
  ctx : Nat
  slot : Slot
  cmask : BitVec 8
  prof : Nat
  pc : PAddr
  len : Nat
  sp0 : Memory
  /-- Words of the tile with an uncorrectable error as they stood before the bundle (R173, R194). -/
  bad0 : List Nat
  /-- The sequence number that the context's next push had before the bundle (R422). -/
  seq0 : Nat
  /-- Banks that the bundle's MB word touches (R343). -/
  mbBanks : List Nat
  raised : Option Raise
  /-- A control word has chosen the next address (R93). -/
  advanced : Bool
  /-- YIELD asks the selector to look for another context (R468). -/
  giveUp : Bool
  deriving DecidableEq, Repr

/-- A request at a port of the SLC: its slice, and the sectors of one line that it names. -/
structure PortReq where
  slice : Nat
  secs : List Nat
  deriving DecidableEq, Repr

/-- The requests of a record that wait at the ports of the SLC (R190, R191): the context, the sequence number of its record, its
hint or its overlay copy, none for its code at L and its cellar record, the class, and each request still to be admitted. -/
structure Ticket where
  ctx : Nat
  seq : Option Nat
  cls : Nat
  reqs : List PortReq
  deriving DecidableEq, Repr

/-- A sector of device memory as a hint names it: its key and the policy of its page. -/
structure HintUnit where
  sec : Nat
  key : Nat
  policy : Nat
  deriving DecidableEq, Repr

/-- A hint whose requests wait at the ports (R185, R190): its context and sequence number, its tenant, its kind, and the
sectors still to be done. -/
structure Hint where
  ctx : Nat
  seq : Nat
  fn : Nat
  kind : PfhKind
  units : List HintUnit
  deriving DecidableEq, Repr

/-- What reaches the part from outside other than by a step of the opcode table. -/
inductive Input where
  /-- The host stores to its own memory (R321). -/
  | hostStore (addr n v : Nat)
  /-- A soft error in a 64-bit word of a scratchpad, corrected or not (R173). -/
  | spError (tile word : Nat) (fatal : Bool)
  /-- A soft error in a sector of device memory, corrected or not (R181). -/
  | devError (sector : Nat) (fatal : Bool)
  /-- A function reads a monitor unit (R339); the PF reads a progress counter (R301). -/
  | readMonitor (fn tile unit : Nat)
  | readCounter (tenant ctr : Nat)
  /-- The PF reads FWSTATUS (R332), or the health record at a position (R338). -/
  | readFwstatus
  | readHealth (i : Nat)
  deriving DecidableEq, Repr

/-- What a core of the scheduler complex does (R27): firmware, or front end, launch queues and launch units. -/
inductive CoreRole where
  | firmware | scheduler | spare | failed
  deriving DecidableEq, Repr

/-- The spares that are left or in use (R17, R27, R338). -/
structure Spares where
  /-- Physical rows whose spare column has failed. -/
  colDead : List Nat
  /-- Spare rows used in a scratchpad bank: 64 * tile + bank. -/
  rows : AMap Nat
  /-- Tiles whose spare bank is used, and LPDDR-6 sub-channels whose spare DQ lane is used. -/
  banks : List Nat
  lanes : List Nat
  /-- The roles of the nine cores of the scheduler complex. -/
  cores : List CoreRole
  deriving DecidableEq, Repr

/-- The state of the machine. -/
structure State where
  cycle : Nat
  cal : Calendar
  ctxs : AMap Ctx
  tiles : AMap Tile
  launches : AMap Launch
  nextLaunch : Nat
  tenants : AMap Tenant
  queues : AMap Queue
  rings : AMap Ring
  /-- Tenant that a key is bound to (R182). -/
  keys : AMap Nat
  /-- How often a key has been bound anew or destroyed: one generation after another (R182). -/
  keyGen : AMap Nat
  /-- KEYID of each assigned 2 MiB frame (R183). -/
  frameKey : AMap Nat
  /-- What the bytes of a frame stand under that has changed its key, its binding or its assignment (R25). -/
  seals : AMap Seal
  /-- The plaintext of device memory under the keys that it was written under (R25, R182). -/
  dev : Memory
  poison : List Nat
  slc : AMap Sector
  /-- Snoop filter: sector to "held exclusive or modified" (R319). -/
  snoop : AMap Bool
  backInv : AMap BackInv
  /-- Host reads that wait at the home for a filter entry, oldest first: function, address, and whether the host wants to own (R319). -/
  hostReads : List (Nat × Nat × Bool)
  /-- Token buckets of each slice: 12 * slice + 3 * plane + class (R190). A bucket, pool, rate or depth that is not listed
  holds its reset value (log 3). -/
  tokens : AMap Int
  depth : AMap Nat
  rate : AMap Nat
  pool : AMap Nat
  poolDepth : AMap Nat
  /-- Buckets that the refill of this cycle still owes a token: slice and bucket. -/
  refills : List (Nat × Nat)
  tickets : List Ticket
  /-- Ports that have admitted a request on this cycle, and the plane each class was last admitted from: 3 * slice + class
  (R191). -/
  portUsed : List Nat
  portTurn : AMap Nat
  /-- Hints whose requests wait at the ports, oldest first. -/
  hints : List Hint
  hostMem : Memory
  attic : AMap Line
  atticReq : AMap LineReq
  migrations : List Migration
  rails : AMap Rail
  shedStep : Nat
  shedStd : Nat
  shedInt : Nat
  calm : Nat
  linkLanes : Nat
  linkRate : Nat
  linkUp : Bool
  timeout : Nat
  fwrange : Option (Nat × Nat)
  fwstatus : Nat
  activation : Activation
  /-- Version counter of the running firmware. -/
  firmware : Nat
  /-- The image that the firmware cores run, as an activation took it from the carve-out (R334). -/
  image : Memory
  /-- Bytes that firmware has written to sectors whose host copy has not come back (R319). -/
  fwPend : AMap Byte
  /-- The turn of R298: 3 * plane + class to the tenant served last and the launches left in its turn. -/
  rotor : AMap (Nat × Nat)
  consents : List Consent
  power : Power
  tripped : Bool
  /-- c_skip of each row where it is not the default 12 (R16). -/
  cskip : AMap Nat
  spares : Spares
  unavailable : List Nat
  health : List (Nat × Nat)
  hostOut : List HostMsg
  -- the model's own fields
  /-- What the engines, the firmware and the host do next, with the cycle it waits for (log 4). -/
  agenda : List (Nat × Instr)
  /-- What reaches the part from outside, with its cycle (log 53). -/
  inputs : List (Nat × Input)
  issue : Issue
  /-- Tiles whose issue slot of this cycle is used. -/
  issued : List Nat
  /-- Free values drawn so far (log 5). -/
  free : Nat
  deriving DecidableEq, Repr

/-! ### Reset -/

def Band.zero : Band := ⟨0, 0, 0⟩

/-- The plane of R38: zero weights, dense, no format of its own. -/
def Plane.zero : Plane := ⟨none, false, .zero, .zero, .zero, .zero⟩

/-- A context that no launch has loaded (log 1). -/
def Ctx.reset : Ctx where
  s := []
  q := 0#8
  v := []
  k := []
  pc := 0#32
  pend := []
  annul := 0
  svcMode := false
  region := 0#19
  fcount := 0#32
  fcycFrom := 0
  cadence := 1#5
  cadlock := false
  ashape := 0xF#4
  dmr := 0#18
  accBase := 0#4
  accCnt := 0#5
  epc := 0#32
  ecause := 0#12
  eaddr := 0#64
  eslot := 0#4
  etgt := 0#64
  edly := 0#8
  sigval := 0#16
  evEnable := 0#6
  evPending := 0#6
  loopc0 := 0#64
  loopc1 := 0#64
  hintdrop := 0#32
  srseed := 0#64
  vstat := 0#5
  wtab := 0#41
  segtab := 0#49
  limit := 4096#16
  inFlight := []
  last := none
  frame := none
  frameFrom := 0
  readyFrom := 0
  eretTest := false
  first := false
  wait := .none
  savedWait := .none
  syncWait := false
  holdD := none
  noEvent := false
  trapEdge := false
  pauseTo := none
  ending := none
  blockedFrom := none
  drainCount := 0
  watchdog := 0
  haltNext := false
  halted := false
  stepOnce := false
  dbg := false
  life := .none
  launch := 0
  tenant := 0
  cls := 0
  wdLimit := 0
  spLo := 0
  spHi := 0
  newCadence := none
  pair := none
  plane0 := .zero
  plane1 := .zero
  sel := false
  matOps := []
  markPc := 0#32
  markPend := []
  markAnnul := 0
  undo := []
  rows := []
  cmt := false
  tileHaz := 0#16
  planeHaz := false
  rollback := none
  imem := []
  half0 := none
  half1 := none
  cur := 0
  ovCopy := none
  ovFault := []
  segs := []
  window := []
  drainMapAt := 0
  drainStarts := []
  seq := 0
  recs := []
  done := []
  stopped := []
  cells := []
  drains := []
  gathers := []
  colls := []
  collNext := []
  posted := []
  engFaults := []

/-- A monitor unit that firmware has not assigned (log 61). -/
def Monitor.reset : Monitor := ⟨none, 2 ^ 64, 0, []⟩

/-- A tile after reset. -/
def Tile.reset : Tile where
  sp := []
  acc := []
  bad := []
  resv := []
  accRead := []
  holder := none
  lastPlane := none
  width := none
  quantum := 0
  expired := false
  yielded := false
  strictTook := none
  owner := none
  monitors := List.replicate 4 .reset

/-- A tenant's settings after reset: the defaults of R290 and R315; the others are log 3. -/
def Tenant.reset : Tenant where
  accBase := 0
  accCnt := 0
  limit := 4096
  wdLimit := 100000
  spBase := 0
  spSize := 0
  cellarBase := 0
  cellarSlot := 65536
  pinQuota := 0
  weight := 1
  degraded := false
  paused := none
  held := false
  counters := []

def Queue.reset : Queue := ⟨0, 0, 0, 0, false, none, []⟩

def Issue.none : Issue := ⟨0, .sa, 0#8, 0, 0#32, 0, [], [], 0, [], .none, false, false⟩

/-- No spare is used: two cores run firmware, six the scheduler, one is the spare (R27; which ones is log 40). -/
def Spares.reset : Spares := ⟨[], [], [], [], [.firmware, .firmware] ++ List.replicate 6 .scheduler ++ [.spare]⟩

/-- Maintenance frames run from reset; MFN counts them from 0 (R305). -/
def Calendar.reset : Calendar := ⟨0, 0, none, 0, 0, false, false⟩

/-- The machine right after reset: no live task, empty queues and caches, keys unbound, frames unassigned, the link
up at full rate (log 3), D0 (R337). -/
def State.reset : State where
  cycle := 0
  cal := .reset
  ctxs := []
  tiles := []
  launches := []
  nextLaunch := 1
  tenants := []
  queues := []
  rings := []
  keys := []
  keyGen := []
  frameKey := []
  seals := []
  dev := []
  poison := []
  slc := []
  snoop := []
  backInv := []
  hostReads := []
  tokens := []
  depth := []
  rate := []
  pool := []
  poolDepth := []
  refills := []
  tickets := []
  portUsed := []
  portTurn := []
  hints := []
  hostMem := []
  attic := []
  atticReq := []
  migrations := []
  rails := []
  shedStep := 0
  shedStd := 0
  shedInt := 0
  calm := 0
  linkLanes := 16
  linkRate := 64000
  linkUp := true
  timeout := Config.defaultTimeout
  fwrange := none
  fwstatus := 0
  activation := .none
  firmware := 0
  image := []
  fwPend := []
  rotor := []
  consents := []
  power := .d0
  tripped := false
  cskip := []
  spares := .reset
  unavailable := []
  health := []
  hostOut := []
  agenda := []
  inputs := []
  issue := .none
  issued := []
  free := 0

end Sys2Proof.Machine
end

