-- ==== Sys2Proof/Machine/Ops.lean ====
section
/-! DEFINITION. The named operations over registers, control registers, the undo log, the gate and the restart mark,
and taking an exception: delivery to service code, the return from it, and the failure of a task. -/

namespace Sys2Proof.Machine

/-- The outcome type of every meaning. -/
abbrev Res := Host.Outcome State Fault Refusal

/-! ### Places -/

def tileOf (c : Nat) : Nat := c % 144
def planeOf (c : Nat) : Nat := c / 144
def ctxId (plane y x : Nat) : Nat := plane * 144 + (y % 12) * 12 + x % 12

def State.ctx (s : State) (c : Nat) : Ctx := mgetD s.ctxs c .reset
def State.setCtx (s : State) (c : Nat) (x : Ctx) : State := { s with ctxs := mput s.ctxs c x }
def State.tile (s : State) (t : Nat) : Tile := mgetD s.tiles t .reset
def State.setTile (s : State) (t : Nat) (x : Tile) : State := { s with tiles := mput s.tiles t x }
def State.tenant (s : State) (f : Nat) : Tenant := mgetD s.tenants f .reset
def State.setTenant (s : State) (f : Nat) (x : Tenant) : State := { s with tenants := mput s.tenants f x }

/-- The context whose bundle is in hand. -/
def State.cx (s : State) : Ctx := s.ctx s.issue.ctx
def State.setCx (s : State) (x : Ctx) : State := s.setCtx s.issue.ctx x
/-- The tile of the bundle in hand. -/
def State.tl (s : State) : Tile := s.tile (tileOf s.issue.ctx)
def State.setTl (s : State) (x : Tile) : State := s.setTile (tileOf s.issue.ctx) x

/-- STRICT of REGION (R35). -/
def Ctx.strict (x : Ctx) : Bool := x.region.getLsbD 18
def Ctx.isLive (x : Ctx) : Bool := x.life == .live
/-- SVCV and SVC of SEGTAB (R265). -/
def Ctx.svcv (x : Ctx) : Bool := x.segtab.getLsbD 0
def Ctx.svcAddr (x : Ctx) : PAddr := BitVec.ofNat 32 (bits x.segtab.toNat 2 30 * 4)
/-- The bundle runs under strict stamp rules: a strict context outside service mode (R271). -/
def Ctx.strictNow (x : Ctx) : Bool := x.strict && !x.svcMode

/-! ### Faults of slot words -/

/-- A slot word of the bundle in hand raises a fault; the first one raised stands (R340). -/
def State.raise (s : State) (code eaddr : Nat) : State :=
  match s.issue.raised with
  | some _ => s
  | none => { s with issue := { s.issue with raised := some ⟨code, eaddr, s.issue.slot.num, false⟩ } }

/-- Go on unless a condition raises a fault. -/
def State.check (s : State) (bad : Bool) (code eaddr : Nat) (k : State → State) : State :=
  if bad then s.raise code eaddr else k s

/-! ### The undo log (R279) -/

def UKey.vector : UKey → Bool
  | .v _ | .k _ => true
  | _ => false

/-- What a landing write is logged under; HINTDROP is never logged (R186). -/
def Dst.key : Dst → Option UKey
  | .s n => some (.s n)
  | .q n => some (.q n)
  | .v n _ => some (.v n)
  | .k n _ => some (.k n)
  | .cr num => if num = 0x005 ∨ num = 0x006 ∨ num = 0x020 ∨ num = 0x021 ∨ num = 0x023 ∨ num = 0x024 then some (.cr num)
    else none
  | .flags => some (.cr 0x024)
  | .hint => none

def hasKey (log : List UndoEntry) (key : UKey) : Bool := log.any (fun e => e.key == key)

/-- A bundle whose write needs an entry takes it, or raises 0x105 or 0x106 when the log is full (R279). -/
def State.needUndo (s : State) (key : UKey) : State :=
  let x := s.cx
  if hasKey x.undo key then s
  else
    let n := (x.undo.filter (fun e => e.key.vector == key.vector)).length
    if key.vector then
      if Config.undoVectorMax ≤ n then s.raise 0x106 0 else s.setCx { x with undo := x.undo ++ [⟨key, none⟩] }
    else
      if Config.undoScalarMax ≤ n then s.raise 0x105 0 else s.setCx { x with undo := x.undo ++ [⟨key, none⟩] }

/-- A change on the issue cycle itself takes an entry that holds the value it replaces (R279, R282). -/
def State.needUndoNow (s : State) (key : UKey) (val : Nat) : State :=
  let s := s.needUndo key
  let x := s.cx
  s.setCx { x with undo := x.undo.map (fun e => if e.key == key && e.prior.isNone then { e with prior := some val } else e) }

/-! ### Registers -/

def Ctx.rs (x : Ctx) (n : Nat) : Word := if n = 0 then 0#64 else mgetD x.s n 0#64
def Ctx.rq (x : Ctx) (n : Nat) : Bool := n == 0 || x.q.getLsbD n
def Ctx.rv (x : Ctx) (n c : Nat) : BitVec 2048 := mgetD x.v (8 * n + c) 0#2048
def Ctx.rk (x : Ctx) (n c : Nat) : BitVec 256 := if n = 0 then BitVec.allOnes 256 else mgetD x.k (8 * n + c) 0#256

/-- A general register as a bundle in hand reads it on its issue cycle (R340). -/
def State.rs (s : State) (r : SReg) : Word := s.cx.rs r.val
def State.rq (s : State) (r : QReg) : Bool := s.cx.rq r.val
def State.rv (s : State) (r : VReg) (c : Nat) : Nat := (s.cx.rv r.val c).toNat
def State.rk (s : State) (n c : Nat) : Nat := (s.cx.rk n c).toNat

/-- The control registers an MTC can write, by number, and their values as patterns. -/
def Ctx.crNat (x : Ctx) : Nat → Nat
  | 0x005 => x.ashape.toNat
  | 0x006 => x.dmr.toNat
  | 0x020 => x.loopc0.toNat
  | 0x021 => x.loopc1.toNat
  | 0x022 => x.hintdrop.toNat
  | 0x023 => x.srseed.toNat
  | 0x024 => x.vstat.toNat
  | _ => 0

/-- A landing write of a control register (R400); RZ fields ignore it. -/
def Ctx.setCr (x : Ctx) (num v : Nat) : Ctx :=
  match num with
  | 0x005 => { x with ashape := BitVec.ofNat 4 v }
  | 0x006 => { x with dmr := BitVec.ofNat 18 v }
  | 0x010 => { x with epc := BitVec.ofNat 32 v }
  | 0x011 => { x with ecause := BitVec.ofNat 12 v }
  | 0x012 => { x with eaddr := BitVec.ofNat 64 v }
  | 0x013 => { x with eslot := BitVec.ofNat 4 v }
  | 0x014 => { x with etgt := BitVec.ofNat 64 v }
  | 0x015 => { x with edly := BitVec.ofNat 8 v }
  | 0x016 => { x with evEnable := BitVec.ofNat 6 (v / 2 ^ 8)
                      evPending := x.evPending &&& ~~~ BitVec.ofNat 6 v }
  | 0x020 => { x with loopc0 := BitVec.ofNat 64 v }
  | 0x021 => { x with loopc1 := BitVec.ofNat 64 v }
  | 0x022 => { x with hintdrop := BitVec.ofNat 32 v }
  | 0x023 => { x with srseed := BitVec.ofNat 64 v }
  | 0x024 => { x with vstat := BitVec.ofNat 5 v }
  | _ => x

/-- The value an undo entry keeps. -/
def Ctx.keyVal (x : Ctx) : UKey → Nat
  | .s n => (x.rs n).toNat
  | .q n => (x.rq n).toNat
  | .cr num => x.crNat num
  | .v n => (List.range 8).foldr (fun c acc => (x.rv n c).toNat + 2 ^ 2048 * acc) 0
  | .k n => (List.range 8).foldr (fun c acc => (x.rk n c).toNat + 2 ^ 256 * acc) 0
  | .pair => match x.pair with
    | none => 0
    | some (a, w) => 1 + 2 * a + 64 * w
  | .sel => x.sel.toNat

def setQ (q : BitVec 8) (n : Nat) (b : Bool) : BitVec 8 :=
  let m := BitVec.ofNat 8 (2 ^ n)
  if b then q ||| m else q &&& ~~~ m

/-- Give a register the value an undo entry kept. -/
def Ctx.setKey (x : Ctx) (key : UKey) (v : Nat) : Ctx :=
  match key with
  | .s n => { x with s := mput x.s n (BitVec.ofNat 64 v) }
  | .q n => { x with q := setQ x.q n (v == 1) }
  | .cr num => x.setCr num v
  | .v n => { x with v := (List.range 8).foldl (fun m c => mput m (8 * n + c) (BitVec.ofNat 2048 (v / 2 ^ (2048 * c)))) x.v }
  | .k n => { x with k := (List.range 8).foldl (fun m c => mput m (8 * n + c) (BitVec.ofNat 256 (v / 2 ^ (256 * c)))) x.k }
  | .pair => { x with pair := if v = 0 then none else some (v / 2 % 32, v / 64 % 32) }
  | .sel => { x with sel := v == 1 }

/-- The write itself, under its mask (R88). -/
def Ctx.setDst (x : Ctx) (d : Dst) (mask v : Nat) : Ctx :=
  match d with
  | .s n => { x with s := mput x.s n (BitVec.ofNat 64 v) }
  | .q n => { x with q := setQ x.q n (v == 1) }
  | .v n c => { x with v := mput x.v (8 * n + c) (BitVec.ofNat 2048 (blend mask (x.rv n c).toNat v)) }
  | .k n c => { x with k := mput x.k (8 * n + c) (BitVec.ofNat 256 (blend mask (x.rk n c).toNat v)) }
  | .cr num => x.setCr num v
  | .flags => { x with vstat := x.vstat ||| BitVec.ofNat 5 v }
  | .hint => { x with hintdrop := if 0xFFFFFFFF ≤ x.hintdrop.toNat + v then 0xFFFFFFFF#32
                                  else BitVec.ofNat 32 (x.hintdrop.toNat + v) }

/-- The same write applied to a prior value that the log keeps (R279). -/
def priorAfter (d : Dst) (mask v prior : Nat) : Nat :=
  match d with
  | .v _ c => blend (mask * 2 ^ (2048 * c)) prior (v * 2 ^ (2048 * c))
  | .k _ c => blend (mask * 2 ^ (256 * c)) prior (v * 2 ^ (256 * c))
  | .flags => prior ||| v
  | _ => v

/-- A write landing on its cycle (R87), with the undo log kept as R279 says. -/
def Ctx.land (x : Ctx) (w : PendWrite) : Ctx :=
  let log :=
    match w.dst.key with
    | none => x.undo
    | some key =>
      if w.post then
        if hasKey x.undo key then
          x.undo.map (fun e => if e.key == key && e.prior.isNone then { e with prior := some (x.keyVal key) } else e)
        else x.undo
      else x.undo.map (fun e => if e.key == key then { e with prior := e.prior.map (priorAfter w.dst w.mask w.val) } else e)
  ({ x with undo := log }).setDst w.dst w.mask w.val

/-- Does a write land after the control-register writes of its cycle (R151, R400)? -/
def Dst.late : Dst → Bool
  | .flags | .hint => true
  | _ => false

/-- Every write due by a cycle lands, in issue order, flags and hints last (R88, R151). -/
def Ctx.landAll (x : Ctx) (now : Nat) : Ctx :=
  let due := x.inFlight.filter (fun w => decide (w.due ≤ now))
  let x := { x with inFlight := x.inFlight.filter (fun w => decide (now < w.due)) }
  let x := (due.filter (fun w => !w.dst.late)).foldl Ctx.land x
  (due.filter (fun w => w.dst.late)).foldl Ctx.land x

/-- Every write in flight lands. -/
def Ctx.landEvery (x : Ctx) : Ctx := x.landAll (x.inFlight.foldl (fun m w => max m w.due) 0)

/-! ### Writes of the bundle in hand -/

/-- A register write of the bundle in hand, in flight for its latency (R87). -/
def State.pend (s : State) (lat : Nat) (d : Dst) (mask val : Nat) : State :=
  let x := s.cx
  s.setCx { x with inFlight := x.inFlight ++ [⟨s.cycle + lat, true, d, mask, val⟩] }

/-- Write a scalar register: s0 discards the write (R83). -/
def State.writeS (s : State) (lat : Nat) (r : SReg) (v : Word) : State :=
  if r.val = 0 then s else (s.needUndo (.s r.val)).pend lat (.s r.val) (ones 64) v.toNat

/-- Write a q register: q0 discards the write (R83). -/
def State.writeQ (s : State) (lat : Nat) (r : QReg) (b : Bool) : State :=
  if r.val = 0 then s else (s.needUndo (.q r.val)).pend lat (.q r.val) 1 b.toNat

/-- Write bytes of one cluster of a v register; the undo entry is taken once for the register. -/
def State.writeV (s : State) (lat : Nat) (r : VReg) (c mask v : Nat) : State :=
  s.pend lat (.v r.val c) mask v

/-- Write bits of one cluster of a k register: k0 discards the write. -/
def State.writeK (s : State) (lat : Nat) (r : KReg) (c mask v : Nat) : State :=
  if r.val = 0 then s else s.pend lat (.k r.val c) mask v

/-- Flags that land with a result (R151): the bundle takes the undo entry of VSTAT, or raises 0x105 (R279). -/
def State.writeFlags (s : State) (lat : Nat) (f : Flags) : State :=
  if f = 0#5 then s else (s.needUndo (.cr 0x024)).pend lat .flags 31 f.toNat

/-! ### The pending-branch state (R93) -/

/-- The next address after a bundle that performs no BRN or branch of its own. -/
def Ctx.nextAddr (x : Ctx) (pc : PAddr) (len : Nat) : Ctx :=
  match x.pend with
  | (tgt, 0) :: rest => { x with pc := tgt, pend := rest }
  | _ => { x with pc := pc + BitVec.ofNat 32 len }

/-- The advance of R93 for a bundle that performs, with the branch it takes and whether it is a BRN not taken. -/
def Ctx.advance (x : Ctx) (pc : PAddr) (len : Nat) (taken : Option PAddr) (annuls : Bool) : Ctx :=
  let pend := x.pend.map (fun (e : PAddr × Nat) => (e.1, e.2 - 1))
  let pend := match taken with
    | none => pend
    | some t => pend ++ [(t, 2)]
  ({ x with pend := pend, annul := if annuls then 2 else x.annul }).nextAddr pc len

/-- The advance of R93 for an annulled bundle. -/
def Ctx.advanceAnnulled (x : Ctx) (pc : PAddr) (len : Nat) : Ctx :=
  ({ x with annul := x.annul - 1, pend := x.pend.map (fun (e : PAddr × Nat) => (e.1, e.2 - 1)) }).nextAddr pc len

/-- A control word of the bundle in hand chooses the next address. -/
def State.advance (s : State) (taken : Option PAddr) (annuls : Bool) : State :=
  let s := s.setCx (s.cx.advance s.issue.pc s.issue.len taken annuls)
  { s with issue := { s.issue with advanced := true } }

/-- ETGT of a pending-branch state (R93). -/
def etgtOf (pend : List (PAddr × Nat)) : Word :=
  match pend with
  | [] => 0#64
  | [(t, _)] => BitVec.ofNat 64 t.toNat
  | (t, _) :: (t', _) :: _ => BitVec.ofNat 64 (t.toNat + 2 ^ 32 * t'.toNat)

/-- EDLY of a pending-branch state (R93). -/
def edlyOf (pend : List (PAddr × Nat)) (annul : Nat) : BitVec 8 :=
  let (n, l0, l1) := match pend with
    | [] => (0, 0, 0)
    | [(_, l)] => (1, l, 0)
    | (_, l) :: (_, l') :: _ => (2, l, l')
  BitVec.ofNat 8 (annul % 4 * 64 + n * 16 + l1 % 4 * 4 + l0 % 4)

/-- The pending-branch state that ETGT and EDLY hold. -/
def pendOf (etgt : Word) (edly : BitVec 8) : List (PAddr × Nat) :=
  let e0 := (BitVec.ofNat 32 etgt.toNat, bits edly.toNat 0 2)
  let e1 := (BitVec.ofNat 32 (etgt.toNat / 2 ^ 32), bits edly.toNat 2 2)
  match bits edly.toNat 4 2 with
  | 0 => []
  | 1 => [e0]
  | _ => [e0, e1]

/-- The rules that ERET puts on EDLY (R93). -/
def edlyOk (edly : BitVec 8) : Bool :=
  let v := edly.toNat
  let l0 := bits v 0 2
  let l1 := bits v 2 2
  let n := bits v 4 2
  let goodLeft := fun l => decide (l = 1 ∨ l = 2)
  decide (n ≠ 3) && decide (bits v 6 2 ≠ 3) && (n == 0 || goodLeft l0) && (n != 2 || (goodLeft l1 && decide (l0 < l1)))

/-! ### Engine queues and the gate -/

/-- Records of a context still to perform: sequence number, colour, held, and whether it writes or reads this tile. -/
def Ctx.held (x : Ctx) : List Nat :=
  (x.recs.filter (·.held)).map (·.seq) ++ (x.cells.filter (·.held)).map (·.seq) ++ (x.drains.filter (·.held)).map (·.seq)

/-- Gate entries in use (R280): rows and held pushes. -/
def Ctx.gateUse (x : Ctx) : Nat := x.rows.length + x.held.length

/-- Release the held pushes with a sequence number below `limit` that `p` names; they may then perform. -/
def Ctx.releaseWhere (x : Ctx) (p : Nat → Bool) : Ctx :=
  { x with recs := x.recs.map (fun r => if p r.seq then { r with held := false } else r)
           cells := x.cells.map (fun r => if p r.seq then { r with held := false } else r)
           drains := x.drains.map (fun r => if p r.seq then { r with held := false } else r) }

/-- Release every held push (R278, R281). -/
def Ctx.releaseAll (x : Ctx) : Ctx := x.releaseWhere (fun _ => true)

/-- Colour `c` lies in a mask (R113). -/
def inMask (mask c : Nat) : Bool := tbit mask c

/-- The held pushes of colours in a mask with a sequence number below `limit`, and those ahead of them on their copy
channel (R281). -/
def Ctx.coveredHeld (x : Ctx) (mask limit : Nat) : List Nat :=
  let cov := x.recs.filter (fun r => r.held && decide (r.seq < limit) && inMask mask r.colour)
  let ahead := x.recs.filter (fun r => r.held && cov.any (fun r' => r'.ch == r.ch && decide (r.seq ≤ r'.seq)))
  ahead.map (·.seq) ++ (x.cells.filter (fun r => r.held && decide (r.seq < limit) && inMask mask r.colour)).map (·.seq)
    ++ (x.drains.filter (fun r => r.held && decide (r.seq < limit) && inMask mask 0)).map (·.seq)

/-- The release of FENCE and DRAIN: CMT is set if any push was held (R281). -/
def Ctx.releaseColours (x : Ctx) (mask limit : Nat) : Ctx :=
  let hs := x.coveredHeld mask limit
  if hs.isEmpty then x else { x.releaseWhere (fun n => hs.contains n) with cmt := true }

/-- The release of XWAIT on a channel: every held push up to the last one on the channel (R467). -/
def Ctx.releaseChan (x : Ctx) (ch : Nat) : Ctx :=
  let last := (x.recs.filter (fun r => r.held && r.ch == ch)).foldl (fun m r => max m (r.seq + 1)) 0
  if last = 0 then x else { x.releaseWhere (fun n => decide (n < last)) with cmt := true }

/-- Room for one more gate entry, or 0x104 (R280). -/
def State.gatePush (s : State) (k : State → State) : State :=
  if Config.gateMax ≤ s.cx.gateUse then s.raise 0x104 0 else k s

/-- The next sequence number of the context in hand. -/
def State.nextSeq (s : State) : State := s.setCx { s.cx with seq := s.cx.seq + 1 }

/-- Rows of the scratchpad that a list of byte addresses touches, each once, in order of first touch. -/
def rowsOf (addrs : List Nat) : List Nat := (addrs.map (· / 64)).eraseDups

/-- A row entry takes in bytes about to be written, with their prior values (R280). -/
def rowAdd (sp : Memory) (rows : List GateRow) (a : Nat) : List GateRow :=
  let bit := 2 ^ (a % 64)
  let old := (mread sp a).toNat * 2 ^ (8 * (a % 64))
  if rows.any (fun r => r.row == a / 64) then
    rows.map (fun r => if r.row == a / 64 && !tbit r.mask (a % 64) then
      { r with mask := r.mask + bit, prior := r.prior + old } else r)
  else rows ++ [⟨a / 64, bit, old⟩]

/-- Undo a row entry (R283): the bytes it names get their prior values. -/
def rowUndo (sp : Memory) (r : GateRow) : Memory := writeMasked sp (64 * r.row) 64 r.mask r.prior

/-! ### The restart mark (R278) -/

/-- Set a restart mark at an address with the pending-branch state as it stands. -/
def Ctx.mark (x : Ctx) : Ctx :=
  let x := x.releaseAll
  { x with undo := [], rows := [], cmt := false, tileHaz := 0#16, planeHaz := false
           markPc := x.pc, markPend := x.pend, markAnnul := x.annul
           etgt := etgtOf x.pend, edly := edlyOf x.pend x.annul
           inFlight := x.inFlight.map (fun w => { w with post := false })
           matOps := x.matOps.map (fun r => { r with post := false })
           recs := x.recs.map (fun r => { r with post := false, kept := r.kept.map (fun k => { k with post := false }) })
           cells := x.cells.map (fun r => { r with post := false })
           drains := x.drains.map (fun r => { r with post := false, kept := r.kept.map (fun k => { k with post := false }) })
           gathers := x.gathers.map (fun r => { r with post := false })
           colls := x.colls.map (fun r => { r with post := false })
           engFaults := x.engFaults.map (fun r => { r with post := false }) }

/-! ### Failure of a task (R41) -/

/-- 12 * RY + RX of a context's tile. -/
def Ctx.place (x : Ctx) : Nat := 12 * bits x.region.toNat 0 4 + bits x.region.toNat 4 4

/-- The earlier of two failures, then the lower in (RY, RX) order (R41). -/
def earlier (a b : Failure) : Failure :=
  if b.cycle < a.cycle ∨ (b.cycle = a.cycle ∧ b.at' < a.at') then b else a

/-- A matrix engine owner leaves (R57, R368). -/
def State.freeOwner (s : State) (c : Nat) : State :=
  let t := s.tile (tileOf c)
  if t.owner = some (planeOf c) then s.setTile (tileOf c) { t with owner := none } else s

/-- Record a failure with its launch; every other task of the launch will stop (R41). -/
def State.recordFailure (s : State) (l : Nat) (f : Failure) : State :=
  { s with launches := mmodify s.launches l (fun la =>
      { la with failing := true, failure := some (match la.failure with | none => f | some g => earlier g f) }) }

/-- The task of a context ends as failed. Its pushes perform or fail as their records decide. -/
def State.failTask (s : State) (c reason code w2 w3 : Nat) : State :=
  let x := s.ctx c
  let s := s.recordFailure x.launch ⟨s.cycle, x.place, reason, code, w2, w3⟩
  (s.setCtx c { x.releaseAll with life := .failed, wait := .none, syncWait := false, pauseTo := none, ending := none, rollback := none }).freeOwner c

/-! ### Taking an exception (R271, R272) -/

/-- The wait that a delivery leaves for the return: a FENCE or DRAIN wait that 0x282 finds. -/
def Ctx.waitPast (x : Ctx) (cause : Nat) : Wait :=
  match x.wait with
  | .fence m l => if cause % 1024 = 0x282 then .fence m l else .none
  | .drain sc m l => if cause % 1024 = 0x282 then .drain sc m l else .none
  | _ => .none

/-- Enter service code: the exception registers take the kind of delivery, the pending-branch state is copied into
ETGT and EDLY and emptied, and the next bundle is the one at SVC. A SYNC hold in force ends with it. A FENCE or DRAIN wait that
0x282 finds holds the bundle that ERET comes back to: only its end, or an engine fault of a record it covers, lets that bundle issue
(R205, R206, R366); that service code runs meanwhile is the model's reading (log 26). -/
def Ctx.enterService (x : Ctx) (now : Nat) (cause : Nat) (eaddr eslot : Nat) (epc : PAddr) : Ctx :=
  { x with epc := epc, ecause := BitVec.ofNat 12 cause, eaddr := BitVec.ofNat 64 eaddr, eslot := BitVec.ofNat 4 eslot
           etgt := etgtOf x.pend, edly := edlyOf x.pend x.annul, pend := [], annul := 0, svcMode := true
           pc := x.svcAddr, last := none, wait := .none, savedWait := x.waitPast cause, pauseTo := none, syncWait := false, first := false, trapEdge := false
           frame := none, frameFrom := now, eretTest := false
           drainCount := if cause % 1024 = 0x282 then 0 else x.drainCount }

/-- Deliver an exception to a context: to service code, or the task ends when it has none or is in it already (R274). -/
def State.deliver (s : State) (c cause eaddr eslot : Nat) (epc : PAddr) : State :=
  let x := s.ctx c
  if x.svcMode then s.failTask c 1 (cause % 1024) epc.toNat x.ecause.toNat
  else if !x.svcv then s.failTask c 1 (cause % 1024) epc.toNat eaddr
  else s.setCtx c (x.enterService s.cycle cause eaddr eslot epc)

/-- The restartable causes (R283, R286). -/
def restartable (code : Nat) : Bool := code == 0x183 || code == 0x185 || code == 0x283

/-- A fault of the bundle next to issue, or of a record (R283): a restartable one issued after the mark rolls the
context back once its results in flight have landed, any other is delivered at once. -/
def State.takeFault (s : State) (c code eaddr eslot : Nat) (post : Bool) : State :=
  let x := s.ctx c
  if restartable code && post && !x.svcMode then
    s.setCtx c { x with rollback := some ⟨code, eaddr, eslot, x.pc⟩, wait := .none, pauseTo := none, syncWait := false }
  else s.deliver c code eaddr eslot x.pc

/-! ### Returning from service code (R273, R369) -/

/-- ERET: the pending-branch state comes back from ETGT and EDLY and the next bundle is the one at EPC.PC. A FENCE or DRAIN wait that
0x282 had found is in force again (log 26). A strict context then waits for a frame boundary. -/
def Ctx.leaveService (x : Ctx) (now : Nat) : Ctx :=
  { x with svcMode := false, pc := x.epc, pend := pendOf x.etgt x.edly, annul := bits x.edly.toNat 6 2
           wait := x.savedWait, savedWait := .none
           last := none, frame := none, frameFrom := now, eretTest := x.strict }

/-! ### Events (R276) -/

/-- Set pending event bits. -/
def Ctx.setEvent (x : Ctx) (bit : Nat) : Ctx := { x with evPending := x.evPending ||| BitVec.ofNat 6 (2 ^ bit) }

/-- Some event is pending and enabled. -/
def Ctx.eventReady (x : Ctx) : Bool := decide (x.evPending &&& x.evEnable ≠ 0#6)

/-! ### Lists of contexts -/

/-- The contexts of a launch's region in (RY, RX) order (R31, R41). -/
def Launch.ctxs (l : Launch) : List Nat :=
  (List.range l.rows).flatMap (fun i => (List.range l.cols).map (fun j => ctxId l.plane (l.y0 + i) (l.x0 + j)))

/-- The live contexts. -/
def State.liveCtxs (s : State) : List Nat := (s.ctxs.filter (fun p => p.2.life == .live)).map (·.1)

/-- Change every context. -/
def State.mapCtxs (s : State) (f : Ctx → Ctx) : State := { s with ctxs := s.ctxs.map (fun p => (p.1, f p.2)) }

/-- Domain ids of DMR at a level from 1 to 3 (R60). -/
def dmrId (dmr : BitVec 18) (level : Nat) : Nat := bits dmr.toNat (6 * (level - 1)) 6

/-- Two DMR values agree at every level from 1 to `l` (R61). -/
def sameDomain (a b : BitVec 18) (l : Nat) : Bool := (List.range l).all (fun i => dmrId a (i + 1) == dmrId b (i + 1))

/-- A task that is in its domains: it runs, or an eviction has stopped it. Only a task that has ended leaves (R66, R423). -/
def Ctx.inDomains (x : Ctx) : Bool := x.life == .live || x.life == .evicted

/-- The members of the domain that a DMR value names at a level, in the launch of a context (R61, R66). -/
def State.domainOf (s : State) (c : Nat) (dmr : BitVec 18) (level : Nat) : List Nat :=
  let cs := match mfind s.launches (s.ctx c).launch with
    | none => [c]
    | some l => l.ctxs
  cs.filter (fun d => (s.ctx d).inDomains && sameDomain (s.ctx d).dmr dmr level)

/-- The members of a context's domain at a level. -/
def State.domain (s : State) (c level : Nat) : List Nat := s.domainOf c (s.ctx c).dmr level

/-! ### The maintenance calendar -/

/-- The length the calendar states for the frame in progress (R305, R309). -/
def Calendar.planLen (c : Calendar) : Nat := if c.ext = some c.mfn then Config.extFrameLen else Config.frameLen
/-- The boundary that the calendar planned, and the one that comes (R310). -/
def Calendar.planned (c : Calendar) : Nat := c.start + c.planLen
def Calendar.next (c : Calendar) : Nat := c.planned + c.slip
/-- Cycles since the frame began. -/
def State.frameCycle (s : State) : Nat := s.cycle - s.cal.start
/-- No new request goes to device memory from the guard band to the end of the slot (R306). -/
def State.guarded (s : State) : Bool := decide (Config.guardStart ≤ s.frameCycle)

/-- MCAL (R308). -/
def Calendar.mcal (c : Calendar) : Nat :=
  match c.ext with
  | none => c.mfn % 2 ^ 32
  | some e => 2 ^ 56 + (e - c.mfn) % 2 ^ 24 * 2 ^ 32 + c.mfn % 2 ^ 32

/-! ### Health records and messages -/

def State.health' (s : State) (kind data : Nat) : State := { s with health := s.health ++ [(kind, data)] }
def State.tell (s : State) (m : HostMsg) : State := { s with hostOut := s.hostOut ++ [m] }

/-- Add to a progress counter, which saturates at its width (R301). -/
def State.count (s : State) (fn ctr width n : Nat) : State :=
  let t := s.tenant fn
  s.setTenant fn { t with counters := mput t.counters ctr (min (ones width) (mgetD t.counters ctr 0 + n)) }

end Sys2Proof.Machine
end

