-- ==== Sys2Proof/Machine/Fetch.lean ====
section
/-! DEFINITION. Program addresses, instruction memory and the fetch of a bundle (R72, R73, R265 to R267, R94). -/

namespace Sys2Proof.Machine

/-- Fields of SEGTAB (R265). -/
def Ctx.segd (x : Ctx) : Bool := x.segtab.getLsbD 48
def Ctx.segLast (x : Ctx) : Nat := bits x.segtab.toNat 40 8
def Ctx.rsize (x : Ctx) : Nat := 256 * bits x.segtab.toNat 32 8

/-- Where a program address points (R266). -/
inductive Place where
  /-- Instruction-memory byte, and the end of the half or of the resident code. -/
  | at' (off stop : Nat)
  | absent (seg : Nat)
  | outside
  deriving DecidableEq, Repr

/-- The half that holds a segment (R268). -/
def Ctx.halfOf (x : Ctx) (n : Nat) : Option Nat :=
  if x.half0 = some n then some 0 else if x.half1 = some n then some 1 else none

/-- R266. -/
def Ctx.locate (x : Ctx) (pa : Nat) : Place :=
  if !x.segd then
    if pa < 0x20000 then .at' pa 0x20000 else .outside
  else
    let lo := pa % 0x10000
    if pa / 2 ^ 16 = 2 ^ 8 then
      if lo < x.rsize then .at' lo x.rsize else .outside
    else
      let n := pa / 2 ^ 16
      if n ≤ x.segLast ∧ n < 256 ∧ x.rsize ≤ lo then
        match x.halfOf n with
        | some h => .at' (0x10000 * h + lo) (0x10000 * h + 0x10000)
        | none => .absent n
      else .outside

/-- The segment of a program address, if it lies in one. -/
def Ctx.segOf (x : Ctx) (pa : Nat) : Option Nat := if x.segd && decide (pa / 2 ^ 16 < 256) then some (pa / 2 ^ 16) else none

/-- The fault that an overlay copy of a segment met, until another copy into the same half starts (R270). -/
def Ctx.copyFault (x : Ctx) (seg : Nat) : Option (Nat × Nat) := (x.ovFault.find? (fun f => f.2.1 == seg)).map (fun f => f.2.2)

/-- A fault of an overlay copy of the segment that a return comes back to is forgotten: a fresh copy starts (R270). -/
def Ctx.freshSegment (x : Ctx) : Ctx :=
  match x.segOf x.pc.toNat with
  | some n => { x with ovFault := x.ovFault.filter (fun f => f.2.1 != n) }
  | none => x

/-- The bytes from a place to the end of its half, at most those of the longest bundle (R72, R73). -/
def Ctx.avail (x : Ctx) (off stop : Nat) : List Byte := readBytes x.imem off (min 48 (stop - off))

/-- The length of the bundle stored at an address, from its PRES (R355). -/
def Ctx.storedLen (x : Ctx) (pa : Nat) : Nat :=
  match x.locate pa with
  | .at' off _ => bundleLen (BitVec.ofNat 10 (readLE x.imem off 8))
  | _ => Config.freeLength pa

/-- The header of a bundle that passes orders 1 to 6 of R94 (R369). -/
def Ctx.wellFormedAt (x : Ctx) (pa : PAddr) : Option Header :=
  if pa.toNat % 4 ≠ 0 then none
  else
    match x.locate pa.toNat with
    | .at' off stop =>
      let bs := x.avail off stop
      let h := headerOf (leNat (bs.take 8))
      match decodeBundle bs with
      | .ok b => some b.hdr
      | .error (code, _) => if 0x010 ≤ code then some h else none
    | _ => none

end Sys2Proof.Machine
end

