-- ==== Sys2Proof/Machine/Float.lean ====
section
/-! DEFINITION. Exact values, rounding, conversion and the special functions (R134 to R155, R371, R483). A finite
value is an exact dyadic number: sign, magnitude and power of two. -/

namespace Sys2Proof

/-! ### Element types -/

/-- Container width in bits (R134). -/
def ETy.cw : ETy → Nat
  | .f32 | .s32 | .z32 => 32
  | .f16 | .bf16 | .s16 | .z16 => 16
  | .e4m3 | .e5m2 | .e3m2 | .e2m3 | .s8 | .z8 => 8
  | .e2m1 | .s4 => 4
  | .s64 => 64

/-- Signed integer types (R134). -/
def ETy.signed : ETy → Bool
  | .s32 | .s16 | .s8 | .s4 | .s64 => true
  | _ => false

def ETy.isInt : ETy → Bool
  | .s32 | .z32 | .s16 | .z16 | .s8 | .z8 | .s4 | .s64 => true
  | _ => false

/-- Bits of an element that are written: [7:6] of e3m2 and e2m3 are zero (R135). -/
def ETy.valBits : ETy → Nat
  | .e3m2 | .e2m3 => 6
  | t => t.cw

end Sys2Proof

namespace Sys2Proof.Machine

/-! ### Flags of VSTAT (R150) -/

def fINV : Flags := 1#5
def fOVF : Flags := 2#5
def fUNF : Flags := 4#5
def fINX : Flags := 8#5
def fSAT : Flags := 16#5
/-- A flag when a condition holds. -/
def flagIf (b : Bool) (f : Flags) : Flags := if b then f else 0#5

/-! ### Formats -/

/-- A float format of R136. -/
structure FFmt where
  e : Nat
  m : Nat
  bias : Nat
  /-- All-ones exponent gives infinities and NaNs. -/
  hasInf : Bool
  hasNan : Bool
  deriving DecidableEq, Repr

def ffmt : ETy → Option FFmt
  | .f32 => some ⟨8, 23, 127, true, true⟩
  | .f16 => some ⟨5, 10, 15, true, true⟩
  | .bf16 => some ⟨8, 7, 127, true, true⟩
  | .e4m3 => some ⟨4, 3, 7, false, true⟩
  | .e5m2 => some ⟨5, 2, 15, true, true⟩
  | .e3m2 => some ⟨3, 2, 3, false, false⟩
  | .e2m3 => some ⟨2, 3, 1, false, false⟩
  | .e2m1 => some ⟨2, 1, 1, false, false⟩
  | _ => none

/-- The format of f32. -/
def F32 : FFmt := ⟨8, 23, 127, true, true⟩

/-- An element as an integer (R139). -/
def intVal (t : ETy) (x : Nat) : Int := if t.signed then sextN t.cw x else (x % 2 ^ t.cw : Nat)

/-- The range of an integer type (R139). -/
def intLo (t : ETy) : Int := if t.signed then -(2 ^ (t.cw - 1) : Nat) else 0
def intHi (t : ETy) : Int := if t.signed then (2 ^ (t.cw - 1) : Nat) - 1 else (2 ^ t.cw : Nat) - 1

/-! ### Exact values -/

/-- An exact value: NaN (signalling or not), an infinity, or (-1)^neg * m * 2^e. -/
inductive XVal where
  | nan (sig : Bool)
  | inf (neg : Bool)
  | fin (neg : Bool) (m : Nat) (e : Int)
  deriving DecidableEq, Repr

def XVal.zero : XVal := .fin false 0 0
def XVal.isNan : XVal → Bool
  | .nan _ => true
  | _ => false
def XVal.isSnan : XVal → Bool
  | .nan b => b
  | _ => false
def XVal.isZero : XVal → Bool
  | .fin _ m _ => m == 0
  | _ => false
def XVal.isNeg : XVal → Bool
  | .nan _ => false
  | .inf n => n
  | .fin n _ _ => n
def XVal.negate : XVal → XVal
  | .nan b => .nan b
  | .inf n => .inf (!n)
  | .fin n m e => .fin (!n) m e
def XVal.magnitude : XVal → XVal
  | .nan b => .nan b
  | .inf _ => .inf false
  | .fin _ m e => .fin false m e

/-- An integer as an exact value. -/
def XVal.ofInt (i : Int) : XVal := .fin (decide (i < 0)) i.natAbs 0

/-- Multiply by a power of two. -/
def XVal.scale (k : Int) : XVal → XVal
  | .fin n m e => .fin n m (e + k)
  | x => x

/-- A float pattern read by R136 and R137. -/
def decodeFloat (f : FFmt) (x : Nat) : XVal :=
  let s := tbit x (f.e + f.m)
  let ex := bits x f.m f.e
  let fr := bits x 0 f.m
  if f.hasInf && ex == ones f.e then
    if fr = 0 then .inf s else .nan (!tbit fr (f.m - 1))
  else if f.hasNan && !f.hasInf && ex == ones f.e && fr == ones f.m then .nan false
  else if ex = 0 then .fin s fr (1 - (f.bias : Int) - f.m)
  else .fin s (2 ^ f.m + fr) ((ex : Int) - f.bias - f.m)

/-- An element of any type read as an exact value. -/
def elemVal (t : ETy) (x : Nat) : XVal :=
  match ffmt t with
  | some f => decodeFloat f x
  | none => .ofInt (intVal t x)

/-- The canonical NaN (R137). -/
def canonNan (f : FFmt) : Nat :=
  if f.hasInf then ones f.e * 2 ^ f.m + 2 ^ (f.m - 1) else ones (f.e + f.m)

/-- The pattern of an infinity. -/
def infBits (f : FFmt) (neg : Bool) : Nat := neg.toNat * 2 ^ (f.e + f.m) + ones f.e * 2 ^ f.m

/-- The magnitude pattern of the largest finite value (R136). -/
def maxMag (f : FFmt) : Nat :=
  if f.hasInf then ones f.e * 2 ^ f.m - 1 else if f.hasNan then ones (f.e + f.m) - 1 else ones (f.e + f.m)

/-- The number of bits of a natural number. -/
def bitLen (n : Nat) : Nat := if n = 0 then 0 else n.log2 + 1

/-- floor(log2 |x|) of a nonzero finite value. -/
def expOf (m : Nat) (e : Int) : Int := e + bitLen m - 1

/-! ### Rounding (R144, R145) -/

/-- Round m * 2^e to a multiple of 2^q: the multiple, whether it differs, and whether it lies further from zero. `u` is
the draw of SR. -/
def roundMag (mode : RMode) (u : Nat) (neg : Bool) (m : Nat) (e q : Int) : Nat × Bool × Bool :=
  if q ≤ e then (m * 2 ^ (e - q).toNat, false, false)
  else
    let d := (q - e).toNat
    let n := m / 2 ^ d
    let r := m % 2 ^ d
    if r = 0 then (n, false, false)
    else
      let up := match mode with
        | .rne => decide (2 ^ d < 2 * r ∨ (2 * r = 2 ^ d ∧ n % 2 = 1))
        | .rtz => false
        | .rdn => neg
        | .rup => !neg
        | .sr => if neg then !decide (u < (2 ^ d - r) * 2 ^ 24 / 2 ^ d) else decide (u < r * 2 ^ 24 / 2 ^ d)
      (if up then n + 1 else n, true, up)

/-- The exponent of the binade of the largest value of a format. -/
def FFmt.top (f : FFmt) : Int := (ones f.e : Nat) - f.hasInf.toNat - f.bias

/-- Round a nonzero finite value onto the grid of a format, extended past its largest value with the spacing of that value's
binade (R483): the magnitude pattern, whether it differs, whether it lies further from zero. -/
def roundGrid (f : FFmt) (mode : RMode) (u : Nat) (neg : Bool) (m : Nat) (e : Int) : Nat × Bool × Bool :=
  let ex := min (max (expOf m e) (1 - (f.bias : Int))) f.top
  let r := roundMag mode u neg m e (ex - f.m)
  ((ex + f.bias - 1).toNat * 2 ^ f.m + r.1, r.2)

/-- Is a finite value below the smallest normal of a format? -/
def tiny (f : FFmt) (m : Nat) (e : Int) : Bool := decide (expOf m e < 1 - (f.bias : Int))

def withSign (f : FFmt) (neg : Bool) (mag : Nat) : Nat := neg.toNat * 2 ^ (f.e + f.m) + mag

/-- Arithmetic rounding into an f32, f16 or bf16 by RNE (R138): overflow gives an infinity. -/
def roundArith (f : FFmt) (x : XVal) : Nat × Flags :=
  match x with
  | .nan _ => (canonNan f, 0#5)
  | .inf n => (infBits f n, 0#5)
  | .fin n m e =>
    if m = 0 then (withSign f n 0, 0#5)
    else
      let r := roundGrid f .rne 0 n m e
      if maxMag f < r.1 then (infBits f n, fOVF ||| fINX)
      else (withSign f n r.1, flagIf r.2.1 fINX ||| flagIf (r.2.1 && tiny f m e) fUNF)

/-- Conversion into a float type (R144, R148, R149, R483). Under SR with IOV set, a value beyond max that lies on the extended
grid has no neighbour to choose: that it gives infinity is the model's choice (log 65). -/
def toFloat (f : FFmt) (mode : RMode) (u : Nat) (iov : Bool) (x : XVal) : Nat × Flags :=
  match x with
  | .nan sig => if f.hasNan then (canonNan f, flagIf sig fINV) else (0, fINV)
  | .inf n =>
    if f.hasInf then (infBits f n, 0#5)
    else if f.hasNan && iov then (canonNan f, fINV)
    else (withSign f n (maxMag f), fSAT)
  | .fin n m e =>
    if m = 0 then (withSign f n 0, 0#5)
    else
      let r := roundGrid f mode u n m e
      if maxMag f < r.1 then
        let away := match mode with
          | .rne => true
          | .rtz => false
          | .rdn => n
          | .rup => !n
          | .sr => !r.2.1 || r.2.2
        if f.hasInf && iov then
          (if away then infBits f n else withSign f n (maxMag f), fOVF ||| fINX)
        else if f.hasNan && !f.hasInf && iov then (canonNan f, fOVF ||| fINX ||| fINV)
        else (withSign f n (maxMag f), fOVF ||| fINX ||| fSAT)
      else
        let unf := (r.1 == 0) || (r.2.1 && tiny f m e)
        (withSign f n r.1, flagIf r.2.1 fINX ||| flagIf unf fUNF)

/-- Conversion into an integer type (R148): `intSrc` tells an integer source, for which IOV selects wrapping. -/
def toInt (t : ETy) (mode : RMode) (u : Nat) (iov intSrc : Bool) (x : XVal) : Nat × Flags :=
  match x with
  | .nan _ => (0, fINV)
  | .inf n => (truncI t.cw (if n then intLo t else intHi t), fSAT)
  | .fin n m e =>
    let r := roundMag mode u n m e 0
    let v : Int := if n then -(r.1 : Int) else r.1
    let fl := flagIf r.2.1 fINX ||| flagIf (r.1 == 0 && m != 0) fUNF
    if v < intLo t ∨ intHi t < v then
      if iov && intSrc then (truncI t.cw v, fl)
      else (truncI t.cw (if v < intLo t then intLo t else intHi t), fl ||| fSAT)
    else (truncI t.cw v, fl)

/-- Conversion into any element type. -/
def convert (t : ETy) (mode : RMode) (u : Nat) (iov intSrc : Bool) (x : XVal) : Nat × Flags :=
  match ffmt t with
  | some f => toFloat f mode u iov x
  | none => toInt t mode u iov intSrc x

/-! ### Exact arithmetic with the specials of IEEE 754 (R138) -/

/-- The signed integer of a finite value in units of 2^q, for q ≤ e. -/
def inUnits (n : Bool) (m : Nat) (e q : Int) : Int :=
  let v := m * 2 ^ (e - q).toNat
  if n then -(v : Int) else v

/-- Addition; an exact zero is +0 unless both addends are -0. -/
def xadd (a b : XVal) : XVal × Flags :=
  let sg := flagIf (a.isSnan || b.isSnan) fINV
  match a, b with
  | .nan _, _ => (.nan false, sg)
  | _, .nan _ => (.nan false, sg)
  | .inf n, .inf n' => if n = n' then (.inf n, 0#5) else (.nan false, fINV)
  | .inf n, _ => (.inf n, 0#5)
  | _, .inf n => (.inf n, 0#5)
  | .fin n m e, .fin n' m' e' =>
    let q := min e e'
    let v := inUnits n m e q + inUnits n' m' e' q
    if v = 0 then (.fin (m == 0 && m' == 0 && n && n') 0 0, 0#5) else (.fin (decide (v < 0)) v.natAbs q, 0#5)

/-- Multiplication. The sign of a zero product is the exclusive OR of the signs of its operands: of a matrix product of
profile 2 that is the model's choice (log 65). -/
def xmul (a b : XVal) : XVal × Flags :=
  let sg := flagIf (a.isSnan || b.isSnan) fINV
  match a, b with
  | .nan _, _ => (.nan false, sg)
  | _, .nan _ => (.nan false, sg)
  | .inf n, .inf n' => (.inf (n != n'), 0#5)
  | .inf n, .fin n' m' _ => if m' = 0 then (.nan false, fINV) else (.inf (n != n'), 0#5)
  | .fin n m _, .inf n' => if m = 0 then (.nan false, fINV) else (.inf (n != n'), 0#5)
  | .fin n m e, .fin n' m' e' => (.fin (n != n') (m * m') (e + e'), 0#5)

/-- a * b + c, exact (R445): 0 * infinity sets INV even when the addend is a quiet NaN. -/
def xfma (a b c : XVal) : XVal × Flags :=
  let p := xmul a b
  let r := xadd p.1 c
  (r.1, p.2 ||| r.2)

/-- The float order: -0 below +0; for values that are not NaN. -/
def xlt (a b : XVal) : Bool :=
  match a, b with
  | .nan _, _ => false
  | _, .nan _ => false
  | .inf n, .inf n' => n && !n'
  | .inf n, .fin _ _ _ => n
  | .fin _ _ _, .inf n => !n
  | .fin n m e, .fin n' m' e' =>
    if m = 0 ∧ m' = 0 then n && !n'
    else
      let q := min e e'
      decide (inUnits n m e q < inUnits n' m' e' q)

/-- Equality of numbers: -0 equals +0. -/
def xeq (a b : XVal) : Bool :=
  match a, b with
  | .nan _, _ => false
  | _, .nan _ => false
  | .inf n, .inf n' => n == n'
  | .inf _, .fin _ _ _ => false
  | .fin _ _ _, .inf _ => false
  | .fin n m e, .fin n' m' e' =>
    let q := min e e'
    inUnits n m e q == inUnits n' m' e' q

/-- The smaller and the larger by the float order (R429). -/
def xmin (a b : XVal) : XVal × Flags :=
  let sg := flagIf (a.isSnan || b.isSnan) fINV
  if a.isNan || b.isNan then (.nan false, sg) else (if xlt b a then b else a, 0#5)
def xmax (a b : XVal) : XVal × Flags :=
  let sg := flagIf (a.isSnan || b.isSnan) fINV
  if a.isNan || b.isNan then (.nan false, sg) else (if xlt a b then b else a, 0#5)

/-! ### Special functions (R371, R372) -/

/-- Fixed point: values are multiples of 2^-160. -/
def fxP : Nat := 160
def fxOne : Nat := 2 ^ 160
/-- floor(pi * 2^160) and floor(ln 2 * 2^160). -/
def fxPi : Nat := 4591442807048218921384805199743311128454155024418
def fxLn2 : Nat := 1013035739299659071135698605846798551586536899366
def fxMul (a b : Nat) : Nat := a * b / 2 ^ 160

/-- Sum of y^n / n! for the next `k` terms, from the term `t` of index `n`: e^y for 0 ≤ y < 1. -/
def fxExpGo (y : Nat) : Nat → Nat → Nat → Nat
  | 0, _, _ => 0
  | k + 1, n, t => t + fxExpGo y k (n + 1) (fxMul t y / (n + 1))
def fxExp (y : Nat) : Nat := fxExpGo y 44 0 fxOne

/-- Sum of z^(2k+1) / (2k+1), from the power `t` of odd index `n`: atanh z. -/
def fxAtanhGo (z2 : Nat) : Nat → Nat → Nat → Nat
  | 0, _, _ => 0
  | k + 1, n, t => t / n + fxAtanhGo z2 k (n + 2) (fxMul t z2)
def fxAtanh (z : Nat) : Nat := fxAtanhGo (fxMul z z) 44 1 z

/-- sin(y) / y for 0 ≤ y ≤ pi / 2 from y^2: the even and the odd terms apart. -/
def fxSincGo (y2 : Nat) : Nat → Nat → Nat → Nat × Nat
  | 0, _, _ => (0, 0)
  | k + 1, n, t =>
    let r := fxSincGo y2 k (n + 2) (fxMul t y2 / ((n + 2) * (n + 3)))
    (t + r.2, r.1)
def fxSinc (y2 : Nat) : Nat :=
  let r := fxSincGo y2 32 0 fxOne
  r.1 - r.2

/-- floor(sqrt n), bit by bit from bit `k - 1`. -/
def sqrtGo (n : Nat) : Nat → Nat → Nat
  | 0, r => r
  | k + 1, r => let r' := r + 2 ^ k; if r' * r' ≤ n then sqrtGo n k r' else sqrtGo n k r
def isqrt (n : Nat) : Nat := sqrtGo n (bitLen n / 2 + 1) 0

/-- A result known up to `err` units: m * 2^e with a sticky lowest bit below and above. -/
structure Bracket where
  neg : Bool
  m : Nat
  err : Nat
  e : Int
  deriving DecidableEq, Repr

/-- Round a bracketed value that is never itself in V: both ends must round alike; otherwise the direction is a free
value (log 7). -/
def roundBracket (f : FFmt) (op x : Nat) (b : Bracket) : Nat × Flags :=
  let lo := roundArith f (.fin b.neg (2 * (b.m - b.err) + 1) (b.e - 1))
  let hi := roundArith f (.fin b.neg (2 * (b.m + b.err) + 1) (b.e - 1))
  if lo = hi then lo else if Config.roundsUp op x then hi else lo

/-- A value just below (`up` false) or just above m * 2^e, too close for any format to tell how close. -/
def nearly (neg : Bool) (m : Nat) (e : Int) (up : Bool) : Bracket :=
  ⟨neg, if up then m * 2 ^ 100 else m * 2 ^ 100 - 1, 0, e - 100⟩

/-- 2^y in fixed point for a positive or negative dyadic m * 2^e that is not an integer, |x| < 2^10: integer part and
fixed-point factor in [1, 2). -/
def exp2Parts (neg : Bool) (m : Nat) (e : Int) : Int × Nat :=
  -- x in units of 2^-160 when e ≥ -160, truncated otherwise
  let fx : Nat := if 0 ≤ e + 160 then m * 2 ^ (e + 160).toNat else m / 2 ^ (-(e + 160)).toNat
  let ip := fx / fxOne
  let fr := fx % fxOne
  if neg then (-(ip : Int) - 1, fxExp (fxMul (fxOne - fr) fxLn2)) else (ip, fxExp (fxMul fr fxLn2))

/-- Is m * 2^e an integer? -/
def isIntegral (m : Nat) (e : Int) : Bool := decide (0 ≤ e) || m % 2 ^ (-e).toNat == 0

/-- sin(pi * x) for x = m * 2^e: sign flip, and the argument brought to (0, 1/2] as numerator over 2^d. -/
def sinReduce (m d : Nat) : Bool × Nat :=
  let r := m % 2 ^ (d + 1)
  let flip := decide (2 ^ d ≤ r)
  let r := r % 2 ^ d
  (flip, if 2 ^ d < 2 * r then 2 ^ d - r else r)

/-- |sin(pi * n / 2^d)| for 0 < n / 2^d < 1/2, as n * 2^-d * pi * sinc. -/
def sinPi (neg : Bool) (n d : Nat) : Bracket :=
  let x := n * 2 ^ 160 / 2 ^ d
  let y := fxMul x fxPi
  let s := fxMul fxPi (fxSinc (fxMul y y))
  ⟨neg, n * s, n * 2 ^ 12, -(d : Int) - 160⟩

/-- The eight functions: 1 FEXP2, 2 FLOG2, 3 FRCP, 4 FRSQ, 5 FTANH, 6 FSIG, 7 FSIN, 8 FCOS (R109, R371). -/
def specialFn (op : Nat) (f : FFmt) (pat : Nat) : Nat × Flags :=
  let one := roundArith f (.fin false 1 0)
  let nanInv := (canonNan f, fINV)
  match decodeFloat f pat with
  | .nan sig => (canonNan f, flagIf sig fINV)
  | .inf n =>
    match op with
    | 1 => if n then (0, 0#5) else (infBits f false, 0#5)
    | 2 => if n then nanInv else (infBits f false, 0#5)
    | 3 => (withSign f n 0, 0#5)
    | 4 => if n then nanInv else (0, 0#5)
    | 5 => (withSign f n one.1, 0#5)
    | 6 => if n then (0, 0#5) else one
    | _ => nanInv
  | .fin n m e =>
    if m = 0 then
      match op with
      | 1 => one
      | 2 => (infBits f true, 0#5)
      | 3 => (infBits f n, 0#5)
      | 4 => (infBits f n, 0#5)
      | 5 => (pat, 0#5)
      | 6 => roundArith f (.fin false 1 (-1))
      | 7 => (pat, 0#5)
      | _ => one
    else
      let big := expOf m e
      match op with
      | 1 =>
        if isIntegral m e && decide (big < 12) then
          let k : Nat := m * 2 ^ e.toNat / 2 ^ (-e).toNat
          roundArith f (.fin false 1 (if n then -(k : Int) else k))
        else if 10 ≤ big then roundArith f (.fin false 3 (if n then -2000 else 2000))
        else if big < -100 then roundBracket f op pat (nearly false 1 0 (!n))
        else
          let p := exp2Parts n m e
          roundBracket f op pat ⟨false, p.2, 2 ^ 12, p.1 - 160⟩
      | 2 =>
        if n then nanInv
        else
          -- m * 2^e = a * 2^k with a in [3/4, 3/2)
          let l := bitLen m
          let k0 : Int := e + l - 1
          let hiHalf := decide (3 * 2 ^ l ≤ 4 * m)
          let k : Int := if hiHalf then k0 + 1 else k0
          -- a = m / 2^s
          let s := if hiHalf then l else l - 1
          if m = 2 ^ s then roundArith f (XVal.ofInt k)
          else
            let below := decide (m < 2 ^ s)
            let num := if below then 2 ^ s - m else m - 2 ^ s
            let z := num * 2 ^ 160 / (m + 2 ^ s)
            let ln : Nat := 2 * fxAtanh z
            let lg : Nat := ln * 2 ^ 160 / fxLn2
            let v : Int := k * (fxOne : Int) + (if below then -(lg : Int) else lg)
            roundBracket f op pat ⟨decide (v < 0), v.natAbs, 2 ^ 12, -160⟩
      | 3 =>
        let w := 2 ^ (bitLen m + 100)
        let q := w / m
        roundArith f (.fin n (2 * q + (if w % m = 0 then 0 else 1)) (-e - (bitLen m + 100) - 1))
      | 4 =>
        if n then nanInv
        else
          let odd := decide (e % 2 = 1)
          let m' := if odd then 2 * m else m
          let e' := if odd then e - 1 else e
          let k := bitLen m' + 100
          let r := isqrt (2 ^ (2 * k) / m')
          roundArith f (.fin false (2 * r + (if r * r * m' = 2 ^ (2 * k) then 0 else 1)) (-(e' / 2) - k - 1))
      | 5 =>
        if big < -40 then roundBracket f op pat (nearly n m e false)
        else if 7 ≤ big then roundBracket f op pat (nearly n 1 0 false)
        else
          -- e^(2x) = 2^(2x / ln 2)
          let fx : Nat := if 0 ≤ e + 160 then m * 2 ^ (e + 160).toNat else m / 2 ^ (-(e + 160)).toNat
          let t := 2 * fx * 2 ^ 160 / fxLn2
          let g := fxExp (fxMul (t % fxOne) fxLn2) * 2 ^ (t / fxOne)
          let num := (g - fxOne) * 2 ^ 160 / (g + fxOne)
          roundBracket f op pat ⟨n, num, 2 ^ 30, -160⟩
      | 6 =>
        if big < -60 then roundBracket f op pat (nearly false 1 (-1) (!n))
        else if 8 ≤ big then
          if n then roundArith f (.fin false 3 (-2000)) else roundBracket f op pat (nearly false 1 0 false)
        else
          let fx : Nat := if 0 ≤ e + 160 then m * 2 ^ (e + 160).toNat else m / 2 ^ (-(e + 160)).toNat
          let t := fx * 2 ^ 160 / fxLn2
          -- g = e^|x| in fixed point
          let g := fxExp (fxMul (t % fxOne) fxLn2) * 2 ^ (t / fxOne)
          if n then roundBracket f op pat ⟨false, 2 ^ 700 / (g + fxOne), 2 ^ 700 / (g + fxOne) / 2 ^ 130 + 1, 160 - 700⟩
          else roundBracket f op pat ⟨false, g * 2 ^ 160 / (g + fxOne), 2 ^ 20, -160⟩
      | 7 =>
        if isIntegral m e then (withSign f n 0, 0#5)
        else
          let d := (-e).toNat
          let r := sinReduce m d
          if 2 * r.2 = 2 ^ d then roundArith f (.fin (n != r.1) 1 0)
          else roundBracket f op pat (sinPi (n != r.1) r.2 d)
      | _ =>
        if big < -60 then roundBracket f op pat (nearly false 1 0 false)
        else
          -- cos(pi x) = sin(pi (|x| + 1/2))
          let d := max (-e).toNat 1
          let m2 := m * 2 ^ (e + d).toNat + 2 ^ (d - 1)
          if m2 % 2 ^ d = 0 then (0, 0#5)
          else
            let r := sinReduce m2 d
            if 2 * r.2 = 2 ^ d then roundArith f (.fin r.1 1 0)
            else roundBracket f op pat (sinPi r.1 r.2 d)

end Sys2Proof.Machine
end

