-- ==== Sys2Proof/Machine/Operands.lean ====
section
/-! DEFINITION. The operand forms: the register-or-immediate source of a scalar word, the elements of v registers, the
masks that make them active, and the loop of R424 over enabled clusters and active elements. -/

namespace Sys2Proof

/-- Bytes of a width. -/
def Width.bytes : Width → Nat
  | .w8 => 1 | .w16 => 2 | .w32 => 4 | .w64 => 8

/-- Bytes and signedness of the forms of LD (R385). -/
def LdTy.bytes : LdTy → Nat
  | .s8 | .z8 => 1 | .s16 | .z16 => 2 | .s32 | .z32 => 4 | .s64 => 8
def LdTy.isSigned : LdTy → Bool
  | .s8 | .s16 | .s32 | .s64 => true
  | _ => false

end Sys2Proof

namespace Sys2Proof.Machine

/-! ### Scalar sources (R98) -/

/-- The count of a shift: sb[5:0], or the field itself (R416). -/
def State.shiftCount (s : State) : Src → Nat
  | .reg r => (s.rs r).toNat % 64
  | .imm n => n.val

/-- The right side of CMP: a register, or the field sign-extended from 6 bits (R357). -/
def State.cmpSource (s : State) : Src → Word
  | .reg r => s.rs r
  | .imm n => BitVec.ofInt 64 (sextN 6 n.val)

/-- imm12 sign-extended and zero-extended (R82). -/
def simm (i : BitVec 12) : Word := i.signExtend 64
def zimm (i : BitVec 12) : Word := i.zeroExtend 64

/-- A branch target: the bundle address and a displacement in 4-byte units (R82, R100). -/
def branchTarget (pc : PAddr) (disp : BitVec 20) : PAddr := pc + disp.signExtend 32 * 4#32

/-! ### Elements (R84, R134, R135) -/

/-- Elements of a type in one cluster's register. -/
def eltCount (t : ETy) : Nat := 2048 / t.cw

/-- Element `i` of width `w`. -/
def elem (v w i : Nat) : Nat := bits v (w * i) w

/-- Is an element active: the mask bits of all its bytes are set; a 4-bit element has its byte's bit (R84). -/
def active (k w i : Nat) : Bool :=
  if w = 4 then tbit k (i / 2) else bits k (i * (w / 8)) (w / 8) == ones (w / 8)

/-- The enabled clusters of the bundle in hand (R78). -/
def State.clusters (s : State) : List Nat := setBits 8 s.issue.cmask.toNat

/-- One element's place in a register image: bits written, value, flags. -/
structure Image where
  mask : Nat
  val : Nat
  flags : Flags
  deriving DecidableEq, Repr

def Image.empty : Image := ⟨0, 0, 0#5⟩

/-- Put an element of width `w` into an image. -/
def Image.put (im : Image) (w i : Nat) (r : Nat × Flags) : Image :=
  ⟨im.mask + ones w * 2 ^ (w * i), im.val + r.1 % 2 ^ w * 2 ^ (w * i), im.flags ||| r.2⟩

/-- The image of the elements that `act` names, in element order. -/
def imageOf (n w : Nat) (act : Nat → Bool) (f : Nat → Nat × Flags) : Image :=
  (List.range n).foldl (fun im i => if act i then im.put w i (f i) else im) .empty

/-- One cluster's write of a v register with its flags. -/
def State.writeImage (s : State) (lat : Nat) (d : VReg) (c : Nat) (im : Image) : State :=
  (if im.mask = 0 then s else s.writeV lat d c im.mask im.val).writeFlags lat im.flags

/-- The loop of R424 for a word that writes a v register: `img c` is what cluster `c` writes. DESIGN CHOICE: a word none of
whose elements is active in any enabled cluster still takes the undo entry of R424 and R279, and can raise 0x106 (log 72). -/
def State.vecImages (s : State) (lat : Nat) (d : VReg) (img : Nat → Image) : State :=
  match s.clusters with
  | [] => s
  | cs => cs.foldl (fun s' c => s'.writeImage lat d c (img c)) (s.needUndo (.v d.val))

/-- The loop of R424 for element results: `f c i` is element `i` of cluster `c`. -/
def State.vecLoop (s : State) (lat : Nat) (d : VReg) (t : ETy) (k : KSel) (f : Nat → Nat → Nat × Flags) : State :=
  s.vecImages lat d (fun c => imageOf (eltCount t) t.cw (active (s.rk k.val c) t.cw) (f c))

/-- The element loop without flags. -/
def State.vecPure (s : State) (lat : Nat) (d : VReg) (t : ETy) (k : KSel) (f : Nat → Nat → Nat) : State :=
  s.vecLoop lat d t k (fun c i => (f c i, 0#5))

/-- The element loop for a word that writes a k register: the bits of each active element's bytes take its truth
(R435). -/
def State.maskLoop (s : State) (lat : Nat) (d : KReg) (t : ETy) (k : KSel) (f : Nat → Nat → Bool × Flags) : State :=
  match s.clusters with
  | [] => s
  | cs =>
    let s0 := if d.val = 0 then s else s.needUndo (.k d.val)
    cs.foldl (fun s' c =>
      let n := t.cw / 8
      let im := imageOf (eltCount t) n (active (s.rk k.val c) t.cw)
        (fun i => (if (f c i).1 then ones n else 0, (f c i).2))
      (s'.writeK lat d c im.mask im.val).writeFlags lat im.flags) s0

/-! ### Scratchpad addresses (R101) -/

/-- Base plus scaled offset, exact (R169). -/
def State.addr (s : State) (b : SReg) (off : Int) (scale : Nat) : Int := ((s.rs b).toNat : Int) + off * scale

end Sys2Proof.Machine
end

