-- ==== Sys2Proof/Machine/Control.lean ====
section
/-! DEFINITION. The control words of SA: delayed branches (R92, R93), TRAP, ERET, END, PAUSE, YIELD and BKPT. -/

namespace Sys2Proof.Machine

/-- The condition of a BRANCH word (R100). -/
def State.branchCond (s : State) (q : QReg) (qn : Bool) : Bool := s.rq q != qn

/-- R352, R353. -/
def execBr (q : QReg) (qn : Bool) (disp : BitVec 20) (s : State) : Res :=
  .next (s.advance (if s.branchCond q qn then some (branchTarget s.issue.pc disp) else none) false)

/-- R352, R353: not taken, it annuls the two bundles that follow. -/
def execBrn (q : QReg) (qn : Bool) (disp : BitVec 20) (s : State) : Res :=
  .next (if s.branchCond q qn then s.advance (some (branchTarget s.issue.pc disp)) false else s.advance none true)

/-- R379. -/
def execJmp (disp : BitVec 20) (s : State) : Res := .next (s.advance (some (branchTarget s.issue.pc disp)) false)

/-- A jump to a register value, with the checks of R379. -/
def State.jumpReg (s : State) (v : Word) : State :=
  if v.toNat % 4 ≠ 0 then s.raise 0x003 0
  else if 2 ^ 32 ≤ v.toNat then s.raise 0x289 v.toNat
  else s.advance (some (v.truncate 32)) false

/-- R379. -/
def execJmpr (a : SReg) (s : State) : Res := .next (s.jumpReg (s.rs a))

/-- R415: as JMPR. -/
def execRet (a : SReg) (s : State) : Res := .next (s.jumpReg (s.rs a))

/-- The link of CALL: the address after the two bundles that follow in address order (R355). -/
def State.callLink (s : State) : Word :=
  let p1 := s.issue.pc.toNat + s.issue.len
  let p2 := p1 + s.cx.storedLen p1
  BitVec.ofNat 64 (p2 + s.cx.storedLen p2)

/-- R355. -/
def execCall (disp : BitVec 20) (s : State) : Res :=
  .next ((s.writeS 1 63 s.callLink).advance (some (branchTarget s.issue.pc disp)) false)

/-- The number of the loop count register (R86). -/
def loopNum (c1 : Bool) : Nat := if c1 then 0x021 else 0x020

/-- R389. The counter takes its undo entry whatever its value. -/
def execLoop (c1 : Bool) (disp : BitVec 20) (s : State) : Res :=
  let n := s.cx.crNat (loopNum c1)
  let s := s.needUndo (.cr (loopNum c1))
  .next (if n = 0 then s.advance none false
    else (s.pend 1 (.cr (loopNum c1)) (ones 64) (n - 1)).advance
      (if n - 1 ≠ 0 then some (branchTarget s.issue.pc disp) else none) false)

/-- R426, R427: the bundle performs, and at the boundary after it 0x380 + n is delivered with EPC the next address. A wait
that the bundle itself begins holds the first service bundle. -/
def execTrap (n : BitVec 12) (s : State) : Res :=
  let s := s.advance none false
  let s' := s.deliver s.issue.ctx (0x380 + n.toNat) 0 s.issue.slot.num s.cx.pc
  .next (if s'.cx.isLive then s'.setCx { s'.cx with wait := s.cx.wait, trapEdge := true } else s')

/-- The header of the bundle at EPC.PC where ERET tests it (R369). -/
def Ctx.eretLacksF (x : Ctx) : Bool :=
  match x.wellFormedAt x.epc with
  | some h => !h.f
  | none => false

/-- R369, R273. -/
def execEret (s : State) : Res :=
  let x := s.cx
  .next (
    if !x.svcMode then s.raise 0x093 0
    else if !edlyOk x.edly then s.raise 0x092 0
    else if x.strict && x.eretLacksF then s.raise 0x288 0
    else
      let s := s.setCx (x.leaveService s.cycle).freshSegment
      { s with issue := { s.issue with advanced := true } })

/-- R367, R368: no further bundle issues; held pushes are released; a nonzero status fails the launch from this
cycle. -/
def execEndTask (status : BitVec 12) (s : State) : Res :=
  let x := s.cx
  let s := if status = 0#12 then s
    else s.recordFailure x.launch ⟨s.cycle, x.place, 0, 0, s.issue.pc.toNat, status.toNat⟩
  let s := s.setCx { x.releaseAll with pend := [], annul := 0, ending := some (status.toNat, s.issue.pc.toNat) }
  .next { s with issue := { s.issue with advanced := true } }

/-- R411: in a strict context outside service mode it raises 0x280. -/
def execPause (n : BitVec 12) (s : State) : Res :=
  .next (s.check s.cx.strictNow 0x280 0 fun s => s.setCx { s.cx with pauseTo := some (s.cycle + 14 * n.toNat) })

/-- R468: in a strict context outside service mode it has no effect. -/
def execYield (s : State) : Res :=
  .next (if s.cx.strictNow then s else { s with issue := { s.issue with giveUp := true } })

/-- A debugger is attached to a context's region (R336); none is while firmware is activated, which suspends every session
(R337, log 15). -/
def State.debugged (s : State) (x : Ctx) : Bool :=
  s.activation == Activation.none &&
  match mfind s.launches x.launch with
  | none => false
  | some l => x.dbg && s.consents.any (fun c => c.tenant == l.fn && c.tid == l.tid && decide (s.cal.mfn ≤ c.expiry))

/-- R351: with a debugger attached the context halts at the boundary after the bundle; without one it raises 0x28A. -/
def execBkpt (s : State) : Res :=
  .next (s.check (!s.debugged s.cx) 0x28A 0 fun s => s.setCx { s.cx with haltNext := true })

end Sys2Proof.Machine
end

