-- ==== Sys2Proof/Machine/Larder.lean ====
section
/-! DEFINITION. Larder cells (R216 to R224): one addition, the initial cell and the converting read. A cell is a natural
number of 256 bits. -/

namespace Sys2Proof.Machine

/-- The fields of a cell (R216). -/
structure Cell where
  int : Nat
  count : Nat
  nan : Bool
  pinf : Bool
  ninf : Bool
  ovf : Bool
  unf : Bool
  gx : Bool
  init : Bool
  deriving DecidableEq, Repr

/-- Read a cell; RZ bits are ignored. -/
def Cell.ofNat (c : Nat) : Cell where
  int := bits c 0 216
  count := bits c 216 24
  nan := tbit c 240
  pinf := tbit c 241
  ninf := tbit c 242
  ovf := tbit c 243
  unf := tbit c 244
  gx := tbit c 245
  init := tbit c 246

/-- Write a cell, RZ bits zero. -/
def Cell.toNat (c : Cell) : Nat :=
  c.int % 2 ^ 216 + 2 ^ 216 * (c.count % 2 ^ 24) + 2 ^ 240 * c.nan.toNat + 2 ^ 241 * c.pinf.toNat + 2 ^ 242 * c.ninf.toNat
    + 2 ^ 243 * c.ovf.toNat + 2 ^ 244 * c.unf.toNat + 2 ^ 245 * c.gx.toNat + 2 ^ 246 * c.init.toNat

/-- What LINIT writes (R221). -/
def Cell.fresh : Cell := ⟨0, 0, false, false, false, false, false, false, true⟩

/-- A finite magnitude m * 2^e in units of 2^a, truncated toward zero, and whether it is exact. -/
def cellUnits (m : Nat) (e a : Int) : Nat × Bool :=
  if a ≤ e then (m * 2 ^ (e - a).toNat, true)
  else (m / 2 ^ (a - e).toNat, m % 2 ^ (a - e).toNat == 0)

/-- One addition (R218). -/
def Cell.add (c : Cell) (x : XVal) (a : Int) : Cell :=
  let c := if c.count = 2 ^ 24 - 1 then { c with gx := true } else { c with count := c.count + 1 }
  match x with
  | .nan _ => { c with nan := true }
  | .inf n => if n then { c with ninf := true } else { c with pinf := true }
  | .fin n m e =>
    let q := cellUnits m e a
    if 2 ^ 191 ≤ q.1 then { c with ovf := true }
    else { c with unf := c.unf || !q.2, int := truncI 216 ((c.int : Int) + (if n then -(q.1 : Int) else q.1)) }

/-- The converting read, an f32 pattern (R224). -/
def Cell.read (c : Cell) (a : Int) : Nat :=
  if !c.init then 0x7FC00000
  else if c.nan || (c.pinf && c.ninf) then 0x7FC00000
  else if c.pinf then 0x7F800000
  else if c.ninf then 0xFF800000
  else if c.ovf || c.gx then 0x7FC00000
  else
    let v := sextN 216 c.int
    if v = 0 then 0 else (toFloat F32 .rne 0 false ((XVal.ofInt v).scale a)).1

/-- The addend that clamp puts in the place of one beyond the window (R223). -/
def cellClamp (x : XVal) (a : Int) : XVal :=
  match x with
  | .nan s => .nan s
  | .inf n => .fin n (2 ^ 191 - 1) a
  | .fin n m e => if 2 ^ 191 ≤ (cellUnits m e a).1 then .fin n (2 ^ 191 - 1) a else .fin n m e

end Sys2Proof.Machine
end

