-- ==== Sys2Proof/Machine/MatRead.lean ====
section
/-! DEFINITION. Matrix operand formats and the read schedule of the matrix engine (R140, R234, R242): which scratchpad
bytes an operation in flight reads on a cycle, and through which ports. -/

namespace Sys2Proof.Machine

/-- The element type of a format code (R111, R140). -/
def fmtTy : Nat → ETy
  | 0 => .f32 | 1 => .f16 | 2 => .bf16 | 3 => .e4m3 | 4 => .e5m2 | 5 => .e3m2 | 6 => .e2m3 | 7 => .e2m1
  | 8 => .s8 | 9 => .z8 | 10 => .s4 | 11 => .s8 | 12 => .e4m3 | 13 => .e5m2 | 14 => .e3m2 | 15 => .e2m3
  | 16 => .e2m1 | _ => .s4

/-- Block formats carry a scale byte for each 32 codes (R140, R143). -/
def fmtBlock (f : Nat) : Bool := decide (11 ≤ f)
/-- Container bits of a code. -/
def fmtBits (f : Nat) : Nat := (fmtTy f).cw
/-- The integer formats of profile 3: INT8, UINT8, INT4 (R161). -/
def fmtInteger (f : Nat) : Bool := f == 8 || f == 9 || f == 10

/-- Code bytes of one band image (R234). -/
def bandCode (f : Nat) : Nat := 512 * fmtBits f
/-- Bytes of one band image (R234). -/
def bandImage (f : Nat) : Nat := bandCode f + if fmtBlock f then 128 else 0

/-- Elements stored for K elements: whole blocks in a block format. -/
def storedElems (f k : Nat) : Nat := if fmtBlock f then roundUp k 32 else k
/-- Code bytes and scale bytes of K elements in a row (R143, R240). -/
def rowCode (f k : Nat) : Nat := cdiv (storedElems f k * fmtBits f) 8
def rowScale (f k : Nat) : Nat := if fmtBlock f then cdiv k 32 else 0
/-- P of R240. -/
def rowPitch (f k : Nat) : Nat := roundUp (rowCode f k + rowScale f k) 64

/-- K of an MMUL (R236). -/
def mmulK (sparse : Bool) (bands : List Nat) : Nat := (if sparse then 64 else 32) * bands.length

/-- Steps of an MVEC. -/
def mvecSteps (k : Nat) : Nat := cdiv k 32
/-- Cycles over which the vector of an MVEC is read (R242). -/
def mvecVec (f k : Nat) : Nat := cdiv (rowCode f k) 4096
/-- Cycles over which an MLDW reads its codes (R238). -/
def mldwCycles (f nbands : Nat) : Nat := cdiv (nbands * bandCode f) 2048

/-- Reads of one cycle: code bytes through ports, and bytes over the engine port, route tables apart; activations and weights
apart. -/
structure Reads where
  ma : Bool
  mb : Bool
  /-- Code ranges through the ports: start, length. -/
  codes : List (Nat × Nat)
  extra : List (Nat × Nat)
  routes : List (Nat × Nat)
  /-- The bytes belong to the weights. -/
  weights : Bool
  deriving DecidableEq, Repr

/-- The columns that one cycle of an MLDW covers, as code, scale and route ranges (R234, R235, R238). -/
def mldwReads (op : MatOp) (j : Nat) : Reads :=
  let cb := bandCode op.fmtW
  let total := op.bands.length * cb
  let lo := 2048 * j
  let n := min 2048 (total - lo)
  let r := lo / cb
  let o := lo % cb
  let img := op.sa + r * bandImage op.fmtW
  let perCol := cb / 128
  let c0 := o / perCol
  let cols := n / perCol
  let first : List (Nat × Nat) := if fmtBlock op.fmtW then [(img + cb + c0, cols)] else []
  let second : List (Nat × Nat) := if op.sb = 0 then [] else [(op.sb + 1024 * r + 8 * c0, 8 * cols)]
  ⟨false, true, [(img + o, n)], first, second, true⟩

/-- What an operation in flight reads on a cycle (R242). -/
def MatOp.reads (op : MatOp) (now : Nat) : Option Reads :=
  let dt := now - op.issue
  if now ≤ op.issue then none
  else
    match op.kind with
    | .mmul =>
      let i := (dt - 1) / op.cadence
      if (dt - 1) % op.cadence = 0 ∧ i < op.rows then
        let k := mmulK op.plane.sparse op.bands
        let a := op.sa + i * rowPitch op.fmtA k
        some ⟨true, false, [(a, rowCode op.fmtA k)],
          if fmtBlock op.fmtA then [(a + rowCode op.fmtA k, rowScale op.fmtA k)] else [], [], false⟩
      else none
    | .mvec =>
      let m := mvecVec op.fmtA op.k
      if dt ≤ m then
        let n := rowCode op.fmtA op.k
        let lo := 4096 * (dt - 1)
        let perScale := 32 * fmtBits op.fmtA / 8
        some ⟨true, true, [(op.sb + lo, min 4096 (n - lo))],
          if fmtBlock op.fmtA then [(op.sb + n + lo / perScale, cdiv (min 4096 (n - lo)) perScale)] else [], [], false⟩
      else if 5 ≤ dt ∧ (dt - 5) % op.cadence = 0 ∧ (dt - 5) / op.cadence < mvecSteps op.k then
        let a := op.sa + (dt - 5) / op.cadence * bandImage op.fmtW
        some ⟨true, true, [(a, bandCode op.fmtW)],
          if fmtBlock op.fmtW then [(a + bandCode op.fmtW, 128)] else [], [], true⟩
      else none
    | .mldw => if dt ≤ op.rows then some (mldwReads op (dt - 1)) else none
    | .drain | .mzero => none

/-- Bank rows of a byte range (R169). -/
def rangeRows (r : Nat × Nat) : List Nat :=
  if r.2 = 0 then [] else (List.range ((r.1 + r.2 - 1) / 64 - r.1 / 64 + 1)).map (fun i => r.1 / 64 + i)

/-- The bank of a row. -/
def bankOf (row : Nat) : Nat := row % 64

/-- Matrix operations in flight on a tile, of every context. -/
def State.tileOps (s : State) (t : Nat) : List MatOp := [0, 1, 2, 3].flatMap (fun p => (s.ctx (144 * p + t)).matOps)

/-- Banks whose MA (or MB) port a matrix read holds on a cycle (R243). -/
def State.heldOn (s : State) (t now : Nat) (mb : Bool) : List Nat :=
  (s.tileOps t).flatMap (fun op =>
    match op.reads now with
    | none => []
    | some r => if (if mb then r.mb else r.ma) then (r.codes.flatMap rangeRows).map bankOf else [])

/-- The banks held so on this cycle. -/
def State.heldBanks (s : State) (t : Nat) (mb : Bool) : List Nat := s.heldOn t s.cycle mb

/-- Bytes of a range copied from a scratchpad into what an operation has taken. -/
def takeRange (sp got : Memory) (r : Nat × Nat) : Memory :=
  (List.range r.2).foldl (fun g i => mwrite g (r.1 + i) (mread sp (r.1 + i))) got

/-- The array takes in a row of an MMUL or a step of an MVEC on this cycle: one operation of the activity meters (R313). -/
def MatOp.streams (op : MatOp) (now : Nat) : Bool :=
  match op.reads now with
  | none => false
  | some r =>
    match op.kind with
    | .mmul => true
    | .mvec => r.weights
    | _ => false

/-- An operation takes the bytes it reads on this cycle (R196). -/
def MatOp.take (op : MatOp) (sp : Memory) (now : Nat) : MatOp :=
  match op.reads now with
  | none => op
  | some r =>
    let rs := r.codes ++ r.extra
    if r.weights then { op with gotW := rs.foldl (takeRange sp) op.gotW, gotR := r.routes.foldl (takeRange sp) op.gotR }
    else { op with gotA := rs.foldl (takeRange sp) op.gotA }

end Sys2Proof.Machine
end

