-- ==== Sys2Proof/Machine/Scratch.lean ====
section
/-! DEFINITION. Local accesses of MA and MB: loads, stores, the vector forms, the scratchpad atomics and VCSQ (R169 to
R173, R263, R264, R341 to R344, R385, R386, R418, R419, R436, R437, R448 to R453). Every fault of a word is tested
before anything performs, in the order of its table. -/

namespace Sys2Proof.Machine

/-- A scratchpad address in the form of R229, for EADDR (R272). -/
def spEaddr (a : Int) : Nat := 2 ^ 63 + (a % 2 ^ 63).toNat

/-! ### Engine addresses (R229) -/

/-- Bit [63] of an engine address chooses this tile's scratchpad. -/
def engIsSp (a : Nat) : Bool := tbit a 63
/-- The scratchpad address of one; bits [62:22] stay in it, so that a nonzero one lies out of range. -/
def engSp (a : Nat) : Nat := a % 2 ^ 63

/-! ### Checks -/

/-- A byte range lies in the scratchpad and in the assignment of the context's region (R169, R300). -/
def Ctx.spOk (x : Ctx) (a : Int) (n : Nat) : Bool :=
  decide ((x.spLo : Int) ≤ a ∧ a + n ≤ (x.spHi : Int) ∧ 0 ≤ a ∧ a + n ≤ (Config.spBytes : Int))

/-- The first range that does not. -/
def Ctx.spBad (x : Ctx) (rs : List (Int × Nat)) : Option Int := (rs.find? (fun r => !x.spOk r.1 r.2)).map (·.1)

/-- Rows of a list of ranges. -/
def rowsOfRanges (rs : List (Nat × Nat)) : List Nat := (rs.flatMap rangeRows).eraseDups

/-- A bank is reserved by an atomic or VCSQ of this or the last two cycles (R263). -/
def State.reserved (s : State) (t bank : Nat) : Bool :=
  (s.tile t).resv.any (fun r => r.1 == bank && decide (s.cycle ≤ r.2))

/-- An access of the slot in hand meets a reserved bank or a port that a matrix read holds (R243, R263). A word that reserves
a bank meets a matrix read on either port. -/
def State.collides (s : State) (both : Bool) (rows : List Nat) : Bool :=
  let t := tileOf s.issue.ctx
  let mb := s.issue.slot == .mb
  let held := s.heldBanks t mb ++ if both then s.heldBanks t (!mb) else []
  rows.any (fun r => s.reserved t (bankOf r) || held.contains (bankOf r))

/-- An operation in flight reads a bank on one of the two cycles after this one, for which a word that reserves the bank would hold it
(R263). R343 and R437 name only a read on the cycle itself; that the word which would reserve the bank raises 0x102 for the later two
as well, and not the matrix word, which has issued, is the model's reading (log 68). -/
def State.readSoon (s : State) (bank : Nat) : Bool :=
  let t := tileOf s.issue.ctx
  [s.cycle + 1, s.cycle + 2].any (fun now => (s.heldOn t now false ++ s.heldOn t now true).contains bank)

/-- Of words with an uncorrectable error, one is read (R173). -/
def eccRead (bad : List Nat) (rs : List (Nat × Nat)) : Bool :=
  bad.any (fun w => rs.any (fun r => decide (r.1 < 8 * w + 8 ∧ 8 * w < r.1 + r.2)))

/-- Of words with an uncorrectable error, one is written only in part (R419, R452). -/
def eccWrite (bad : List Nat) (addrs : List Nat) : Bool :=
  bad.any (fun w => addrs.any (fun a => a / 8 == w) && !(List.range 8).all (fun i => addrs.contains (8 * w + i)))

/-- Of words with an uncorrectable error that are written only in part, one lies in some ranges. -/
def eccStore (bad : List Nat) (addrs : List Nat) (rs : List (Nat × Nat)) : Bool :=
  eccRead (bad.filter (fun w => eccWrite [w] addrs)) rs

/-- The first of some ranges that is off an alignment (R171). -/
def offAlign (n : Nat) (rs : List (Int × Nat)) : Option Int := (rs.find? (fun r => decide (r.1 % (n : Int) ≠ 0))).map (·.1)

/-- The address of the first of some ranges that breaks a rule by itself, else of the first one, in the form of R229: the faulting
address of R272, which says no more of an access with several addresses (log 68). -/
def faultAt (rs : List (Int × Nat)) (p : List (Nat × Nat) → Bool) : Nat :=
  spEaddr (((rs.find? (fun r => p [(r.1.toNat, r.2)])).map (·.1)).getD (rs.headD (0, 0)).1)

/-- Some 64-bit word of the tile that is read has an uncorrectable error (R173). -/
def Tile.eccRead (t : Tile) (rs : List (Nat × Nat)) : Bool := Machine.eccRead t.bad rs

/-- The address, in the form of R229, of the first word with an uncorrectable error that some ranges read: of the first range
that meets one, the lowest word (R173, R272). -/
def Tile.firstBad (t : Tile) (rs : List (Nat × Nat)) : Option Nat :=
  rs.findSome? (fun r => ((t.bad.filter (fun w => Machine.eccRead [w] [r])).map (fun w => max (8 * w) r.1)).min?.map
    (fun (a : Nat) => spEaddr a))

/-- Checks shared by every local access: range, alignment, banks, errors as they stood before the bundle (R386, R452); then
go on. `off` is the first address off its alignment; `both` is set for a word that reserves its bank. EADDR is the address that breaks
the rule: a lane's, the pointer's or that of the data of VCSQ (R272, log 68). -/
def State.localCheck (s : State) (rs : List (Int × Nat)) (off : Option Int) (both : Bool) (bank : List (Nat × Nat) → Bool)
    (ecc : List (Nat × Nat) → Bool) (k : State → State) : State :=
  match s.cx.spBad rs with
  | some a => s.raise 0x100 (spEaddr a)
  | none =>
    let rn := rs.map (fun r => (r.1.toNat, r.2))
    let taken := fun rn => bank rn || s.collides both (rowsOfRanges rn)
    match off with
    | some a => s.raise 0x101 (spEaddr a)
    | none =>
      if taken rn then s.raise 0x102 (faultAt rs taken)
      else if ecc rn then s.raise 0x103 (faultAt rs ecc)
      else k s

/-! ### Updates of this tile's scratchpad that are still to come (R200) -/

/-- An MACCD into this tile will still update a byte. -/
def DrainRec.updates (d : DrainRec) (a : Nat) : Bool :=
  d.accd && engIsSp d.base && d.rows.any (fun r =>
    let lo := (engSp d.base : Int) + r.1 * d.stride
    decide (lo ≤ (a : Nat) ∧ (a : Nat) < lo + 512))

/-- A KIND 4 record onto this tile will still update a byte. -/
def CopyRec.updates (r : CopyRec) (a : Nat) : Bool :=
  r.kind == 4 && r.dloc == .sp && decide (r.dst ≤ a ∧ a < r.dst + if r.wide then 8 else 4)

/-- The first store to a byte is the one that counts. -/
def addKept (ks : List Kept) (k : Kept) : List Kept := if ks.any (fun q => q.at' == k.at') then ks else ks ++ [k]

/-- A store of the context takes a byte: every update that it has pushed before and that has not performed keeps what the byte held,
since no record reads a store that its context issued after the push (R200). -/
def Ctx.keepByte (x : Ctx) (k : Kept) : Ctx :=
  { x with drains := x.drains.map (fun d => if d.updates k.at' then { d with kept := addKept d.kept k } else d)
           recs := x.recs.map (fun r => if r.updates k.at' then { r with kept := addKept r.kept k } else r) }

/-- A store takes bytes of a scratchpad. -/
def Ctx.keepBytes (x : Ctx) (sp : Memory) (now : Nat) (addrs : List Nat) : Ctx :=
  addrs.foldl (fun x a => x.keepByte ⟨a, mread sp a, now, true⟩) x

/-- Some update of this tile's scratchpad is still to come. -/
def Ctx.updating (x : Ctx) : Bool :=
  x.drains.any (fun d => d.accd && engIsSp d.base) || x.recs.any (fun r => r.kind == 4 && r.dloc == .sp)

/-- Room in the gate for the rows of a list of byte addresses, or 0x104 (R280). -/
def State.gateRows (s : State) (addrs : List Nat) (k : State → State) : State :=
  let x := s.cx
  let fresh := (rowsOf addrs).filter (fun r => !x.rows.any (fun g => g.row == r))
  if Config.gateMax < x.gateUse + fresh.length then s.raise 0x104 (spEaddr (addrs.headD 0 : Nat)) else k s

/-- Store bytes of this bundle: gate rows with prior bytes, the bytes, errors that whole words rewrite, and what updates that the
context has pushed before keep of them (R200, R280, R419). -/
def State.storeBytes (s : State) (bs : List (Nat × Byte)) : State :=
  s.gateRows (bs.map (·.1)) fun s =>
    let x := s.cx
    let t := s.tl
    let rows := bs.foldl (fun rows b => rowAdd t.sp rows b.1) x.rows
    let sp := bs.foldl (fun m b => mwrite m b.1 b.2) t.sp
    let addrs := bs.map (·.1)
    let bad := t.bad.filter (fun w => !(List.range 8).all (fun i => addrs.contains (8 * w + i)))
    let x := if x.updating then x.keepBytes t.sp s.cycle addrs else x
    (s.setCx { x with rows := rows }).setTl { t with sp := sp, bad := bad }

/-- Bytes of a value from an address. -/
def bytesAt (a n v : Nat) : List (Nat × Byte) := (List.range n).map (fun i => (a + i, BitVec.ofNat 8 (v / 2 ^ (8 * i))))

/-! ### LD and ST -/

/-- The value a load leaves in its register (R385). -/
def loadValue (t : LdTy) (v : Nat) : Word :=
  if t.isSigned then BitVec.ofInt 64 (sextN (8 * t.bytes) v) else BitVec.ofNat 64 v

/-- R385, R386: the bytes are read on t, as they stood before the bundle; the value lands on t + 5. -/
def execLd (t : LdTy) (d b : SReg) (off : BitVec 12) (s : State) : Res :=
  let a := s.addr b off.toInt t.bytes
  .next (s.localCheck [(a, t.bytes)] (offAlign t.bytes [(a, t.bytes)]) false (fun _ => false) (eccRead s.issue.bad0) fun s =>
    s.writeS 5 d (loadValue t (readLE s.issue.sp0 a.toNat t.bytes)))

/-- R418, R419: the low bytes of the register are stored on t. -/
def execSt (w : Width) (d b : SReg) (off : BitVec 9) (_col : Colour) (s : State) : Res :=
  let a := s.addr b off.toInt w.bytes
  .next (s.localCheck [(a, w.bytes)] (offAlign w.bytes [(a, w.bytes)]) false (fun _ => false)
    (eccStore s.issue.bad0 ((List.range w.bytes).map (a.toNat + ·)))
    fun s => s.storeBytes (bytesAt a.toNat w.bytes (s.rs d).toNat))

/-! ### Scratchpad atomics -/

/-- The scratchpad atomics (R341). -/
inductive AOp where
  | add | min | max | and | or | xor | swap | cas
  deriving DecidableEq, Repr

/-- The new value of an atomic, in `n` bits; none when nothing is written (R341, R342). -/
def atomicNew (op : AOp) (n : Nat) (u : Bool) (old opnd cmp : Nat) : Option Nat :=
  let lt := fun x y => if u then decide (x < y) else decide (sextN n x < sextN n y)
  match op with
  | .add => some ((old + opnd) % 2 ^ n)
  | .min => some (if lt opnd old then opnd else old)
  | .max => some (if lt old opnd then opnd else old)
  | .and => some (old &&& opnd)
  | .or => some (old ||| opnd)
  | .xor => some (old ^^^ opnd)
  | .swap => some opnd
  | .cas => if old = cmp then some opnd else none

/-- Reserve a bank for this cycle and the two after it (R263). -/
def State.reserve (s : State) (bank : Nat) : State :=
  let t := s.tl
  s.setTl { t with resv := t.resv.filter (fun r => decide (s.cycle ≤ r.2)) ++ [(bank, s.cycle + 2)] }

/-- A row that a bundle touches without writing a byte of it takes its gate entry too (R342). -/
def State.gateTouch (s : State) (a : Nat) : State :=
  s.gateRows [a] fun s =>
    let x := s.cx
    if x.rows.any (fun g => g.row == a / 64) then s else s.setCx { x with rows := x.rows ++ [⟨a / 64, 0, 0⟩] }

/-- An atomic (R342): the read and the write are one access on t; the gate takes the row whether or not it writes; the
old value lands on t + 5. -/
def State.atomic (s : State) (op : AOp) (d a b : SReg) (w u : Bool) : State :=
  let n := if w then 64 else 32
  let ad : Int := ((s.rs a).toNat : Nat)
  let mb := s.issue.mbBanks
  s.localCheck [(ad, n / 8)] (offAlign (n / 8) [(ad, n / 8)]) true
    (fun rs => (rowsOfRanges rs).any (fun r => mb.contains (bankOf r) || s.readSoon (bankOf r)))
    (fun _ => eccRead s.issue.bad0 [(64 * (ad.toNat / 64), 64)]) fun s =>
    let old := readLE s.issue.sp0 ad.toNat (n / 8)
    let s := match atomicNew op n u old ((s.rs b).toNat % 2 ^ n) ((s.rs d).toNat % 2 ^ n) with
      | some new => s.storeBytes (bytesAt ad.toNat (n / 8) new)
      | none => s.gateTouch ad.toNat
    let s := s.writeS 5 d (if w then BitVec.ofNat 64 old else if u then BitVec.ofNat 64 old
      else BitVec.ofInt 64 (sextN 32 old))
    s.reserve (bankOf (ad.toNat / 64))

/-- R341 to R344. -/
def execAadd (d a b : SReg) (w : Bool) (_col : Colour) (s : State) : Res := .next (s.atomic .add d a b w false)
/-- R341 to R344. -/
def execAmin (d a b : SReg) (w u : Bool) (_col : Colour) (s : State) : Res := .next (s.atomic .min d a b w u)
/-- R341 to R344. -/
def execAmax (d a b : SReg) (w u : Bool) (_col : Colour) (s : State) : Res := .next (s.atomic .max d a b w u)
/-- R341 to R344. -/
def execAand (d a b : SReg) (w : Bool) (_col : Colour) (s : State) : Res := .next (s.atomic .and d a b w false)
/-- R341 to R344. -/
def execAor (d a b : SReg) (w : Bool) (_col : Colour) (s : State) : Res := .next (s.atomic .or d a b w false)
/-- R341 to R344. -/
def execAxor (d a b : SReg) (w : Bool) (_col : Colour) (s : State) : Res := .next (s.atomic .xor d a b w false)
/-- R341 to R344. -/
def execAswap (d a b : SReg) (w : Bool) (_col : Colour) (s : State) : Res := .next (s.atomic .swap d a b w false)
/-- R341 to R344. -/
def execAcas (d a b : SReg) (w : Bool) (_col : Colour) (s : State) : Res := .next (s.atomic .cas d a b w false)

/-! ### Vector accesses -/

/-- The ranges of VLD and VST: 256 bytes for each enabled cluster (R171, R449). -/
def State.vldRanges (s : State) (a : Int) : List (Int × Nat) := s.clusters.map (fun (c : Nat) => (a + 256 * c, 256))

/-- Lanes of VLDS and VSTS in lane order: cluster, element, address (R451). -/
def State.lanes (s : State) (b : SReg) (off : Int) (w : Width) : List (Nat × Nat × Int) :=
  let n := 256 / w.bytes
  let a := s.addr b off w.bytes
  let stride := (s.rs (b + 1)).toInt
  s.clusters.flatMap (fun c => (List.range n).map (fun i => (c, i, a + (n * c + i : Nat) * stride)))

/-- The rows of a strided access number at most 32, in distinct banks (R172). -/
def bankRule (rs : List (Nat × Nat)) : Bool :=
  let rows := rowsOfRanges rs
  decide (32 < rows.length) || decide ((rows.map bankOf).eraseDups.length < rows.length)

/-- R448, R449. -/
def execVld (d : VReg) (b : SReg) (off : BitVec 12) (s : State) : Res :=
  let a := s.addr b off.toInt 256
  .next (match s.clusters with
    | [] => s
    | cs => s.localCheck (s.vldRanges a) (offAlign 4 (s.vldRanges a)) false (fun _ => false) (eccRead s.issue.bad0) fun s =>
      cs.foldl (fun s' (c : Nat) => s'.writeV 6 d c (ones 2048) (readLE s.issue.sp0 (a + 256 * c).toNat 256))
        (s.needUndo (.v d.val)))

/-- R448, R449: one 64-byte block into every quarter. -/
def execVldb (d : VReg) (b : SReg) (off : BitVec 12) (s : State) : Res :=
  let a := s.addr b off.toInt 64
  .next (match s.clusters with
    | [] => s
    | cs => s.localCheck [(a, 64)] (offAlign 4 [(a, 64)]) false (fun _ => false) (eccRead s.issue.bad0) fun s =>
      let v := readLE s.issue.sp0 a.toNat 64
      cs.foldl (fun s' c => s'.writeV 6 d c (ones 2048) (v * (1 + 2 ^ 512 + 2 ^ 1024 + 2 ^ 1536)))
        (s.needUndo (.v d.val)))

/-- R448, R451. -/
def execVlds (w : Width) (d : VReg) (b : SReg) (off : BitVec 12) (s : State) : Res :=
  let ls := s.lanes b off.toInt w
  let rs := ls.map (fun l => (l.2.2, w.bytes))
  .next (match s.clusters with
    | [] => s
    | cs => s.localCheck rs (offAlign w.bytes rs) false bankRule
        (eccRead s.issue.bad0) fun s =>
      cs.foldl (fun s' c =>
        let v := (ls.filter (fun l => l.1 == c)).foldl (fun acc l =>
          acc + readLE s.issue.sp0 l.2.2.toNat w.bytes * 2 ^ (8 * w.bytes * l.2.1)) 0
        s'.writeV 8 d c (ones 2048) v) (s.needUndo (.v d.val)))

/-- The bytes of a masked vector store (R450): byte j of a cluster is stored when bit j of the mask is set. -/
def State.vstBytes (s : State) (k : Nat) (d : VReg) (a : Int) : List (Nat × Byte) :=
  s.clusters.flatMap (fun (c : Nat) => ((List.range 256).filter (fun j => tbit (s.rk k c) j)).map (fun (j : Nat) =>
    ((a + 256 * c).toNat + j, BitVec.ofNat 8 (s.rv d c / 2 ^ (8 * j)))))

/-- A masked vector store. -/
def State.vst (s : State) (k : Nat) (d : VReg) (b : SReg) (off : BitVec 9) : State :=
  let a := s.addr b off.toInt 256
  match s.clusters with
  | [] => s
  | _ =>
    let bs := s.vstBytes k d a
    s.localCheck (s.vldRanges a) (offAlign 4 (s.vldRanges a)) false (fun _ => false) (eccStore s.issue.bad0 (bs.map (·.1)))
      fun s => s.storeBytes bs

/-- R448, R450. -/
def execVstK0 (d : VReg) (b : SReg) (off : BitVec 9) (_col : Colour) (s : State) : Res := .next (s.vst 0 d b off)
/-- R448, R450. -/
def execVstK1 (d : VReg) (b : SReg) (off : BitVec 9) (_col : Colour) (s : State) : Res := .next (s.vst 1 d b off)
/-- R448, R450. -/
def execVstK2 (d : VReg) (b : SReg) (off : BitVec 9) (_col : Colour) (s : State) : Res := .next (s.vst 2 d b off)
/-- R448, R450. -/
def execVstK3 (d : VReg) (b : SReg) (off : BitVec 9) (_col : Colour) (s : State) : Res := .next (s.vst 3 d b off)

/-- The bytes of a strided vector store, lane by lane. -/
def State.vstsBytes (s : State) (d : VReg) (b : SReg) (off : Int) (w : Width) : List (Nat × Byte) :=
  (s.lanes b off w).flatMap (fun l => bytesAt l.2.2.toNat w.bytes (elem (s.rv d l.1) (8 * w.bytes) l.2.1))

/-- R448, R451: lanes are stored in lane order, so the higher stands. -/
def execVsts (w : Width) (d : VReg) (b : SReg) (off : BitVec 9) (_col : Colour) (s : State) : Res :=
  let rs := (s.lanes b off.toInt w).map (fun l => (l.2.2, w.bytes))
  .next (match s.clusters with
    | [] => s
    | _ =>
      let bs := s.vstsBytes d b off.toInt w
      s.localCheck rs (offAlign w.bytes rs) false bankRule (eccStore s.issue.bad0 (bs.map (·.1))) fun s => s.storeBytes bs)

/-! ### VCSQ (R264, R436, R437) -/

/-- The active elements of enabled clusters in order. -/
def State.squeeze (s : State) (a : VReg) (t : ETy) (k : KSel) : List Nat :=
  s.clusters.flatMap (fun c => ((List.range (eltCount t)).filter (active (s.rk k.val c) t.cw)).map (fun i =>
    elem (s.rv a c) t.cw i % 2 ^ t.valBits))

/-- Elements packed from the lowest bit up (R135). -/
def packElems (w : Nat) (cs : List Nat) : Nat := cs.foldr (fun c acc => c % 2 ^ w + 2 ^ w * acc) 0

/-- The bytes that VCSQ stores: the packed elements at the pointer, then the pointer moved past them. -/
def State.vcsqBytes (s : State) (a : VReg) (pa : Nat) (t : ETy) (k : KSel) : List (Nat × Byte) :=
  let es := s.squeeze a t k
  let n := cdiv (es.length * t.cw) 8
  let p := readLE s.issue.sp0 pa 8
  bytesAt p n (packElems t.cw es) ++ bytesAt pa 8 ((p + n) % 2 ^ 64)

/-- The ranges of VCSQ: the pointer and, once it is in range, the bytes it points at. -/
def State.vcsqRanges (s : State) (a : VReg) (pa : Int) (t : ETy) (k : KSel) : List (Int × Nat) :=
  let n := cdiv ((s.squeeze a t k).length * t.cw) 8
  (pa, 8) :: if s.cx.spOk pa 8 && n != 0 then [((readLE s.issue.sp0 pa.toNat 8 : Nat), n)] else []

/-- The address of VCSQ that is off its alignment: the pointer, else P, whatever it writes there (R437). -/
def State.vcsqOff (s : State) (pa : Int) (t : ETy) : Option Int :=
  let p := readLE s.issue.sp0 pa.toNat 8
  if pa % 8 ≠ 0 then some pa else if p % max 1 (t.cw / 8) ≠ 0 then some ((p : Nat) : Int) else none

/-- R436, R437. -/
def execVcsq (d : SReg) (a : VReg) (b : SReg) (t : ETy) (k : KSel) (s : State) : Res :=
  let pa : Int := ((s.rs b).toNat : Nat)
  let es := s.squeeze a t k
  let mb := s.issue.mbBanks
  .next (s.localCheck (s.vcsqRanges a pa t k) (s.vcsqOff pa t) true
    (fun rs => (rowsOfRanges rs).any (fun r => mb.contains (bankOf r))
      || (rs.any (fun r => r.1 == pa.toNat) && s.readSoon (bankOf (pa.toNat / 64))))
    (fun _ => eccRead s.issue.bad0 [(pa.toNat, 8)]) fun s =>
      let s := s.storeBytes (s.vcsqBytes a pa.toNat t k)
      let s := s.writeS 2 d (BitVec.ofNat 64 es.length)
      s.reserve (bankOf (pa.toNat / 64)))

/-! ### Banks of the MB word (R343, R437) -/

/-- Byte ranges that an MA or MB word other than an atomic touches. -/
def State.touched (s : State) : Instr → List (Int × Nat)
  | .ld t _ b off => [(s.addr b off.toInt t.bytes, t.bytes)]
  | .st w _ b off _ => [(s.addr b off.toInt w.bytes, w.bytes)]
  | .vld _ b off => s.vldRanges (s.addr b off.toInt 256)
  | .vldb _ b off => if s.clusters.isEmpty then [] else [(s.addr b off.toInt 64, 64)]
  | .vlds w _ b off => (s.lanes b off.toInt w).map (fun l => (l.2.2, w.bytes))
  | .vsts w _ b off _ => (s.lanes b off.toInt w).map (fun l => (l.2.2, w.bytes))
  | .vstK0 _ b off _ | .vstK1 _ b off _ | .vstK2 _ b off _ | .vstK3 _ b off _ =>
    s.vldRanges (s.addr b off.toInt 256)
  | _ => []

/-- The banks those ranges touch, as far as they exist. -/
def State.touchedBanks (s : State) (i : Instr) : List Nat :=
  ((s.touched i).filter (fun r => decide (0 ≤ r.1 ∧ r.1 + r.2 ≤ (Config.spBytes : Int)))).flatMap (fun r =>
    (rangeRows (r.1.toNat, r.2)).map bankOf)

end Sys2Proof.Machine
end

