-- ==== Sys2Proof/Machine/Translate.lean ====
section
/-! DEFINITION. The window table: entries, the lookup, the permissions and page types of each access, and the choice of
one fault among the parts of a record (R174 to R180, R188, R189, R226, R229). -/

namespace Sys2Proof.Machine

/-! ### Entries (R176) -/

def entKey (e : Nat) : Nat := bits e 0 7
def entPolicy (e : Nat) : Nat := bits e 7 2
def entState (e : Nat) : Nat := bits e 9 2
def entFallback (e : Nat) : Bool := tbit e 11
def entRoute (e : Nat) : Nat := bits e 12 2
def entType (e : Nat) : Nat := bits e 14 2
def entR (e : Nat) : Bool := tbit e 16
def entW (e : Nat) : Bool := tbit e 17
def entX (e : Nat) : Bool := tbit e 18
def entLsize (e : Nat) : Nat := bits e 19 5
/-- Address bits of a page: LSIZE 0 stands for 32. -/
def entSize (e : Nat) : Nat := if entLsize e = 0 then 32 else entLsize e
def entVbase (e : Nat) : Nat := bits e 24 40 * 2 ^ 16
def entPframe (e : Nat) : Nat := bits e 64 36 * 2 ^ 16
def entAnchor (e : Nat) : Int := sextN 9 (bits e 100 9)

/-- An entry matches an address (R178). -/
def entMatches (e va : Nat) : Bool :=
  decide (entState e ≠ 0 ∧ va < 2 ^ 56 ∧ va / 2 ^ entSize e = entVbase e / 2 ^ entSize e)

/-- The entry that maps an address. -/
def Ctx.pageOf (x : Ctx) (va : Nat) : Option Nat :=
  (x.window.find? (fun p => entMatches p.2.toNat va)).map (fun p => p.2.toNat)

/-- The physical address of a virtual one under its entry. -/
def entPhys (e va : Nat) : Nat := entPframe e + va % 2 ^ entSize e

/-! ### Accesses (R178, R179, R226) -/

/-- The kinds of access that R179 tells apart. -/
inductive Access where
  | copyRead | copyWrite | atomic | gather | cellAdd | cellInit | cellRaw | accum | addend | fetch
  deriving DecidableEq, Repr

/-- Permissions: read, write, overlay fetch. -/
def Access.perms : Access → Bool × Bool × Bool
  | .copyRead | .gather | .cellRaw | .addend => (true, false, false)
  | .copyWrite | .cellInit => (false, true, false)
  | .atomic | .cellAdd | .accum => (true, true, false)
  | .fetch => (false, false, true)

/-- The fault that a page TYPE (0 plain, 1 larder, 2 program, 3 cellar) raises for an access. -/
def Access.typeFault (a : Access) (ty : Nat) : Option Nat :=
  if ty = 3 then some 0x187
  else
    match a with
    | .copyRead => none
    | .fetch => if ty = 2 then none else some 0x182
    | .copyWrite | .atomic => if ty = 0 then none else if ty = 1 then some 0x18A else some 0x182
    | .gather => if ty = 0 then none else if ty = 1 then some 0x186 else some 0x182
    | .addend => if ty = 1 then some 0x186 else none
    | .cellAdd | .cellInit | .cellRaw => if ty = 1 then none else if ty = 0 then some 0x186 else some 0x182
    | .accum => if ty = 2 then some 0x182 else none

/-- The checks of R178 on a mapped page, transit included when the access is new. -/
def Access.check (a : Access) (e : Nat) : Option Nat :=
  let p := a.perms
  if (p.1 && !entR e) || (p.2.1 && !entW e) || (p.2.2 && !entX e) then some 0x181
  else
    match a.typeFault (entType e) with
    | some f => some f
    | none => if entState e = 2 then some 0x183 else none

/-! ### Parts (R189) -/

/-- The part of a range that lies in one page: address, length, entry; none where nothing maps it. -/
structure Part where
  va : Nat
  n : Nat
  ent : Option Nat
  deriving DecidableEq, Repr

/-- Split a range at page boundaries; an address that nothing maps ends the list. -/
def Ctx.splitParts (x : Ctx) : Nat → Nat → Nat → List Part
  | 0, _, _ => []
  | fuel + 1, va, n =>
    if n = 0 then []
    else
      match x.pageOf va with
      | none => [⟨va, n, none⟩]
      | some e =>
        let stop := (va / 2 ^ entSize e + 1) * 2 ^ entSize e
        let m := min n (stop - va)
        ⟨va, m, some e⟩ :: x.splitParts fuel (va + m) (n - m)

/-- The parts of a range at an exact address; one below zero maps nowhere. -/
def Ctx.parts (x : Ctx) (va : Int) (n : Nat) : List Part :=
  if va < 0 then (if n = 0 then [] else [⟨truncI 64 va, n, none⟩]) else x.splitParts 258 va.toNat n

/-- A fault found on a part: its place in the record's order, the cause and the address. -/
structure PartFault where
  pos : Nat
  code : Nat
  va : Nat
  deriving DecidableEq, Repr

/-- The fault of a part under an access. -/
def Part.fault (p : Part) (a : Access) (pos : Nat) : List PartFault :=
  match p.ent with
  | none => [⟨pos, 0x180, p.va⟩]
  | some e =>
    match a.check e with
    | some code => [⟨pos, code, p.va⟩]
    | none => []

/-- The fault that comes first in the record's order. -/
def firstFault : List PartFault → Option PartFault
  | [] => none
  | f :: fs =>
    match firstFault fs with
    | none => some f
    | some g => if g.pos < f.pos then some g else some f

/-- One fault among all: any other takes precedence over 0x183 (R189). -/
def pickFault (fs : List PartFault) : Option PartFault :=
  match firstFault (fs.filter (fun f => f.code != 0x183)) with
  | some f => some f
  | none => firstFault fs

/-- The bytes of a range before one of its parts; a range below zero is one part, whose address wraps (R229). -/
def Part.offset (p : Part) (va : Int) : Nat := if va < 0 then 0 else p.va - va.toNat

/-- The faults of a range, its stream position rising from `pos` by one for each `per` bytes. -/
def Ctx.rangeFaults (x : Ctx) (a : Access) (va : Int) (n pos per : Nat) : List PartFault :=
  (x.parts va n).flatMap (fun p => p.fault a (pos + p.offset va / per))

/-- Some part of a range lies on a larder page. -/
def Ctx.touchesLarder (x : Ctx) (va : Int) (n : Nat) : Bool :=
  (x.parts va n).any (fun p => match p.ent with | none => false | some e => entType e == 1)

end Sys2Proof.Machine
end

