-- ==== Sys2Proof/Machine/Home.lean ====
section
/-! DEFINITION. The homes of memory (R180 to R184, R207, R211, R306, R319, R320): the SLC before device memory, the attic
before host memory, and host memory itself. A record asks first for everything it still touches; it goes on once every key
fits, every sector is sound, every host copy has been called back, every attic line is held, every host read is answered
and every request has been admitted at its port of the SLC. -/

namespace Sys2Proof.Machine

/-! ### Device memory under its keys (R25, R182) -/

/-- The generation of a key that is in force: a number of its own for each. -/
def State.genOf (s : State) (key : Nat) : Nat := key + 128 * mgetD s.keyGen key 0

/-- The generation that a sector stands encrypted under and the one that it is decrypted with, where the two differ. -/
def State.foreign (s : State) (sec : Nat) : Option (Nat × Nat) :=
  match mfind s.seals (64 * sec / 2 ^ 21), mfind s.frameKey (64 * sec / 2 ^ 21) with
  | some z, some k =>
    let g := mgetD z.others sec z.base
    if g = s.genOf k then none else some (g, s.genOf k)
  | _, _ => none

/-- A byte of device memory as its frame's key gives it. -/
def State.devByte (s : State) (a : Nat) : Byte :=
  match s.foreign (a / 64) with
  | none => mread s.dev a
  | some (g, h) => Config.otherKey g h a (readLE s.dev (a / 64 * 64) 64)

/-- Units of 64 bytes that a range touches: sectors of device memory, lines of host memory. -/
def sectorsOf (pa n : Nat) : List Nat :=
  if n = 0 then [] else (List.range ((pa + n - 1) / 64 - pa / 64 + 1)).map (fun i => pa / 64 + i)

/-- Device memory with the sectors of a range as their frames' keys give them. -/
def State.text (s : State) (a n : Nat) : Memory :=
  if s.seals.isEmpty then s.dev
  else
    ((sectorsOf a n).filter (fun u => (s.foreign u).isSome)).foldl (fun d u =>
      (List.range 64).foldl (fun d i => mwrite d (64 * u + i) (s.devByte (64 * u + i))) d) s.dev

/-- A little-endian number in device memory. -/
def State.devLE (s : State) (a n : Nat) : Nat := readLE (s.text a n) a n

/-- A sector is about to be written: the whole of it then stands under the generation in force. -/
def State.claim (s : State) (sec : Nat) : State :=
  match s.foreign sec with
  | none => s
  | some (_, h) =>
    { s with dev := s.text (64 * sec) 64
             seals := mmodify s.seals (64 * sec / 2 ^ 21) (fun z => { z with others := mput z.others sec h }) }

/-- The sectors of a range are about to be written. -/
def State.claimRange (s : State) (a n : Nat) : State :=
  if s.seals.isEmpty then s else (sectorsOf a n).foldl State.claim s

/-! ### What a part still needs -/

/-- A sector of device memory that a record touches: its key, the policy of its page, and whether it is written. -/
structure Touch where
  sec : Nat
  key : Nat
  policy : Nat
  write : Bool
  deriving DecidableEq, Repr

/-- What stands between a record and the memory it touches: a fault with its address, sectors to call back from the host
with whether to invalidate, attic lines still to come with whether ownership is needed, and whether a host read must be
answered; with them every sector and every attic line that it touches. -/
structure Need where
  fault : Option (Nat × Nat)
  snoops : List (Nat × Bool)
  touches : List Touch
  lines : List (Nat × Bool)
  reach : List Nat
  answer : Bool
  deriving DecidableEq, Repr

def Need.none : Need := ⟨.none, [], [], [], [], false⟩

/-- Needs of two parts in order: the first fault stands. -/
def Need.join (a b : Need) : Need :=
  ⟨match a.fault with | .none => b.fault | some f => some f, a.snoops ++ b.snoops, a.touches ++ b.touches,
    a.lines ++ b.lines, a.reach ++ b.reach, a.answer || b.answer⟩

def Need.all (ns : List Need) : Need := ns.foldl Need.join .none

/-- The carve-out that only the scheduler cores reach (R332). -/
def State.inCarveOut (s : State) (sec : Nat) : Bool :=
  match s.fwrange with
  | none => false
  | some (lo, hi) => decide (lo < 64 * sec + 64 ∧ 64 * sec < hi)

/-- The tag of a sector that the SLC holds is a key. -/
def State.tagFits (s : State) (key sec : Nat) : Bool :=
  match mfind s.slc sec with
  | none => false
  | some q => q.key == key

/-- The key check of R183: the tag of a sector held, else the frame-key map. The carve-out fits no key (log 9). -/
def State.keyFits (s : State) (key sec : Nat) : Bool :=
  !s.inCarveOut sec && (s.tagFits key sec || mfind s.frameKey (64 * sec / 2 ^ 21) == some key)

/-- What one sector of device memory needs for an access under a key and a policy. -/
def State.sectorNeed (s : State) (key policy : Nat) (read write : Bool) (va sec : Nat) : Need :=
  if !s.keyFits key sec then { Need.none with fault := some (0x184, va) }
  else if read && s.poison.contains sec then { Need.none with fault := some (0x185, va) }
  else
    let sn := match mfind s.snoop sec with
      | none => []
      | some excl => if write || excl then [(sec, write)] else []
    { Need.none with snoops := sn, touches := [⟨sec, key, policy, write⟩] }

/-- The link carries CXL.cache (R317). -/
def State.cxlUp (s : State) : Bool := s.linkUp && decide (s.linkRate = 64000)

/-- What one attic line needs: any state for a read, E or M for a write (R320). -/
def State.lineNeed (s : State) (write : Bool) (va ln : Nat) : Need :=
  match mfind s.attic ln with
  | some l => { Need.none with lines := if write && l.st == .s then [(ln, true)] else [], reach := [ln] }
  | none =>
    if !s.cxlUp then { Need.none with fault := some (0x304, va) } else { Need.none with lines := [(ln, write)], reach := [ln] }

/-- The address at which a range from `va`, at physical address `pa`, enters a 64-byte unit. -/
def unitVa (va pa unit : Nat) : Nat := va + (64 * unit - pa)

/-- What a part of a record needs for reading, writing or both. -/
def State.partNeed (s : State) (read write : Bool) (p : Part) : Need :=
  match p.ent with
  | none => { Need.none with fault := some (0x180, p.va) }
  | some e =>
    let pa := entPhys e p.va
    match entRoute e with
    | 0 => Need.all ((sectorsOf pa p.n).map (fun u => s.sectorNeed (entKey e) (entPolicy e) read write (unitVa p.va pa u) u))
    | 1 => if !s.linkUp then { Need.none with fault := some (0x304, p.va) } else { Need.none with answer := read }
    | _ => Need.all ((sectorsOf pa p.n).map (fun u => s.lineNeed write (unitVa p.va pa u) u))

/-- What a virtual range of a context needs. -/
def State.rangeNeed (s : State) (x : Ctx) (read write : Bool) (va : Int) (n : Nat) : Need :=
  Need.all ((x.parts va n).map (s.partNeed read write))

/-- Does the need hold a record back? -/
def Need.holds (nd : Need) (answered : Bool) : Bool := !nd.snoops.isEmpty || !nd.lines.isEmpty || (nd.answer && !answered)

/-- The policy of the device page of a context that maps a physical address: normal where none does. -/
def Ctx.policyAt (x : Ctx) (pa : Nat) : Nat :=
  (((x.window.map (·.2.toNat)).find? (fun e => entState e != 0 && entRoute e == 0
    && decide (entPframe e ≤ pa ∧ pa < entPframe e + 2 ^ entSize e))).map entPolicy).getD 0

/-- The sectors of physical ranges of device memory that a launch unit reads or a tile writes for a context, under the keys of
their frames (R293, R295, R330). -/
def State.physTouches (s : State) (x : Ctx) (write : Bool) (rs : List (Nat × Nat)) : List Touch :=
  (rs.flatMap (fun r => sectorsOf r.1 r.2)).filterMap (fun u =>
    (mfind s.frameKey (64 * u / 2 ^ 21)).map (fun k => ⟨u, k, x.policyAt (64 * u), write⟩))

/-! ### The ports of the SLC (R190, R191) -/

/-- The requests that sectors make: one for each 128-byte line, with its slice and the sectors it names. -/
def requestsOf (us : List Nat) : List PortReq :=
  let secs := us.eraseDups
  ((secs.map (· / 2)).eraseDups).map (fun l => ⟨Config.sliceOf l % 32, secs.filter (fun u => u / 2 == l)⟩)

/-- The ticket of a record of a context. -/
def State.ticketOf (s : State) (c : Nat) (seq : Option Nat) : Option Ticket := s.tickets.find? (fun k => k.ctx == c && k.seq == seq)

/-- Every request of the record has been admitted. -/
def State.admitted (s : State) (c : Nat) (seq : Option Nat) (nd : Need) : Bool :=
  nd.touches.isEmpty || (match s.ticketOf c seq with
    | some k => k.reqs.isEmpty
    | none => false)

/-- Requests for sectors join the queues at the ports, once. -/
def State.enqueueAs (s : State) (c : Nat) (seq : Option Nat) (cls : Nat) (us : List Nat) : State :=
  if us.isEmpty || (s.ticketOf c seq).isSome then s else { s with tickets := s.tickets ++ [⟨c, seq, cls, requestsOf us⟩] }

/-- The requests of a record join the queues at the ports, once. -/
def State.enqueue (s : State) (c : Nat) (seq : Option Nat) (nd : Need) : State :=
  s.enqueueAs c seq (s.ctx c).cls (nd.touches.map (·.sec))

def State.dropTicket (s : State) (c : Nat) (seq : Option Nat) : State :=
  { s with tickets := s.tickets.filter (fun k => !(k.ctx == c && k.seq == seq)) }

/-! ### Requests -/

/-- Ask the host for a sector back, once (R319). -/
def State.askBack (s : State) (sn : Nat × Bool) : State :=
  match mfind s.backInv sn.1 with
  | some b =>
    if sn.2 && !b.invalidate then { s with backInv := mput s.backInv sn.1 { b with invalidate := true } }.tell (.backInvalidate sn.1 true)
    else s
  | none => { s with backInv := mput s.backInv sn.1 ⟨sn.2, s.cycle⟩ }.tell (.backInvalidate sn.1 sn.2)

/-- The bytes of a range are void: what the host holds of them is called back, and a sector that it held exclusive comes back without
data, as a write to a frame that is no longer the tenant's is dropped (R318, R319; log 2). -/
def State.voidCopies (s : State) (a n : Nat) : State :=
  let hit := s.snoop.filter (fun p => decide (a ≤ 64 * p.1 ∧ 64 * p.1 < a + n))
  hit.foldl (fun (s : State) p => { s.askBack (p.1, true) with snoop := mput s.snoop p.1 false }) s

/-- The caches let go of a frame that another key, or a new generation of its key, now serves: host copies are called back, and the
SLC writes its sectors back and gives them up, but for pinned ones, which it fills anew under the frame's key (R184, R319). -/
def State.flushFrame (s : State) (frame key : Nat) : State :=
  let a := frame * 2 ^ 21
  { s.voidCopies a (2 ^ 21) with
    slc := s.slc.filterMap (fun (q : Nat × Sector) =>
      if !decide (a ≤ 64 * q.1 ∧ 64 * q.1 < a + 2 ^ 21) then some q
      else if q.2.pinned.isSome then some (q.1, { q.2 with key := key, dirty := false })
      else none) }

/-- What the bytes of an assigned frame stand under is noted before its key, its binding or its assignment changes. -/
def State.sealFrame (s : State) (frame : Nat) : State :=
  match mfind s.seals frame, mfind s.frameKey frame with
  | none, some k => { s with seals := mput s.seals frame ⟨s.genOf k, []⟩ }
  | _, _ => s

/-- Firmware assigns a frame to a key. Its bytes stay encrypted as they are: those under another key read as opaque bytes, and as
themselves again once the frame has their key again (R25, R182, R183; log 2). -/
def State.assignFrame (s : State) (frame key : Nat) : State :=
  let s := s.sealFrame frame
  let same : Bool := match mfind s.frameKey frame with
    | some k => k == key
    | none => decide (mfind s.seals frame = none ∨ mfind s.seals frame = some ⟨s.genOf key, []⟩)
  { (if same then s else s.flushFrame frame key) with frameKey := mput s.frameKey frame key }

/-- Firmware marks a frame unassigned: its bytes stay as they are (R183). -/
def State.unassignFrame (s : State) (frame : Nat) : State := { s.sealFrame frame with frameKey := merase s.frameKey frame }

/-- The frames that are assigned to a key which a test names. -/
def State.framesUnder (s : State) (p : Nat → Bool) : List Nat := (s.frameKey.filter (fun f => p f.2)).map (·.1)

/-- A key is bound to a tenant, or to none: unless it was bound so, it is generated anew or destroyed, and what was encrypted under the
old one never reads as itself again (R25, R335). -/
def State.bindKey (s : State) (key : Nat) (fn : Option Nat) : State :=
  let s := if mfind s.keys key = fn then s
    else
      let s := (s.framesUnder (· == key)).foldl (fun (s : State) f => (s.sealFrame f).flushFrame f key) s
      { s with keyGen := mput s.keyGen key (mgetD s.keyGen key 0 + 1) }
  { s with keys := match fn with
      | some f => mput s.keys key f
      | none => merase s.keys key }

/-- A list with one more member, without repeats. -/
def withMember (xs : List Nat) (x : Nat) : List Nat := if xs.contains x then xs else xs ++ [x]

/-- Ask the host for a line on behalf of a tenant (R320). -/
def State.askLine (s : State) (fn : Nat) (ln : Nat × Bool) : State :=
  let q := mgetD s.atticReq ln.1 ⟨false, []⟩
  { s with atticReq := mput s.atticReq ln.1 ⟨ln.2 || q.own, withMember q.fns fn⟩ }

/-- Send the requests of a record that waits. -/
def State.ask (s : State) (fn : Nat) (nd : Need) : State :=
  nd.lines.foldl (fun (s : State) l => s.askLine fn l) (nd.snoops.foldl State.askBack s)

/-- Some range touches a sector. -/
def within (rs : List (Nat × Nat)) (sec : Nat) : Bool := rs.any (fun r => decide (r.1 < 64 * sec + 64 ∧ 64 * sec < r.1 + r.2))

/-- Host copies in a range. -/
def State.hostCopies (s : State) (a n : Nat) : List Nat := (s.snoop.filter (fun p => within [(a, n)] p.1)).map (·.1)

/-- What has to come home before the scheduler cores or a launch unit read ranges of device memory: what the host holds in A,
and sectors on which a write of firmware still waits (R319). -/
def State.homeNeed (s : State) (rs : List (Nat × Nat)) : Need :=
  { Need.none with snoops := (s.snoop.filter (fun p => p.2 && within rs p.1)).map (fun p => (p.1, false))
      ++ ((s.fwPend.filter (fun p => within rs (p.1 / 64))).map (fun p => (p.1 / 64, true))).eraseDups }

/-- Nothing of some ranges has to come home. -/
def State.isHome (s : State) (rs : List (Nat × Nat)) : Bool := (s.homeNeed rs).snoops.isEmpty

/-- Go on once some ranges are home; ask the host for them until then. -/
def State.withHome (s : State) (rs : List (Nat × Nat)) (k : State → State) : State :=
  if s.isHome rs then k s else s.ask 0 (s.homeNeed rs)

/-- Sectors pinned by a tenant, and by all. -/
def State.pins (s : State) (fn : Nat) : Nat := (s.slc.filter (fun p => p.2.pinned == some fn)).length
def State.pinsAll (s : State) : Nat := (s.slc.filter (fun p => p.2.pinned.isSome)).length

/-- The device limit on pinned sectors: 64 MiB (R184). -/
def pinMax : Nat := 1048576

/-- A line of the SLC as replacement sees it (R184): its number, whether a sector of it is pinned, whether all are stream
sectors, and the cycle of its last use. -/
structure SlcLine where
  line : Nat
  pinned : Bool
  stream : Bool
  used : Nat
  deriving DecidableEq, Repr

/-- The lines that the SLC holds. -/
def slcLinesOf (slc : AMap Sector) : List SlcLine :=
  ((slc.map (·.1 / 2)).eraseDups).map (fun l =>
    let qs := (slc.filter (fun p => p.1 / 2 == l)).map (·.2)
    ⟨l, qs.any (·.pinned.isSome), qs.all (·.policy == 1), qs.foldl (fun m q => max m q.used) 0⟩)

/-- The least recently used of some lines. -/
def lruOf : List SlcLine → Option SlcLine
  | [] => none
  | l :: ls =>
    match lruOf ls with
    | none => some l
    | some m => if m.used < l.used then some m else some l

/-- Which of some lines leaves: a stream line first, else the least recently used; never a pinned one (R184). -/
def slcVictim (ls : List SlcLine) : Option SlcLine :=
  let free := ls.filter (fun l => !l.pinned)
  match lruOf (free.filter (·.stream)) with
  | some l => some l
  | none => lruOf free

/-- The SLC with room for a line in its set: none where every line of the set is pinned (log 55). -/
def slcRoom (slc : AMap Sector) (line : Nat) : Option (AMap Sector) :=
  let others := (slcLinesOf slc).filter (fun l => l.line != line)
  let set := others.filter (fun l => Config.slcSet l.line == Config.slcSet line)
  let victim := fun ls => (slcVictim ls).map (fun v => slc.filter (fun p => p.1 / 2 != v.line))
  if others.length < (slcLinesOf slc).length then some slc
  else if Config.slcMoreWays + 1 ≤ set.length then victim set
  else if Config.slcLines ≤ others.length then victim others
  else some slc

/-- The SLC after a use of a sector: a hit is the sector's latest use and carries the key that was checked; a miss takes
the sector in, evicting a line where its set is full (R22, R183, R184). -/
def slcUse (slc : AMap Sector) (now : Nat) (t : Touch) (pin : Option Nat) : AMap Sector :=
  match mfind slc t.sec with
  | some q => mput slc t.sec { q with key := t.key, dirty := q.dirty || t.write, used := now }
  | none =>
    match slcRoom slc (t.sec / 2) with
    | some m => mput m t.sec ⟨t.key, if t.policy = 2 ∧ pin = none then 0 else t.policy, pin, t.write, now⟩
    | none => slc

/-- A sector is used under the policy of its page; a resident fill beyond the quota or the device limit is held as normal
(R184). -/
def State.fill (s : State) (fn : Nat) (t : Touch) : State :=
  let room := decide (t.policy = 2 ∧ s.pins fn < (s.tenant fn).pinQuota ∧ s.pinsAll < pinMax)
  { s with slc := slcUse s.slc s.cycle t (if room then some fn else none) }

/-- A tenant's pages reach an attic line (R321). -/
def State.reachLine (s : State) (fn ln : Nat) : State :=
  { s with attic := mmodify s.attic ln (fun l => { l with tenants := withMember l.tenants fn }) }

/-- What a record's use of memory leaves in the SLC and the attic. -/
def State.fillAll (s : State) (fn : Nat) (nd : Need) : State :=
  nd.reach.foldl (fun (s : State) ln => s.reachLine fn ln) (nd.touches.foldl (fun (s : State) t => s.fill fn t) s)

/-! ### Bytes of host memory (R180, R320, R321) -/

/-- One byte of a line. -/
def lineByte (d i : Nat) : Byte := BitVec.ofNat 8 (d / 2 ^ (8 * i))
/-- A line with one byte replaced. -/
def lineSet (d i : Nat) (b : Byte) : Nat := d - d / 2 ^ (8 * i) % 256 * 2 ^ (8 * i) + b.toNat * 2 ^ (8 * i)

/-- Host memory as the host keeps it coherent: a dirty line of the attic stands over it. -/
def State.hostByte (s : State) (a : Nat) : Byte :=
  match mfind s.attic (a / 64) with
  | some l => lineByte l.data (a % 64)
  | none => mread s.hostMem a

/-- Write a dirty line back to host memory. -/
def State.writeBack (s : State) (ln : Nat) (l : Line) : State :=
  if l.st = .m then { s with hostMem := writeLE s.hostMem (64 * ln) 64 l.data } else s

/-- The attic gives up a line: DirtyEvict or CleanEvict (R320). -/
def State.dropLine (s : State) (ln : Nat) : State :=
  match mfind s.attic ln with
  | none => s
  | some l =>
    let s := s.writeBack ln l
    ({ s with attic := merase s.attic ln }).tell (.evictLine ln l.data (l.st == LineSt.m))

/-- A write into an attic line held in E or M. -/
def State.atticSet (s : State) (fn a : Nat) (b : Byte) : State :=
  match mfind s.attic (a / 64) with
  | none => s
  | some l => { s with attic := mput s.attic (a / 64) ⟨.m, lineSet l.data (a % 64) b, withMember l.tenants fn⟩ }

/-- The attic answers a snoop of the host; an invalidating one takes the line (R320). -/
def State.snooped (s : State) (ln : Nat) (invalidate : Bool) : State :=
  match mfind s.attic ln with
  | none => s.tell (.snoopMiss ln)
  | some l =>
    let s := (s.writeBack ln l).tell (.snoopData ln l.data (l.st == LineSt.m))
    { s with attic := if invalidate then merase s.attic ln else mput s.attic ln { l with st := .s } }

/-- A write that reaches host memory from outside the attic; the host calls a line of the attic back first. -/
def State.hostSet (s : State) (a : Nat) (b : Byte) : State :=
  let s := if (mfind s.attic (a / 64)).isSome then s.snooped (a / 64) true else s
  { s with hostMem := mwrite s.hostMem a b }

/-! ### Bytes of the virtual space, once nothing is needed -/

/-- Read a byte. -/
def State.vread (s : State) (x : Ctx) (va : Nat) : Byte :=
  match x.pageOf va with
  | none => blank
  | some e => if entRoute e = 0 then s.devByte (entPhys e va) else s.hostByte (entPhys e va)

/-- Write a byte. -/
def State.vwrite (s : State) (x : Ctx) (va : Nat) (b : Byte) : State :=
  match x.pageOf va with
  | none => s
  | some e =>
    let pa := entPhys e va
    match entRoute e with
    | 0 => let s := s.claim (pa / 64); { s with dev := mwrite s.dev pa b }
    | 1 => s.hostSet pa b
    | _ => s.atticSet x.tenant pa b

/-- A little-endian value of the virtual space, from its lowest byte up. -/
def State.vreadLE (s : State) (x : Ctx) (va : Nat) : Nat → Nat
  | 0 => 0
  | n + 1 => (s.vread x va).toNat + 256 * s.vreadLE x (va + 1) n

def State.vwriteLE (s : State) (x : Ctx) (va : Nat) : Nat → Nat → State
  | 0, _ => s
  | n + 1, v => (s.vwrite x va (BitVec.ofNat 8 v)).vwriteLE x (va + 1) n (v / 256)

/-- Sectors that a write covers whole lose their poison (R181). -/
def State.cure (s : State) (pa n : Nat) : State :=
  { s with poison := s.poison.filter (fun sec => !decide (pa ≤ 64 * sec ∧ 64 * sec + 64 ≤ pa + n)) }

/-- Cure the sectors of device pages that a virtual write covers whole. -/
def State.vcure (s : State) (x : Ctx) (va : Int) (n : Nat) : State :=
  (x.parts va n).foldl (fun s p => match p.ent with
    | none => s
    | some e => if entRoute e = 0 then s.cure (entPhys e p.va) p.n else s) s

/-- The route of the page that maps an address. -/
def Ctx.routeOf (x : Ctx) (va : Nat) : Nat :=
  match x.pageOf va with
  | none => 0
  | some e => entRoute e

/-- A range touches a host-io page. -/
def Ctx.touchesIo (x : Ctx) (va : Int) (n : Nat) : Bool :=
  (x.parts va n).any (fun p => match p.ent with | none => false | some e => entRoute e == 1)

/-! ### Cells -/

/-- The cell at a virtual address and the anchor of its page (R217). -/
def State.cellAt (s : State) (x : Ctx) (va : Nat) : Cell := .ofNat (s.vreadLE x va 32)
def Ctx.anchorAt (x : Ctx) (va : Nat) : Int :=
  match x.pageOf va with
  | none => 0
  | some e => entAnchor e

/-- One addition to the cell at an address. -/
def State.cellPlus (s : State) (x : Ctx) (va : Nat) (v : XVal) : State :=
  s.vwriteLE x va 32 ((s.cellAt x va).add v (x.anchorAt va)).toNat

end Sys2Proof.Machine
end

