-- ==== Sys2Proof/Machine/Flags.lean ====
section
/-! DEFINITION. Conditions: the truth of CMP into a q register and of VCMP into a k register. The numeric flags of
VSTAT are computed with the results, in Float.lean. -/

namespace Sys2Proof.Machine

/-- The conditions of CMP (R99, R357). -/
def condTrue (c : Cond) (a b : Word) : Bool :=
  match c with
  | .eq => a == b
  | .ne => a != b
  | .lt => a.slt b
  | .ge => !a.slt b
  | .ltu => a.ult b
  | .geu => !a.ult b
  | .bit => a &&& b != 0#64

/-- The float conditions of VCMP (R435). -/
def vcondFloat (c : VCond) (a b : XVal) : Bool × Flags :=
  let nan := a.isNan || b.isNan
  let sig := flagIf (a.isSnan || b.isSnan) fINV
  let ord := flagIf nan fINV
  match c with
  | .eq => (!nan && xeq a b, sig)
  | .ne => (nan || !xeq a b, sig)
  | .lt => (!nan && xlt a b && !xeq a b, ord)
  | .ge => (!nan && !(xlt a b && !xeq a b), ord)
  | .le => (!nan && (xlt a b || xeq a b), ord)
  | .gt => (!nan && !(xlt a b || xeq a b), ord)
  | .un => (nan, sig)

/-- The integer conditions of VCMP (R435). -/
def vcondInt (c : VCond) (a b : Int) : Bool :=
  match c with
  | .eq => a == b
  | .ne => a != b
  | .lt => decide (a < b)
  | .ge => decide (b ≤ a)
  | .le => decide (a ≤ b)
  | .gt => decide (b < a)
  | .un => false

end Sys2Proof.Machine
end

