-- ==== Sys2Proof/Machine/Vector.lean ====
section
/-! DEFINITION. The vector words of VA, VB and VC, but for conversion and quantisation, and the mask words of VC
(R424 to R435, R440, R441, R445 to R447, R454 to R459, R380, R381). -/

namespace Sys2Proof.Machine

/-- A latency that depends on whether the type is a float (R89). -/
def fpLat (t : ETy) (fl il : Nat) : Nat := if t.isF then fl else il

/-- The float format of a type of F; only F types reach it. -/
def fmtOf (t : ETy) : FFmt := (ffmt t).getD F32

/-- A float element operation: exact result, rounded once (R138). -/
def floatOp2 (t : ETy) (g : XVal → XVal → XVal × Flags) (a b : Nat) : Nat × Flags :=
  let f := fmtOf t
  let r := g (decodeFloat f a) (decodeFloat f b)
  let q := roundArith f r.1
  (q.1, r.2 ||| q.2)

/-- A float operation of one operand. -/
def floatOp1 (t : ETy) (g : XVal → XVal) (a : Nat) : Nat × Flags :=
  let f := fmtOf t
  let x := decodeFloat f a
  ((roundArith f (g x)).1, flagIf x.isSnan fINV)

/-- An integer element operation that wraps (R430). -/
def intOp2 (t : ETy) (g : Int → Int → Int) (a b : Nat) : Nat × Flags :=
  (truncI t.cw (g (intVal t a) (intVal t b)), 0#5)

/-- A word with two sources whose float and integer forms differ. -/
def State.arith2 (s : State) (d a b : VReg) (t : ETy) (k : KSel) (lf li : Nat)
    (gf : XVal → XVal → XVal × Flags) (gi : Int → Int → Int) : State :=
  s.vecLoop (fpLat t lf li) d t k (fun c i =>
    let x := elem (s.rv a c) t.cw i
    let y := elem (s.rv b c) t.cw i
    if t.isF then floatOp2 t gf x y else intOp2 t gi x y)

/-- A word with one source whose float and integer forms differ. -/
def State.arith1 (s : State) (d a : VReg) (t : ETy) (k : KSel) (gf : XVal → XVal) (gi : Int → Int) : State :=
  s.vecLoop (fpLat t 3 2) d t k (fun c i =>
    let x := elem (s.rv a c) t.cw i
    if t.isF then floatOp1 t gf x else intOp2 t (fun p _ => gi p) x 0)

/-- R428. -/
def execVadd (d a b : VReg) (t : ETy) (k : KSel) (s : State) : Res :=
  .next (s.arith2 d a b t k 3 2 xadd (· + ·))

/-- R428; a - b is the addition of a and -b (R138). -/
def execVsub (d a b : VReg) (t : ETy) (k : KSel) (s : State) : Res :=
  .next (s.arith2 d a b t k 3 2 (fun x y => xadd x y.negate) (· - ·))

/-- R428. -/
def execVmul (d a b : VReg) (t : ETy) (k : KSel) (s : State) : Res :=
  .next (s.arith2 d a b t k 3 2 xmul (· * ·))

/-- R428, R429. -/
def execVmin (d a b : VReg) (t : ETy) (k : KSel) (s : State) : Res :=
  .next (s.arith2 d a b t k 3 2 xmin min)

/-- R428, R429. -/
def execVmax (d a b : VReg) (t : ETy) (k : KSel) (s : State) : Res :=
  .next (s.arith2 d a b t k 3 2 xmax max)

/-- R428 to R430. -/
def execVabs (d a : VReg) (t : ETy) (k : KSel) (s : State) : Res :=
  .next (s.arith1 d a t k XVal.magnitude (fun x => if x < 0 then -x else x))

/-- R428 to R430. -/
def execVneg (d a : VReg) (t : ETy) (k : KSel) (s : State) : Res :=
  .next (s.arith1 d a t k XVal.negate (fun x => -x))

/-- R445: rounded once from the exact value. -/
def execVfma (d a b : VReg) (t : ETy) (k : KSel) (s : State) : Res :=
  .next (s.vecLoop 4 d t k (fun c i =>
    let f := fmtOf t
    let x := fun r => decodeFloat f (elem (s.rv r c) t.cw i)
    let r := xfma (x a) (x b) (x d)
    let q := roundArith f r.1
    (q.1, r.2 ||| q.2)))

/-- A bitwise element operation (R431). -/
def State.logic2 (s : State) (d a b : VReg) (t : ETy) (k : KSel) (g : Nat → Nat → Nat) : State :=
  s.vecPure 2 d t k (fun c i => g (elem (s.rv a c) t.cw i) (elem (s.rv b c) t.cw i))

/-- R431. -/
def execVand (d a b : VReg) (t : ETy) (k : KSel) (s : State) : Res := .next (s.logic2 d a b t k (· &&& ·))
/-- R431. -/
def execVor (d a b : VReg) (t : ETy) (k : KSel) (s : State) : Res := .next (s.logic2 d a b t k (· ||| ·))
/-- R431. -/
def execVxor (d a b : VReg) (t : ETy) (k : KSel) (s : State) : Res := .next (s.logic2 d a b t k (· ^^^ ·))

/-- R431, R432: the count is taken modulo the width. -/
def execVshl (d a b : VReg) (t : ETy) (k : KSel) (s : State) : Res :=
  .next (s.logic2 d a b t k (fun x c => x * 2 ^ (c % t.cw) % 2 ^ t.cw))
/-- R431, R432. -/
def execVshr (d a b : VReg) (t : ETy) (k : KSel) (s : State) : Res :=
  .next (s.logic2 d a b t k (fun x c => x / 2 ^ (c % t.cw)))
/-- R431, R432: copies of the top bit enter whatever the signedness. -/
def execVsra (d a b : VReg) (t : ETy) (k : KSel) (s : State) : Res :=
  .next (s.logic2 d a b t k (fun x c => truncI t.cw (sextN t.cw x / (2 ^ (c % t.cw) : Nat))))

/-- R458: every element is written; active ones take a, the others b. -/
def execVsel (d a b : VReg) (t : ETy) (k : KSel) (s : State) : Res :=
  .next (s.vecImages 2 d (fun c => imageOf (eltCount t) t.cw (fun _ => true) (fun i =>
    (elem (s.rv (if active (s.rk k.val c) t.cw i then a else b) c) t.cw i % 2 ^ t.valBits, 0#5))))

/-- R433: min (max (vd, va), vb). -/
def execVclamp (d a b : VReg) (t : ETy) (k : KSel) (s : State) : Res :=
  .next (s.vecLoop (fpLat t 3 2) d t k (fun c i =>
    let e := fun r => elem (s.rv r c) t.cw i
    if t.isF then
      let f := fmtOf t
      let m := xmax (decodeFloat f (e d)) (decodeFloat f (e a))
      let r := xmin m.1 (decodeFloat f (e b))
      ((roundArith f r.1).1, m.2 ||| r.2)
    else (truncI t.cw (min (max (intVal t (e d)) (intVal t (e a))) (intVal t (e b))), 0#5)))

/-- The exact total of VDOT for 32-bit element `j` (R441). -/
def dotTotal (t : ETy) (acc va vb j : Nat) : Int :=
  (List.range (32 / t.cw)).foldl (fun sum m =>
    sum + intVal t (elem va t.cw (32 / t.cw * j + m)) * intVal t (elem vb t.cw (32 / t.cw * j + m)))
    (intVal .s32 (elem acc 32 j))

/-- R440, R441. -/
def execVdot (d a b : VReg) (t : ETy) (k : KSel) (s : State) : Res :=
  .next (s.vecLoop 4 d .s32 k (fun c j =>
    let v := dotTotal t (s.rv d c) (s.rv a c) (s.rv b c) j
    if v < intLo .s32 then (truncI 32 (intLo .s32), fSAT)
    else if intHi .s32 < v then (truncI 32 (intHi .s32), fSAT)
    else (truncI 32 v, 0#5)))

/-! ### Reductions (R167, R456, R457) -/

/-- A running exact sum with the specials of R162: NaN met, both infinities, signalling NaN met. -/
structure SumAcc where
  nan : Bool
  snan : Bool
  pinf : Bool
  ninf : Bool
  sum : XVal
  deriving DecidableEq, Repr

/-- The empty sum of R167 and R160: -0, so that elements that are all -0 sum to -0, which R167 leaves open (log 65). -/
def SumAcc.start : SumAcc := ⟨false, false, false, false, .fin true 0 0⟩

def SumAcc.add (s : SumAcc) (x : XVal) : SumAcc :=
  match x with
  | .nan sig => { s with nan := true, snan := s.snan || sig }
  | .inf n => if n then { s with ninf := true } else { s with pinf := true }
  | .fin _ _ _ => { s with sum := (xadd s.sum x).1 }

/-- The value of a sum and its flags (R162, R167). -/
def SumAcc.value (s : SumAcc) : XVal × Flags :=
  let both := s.pinf && s.ninf
  if s.nan || both then (.nan false, flagIf (s.snan || both) fINV)
  else if s.pinf then (.inf false, 0#5)
  else if s.ninf then (.inf true, 0#5)
  else (s.sum, 0#5)

/-- Round a sum into a type. -/
def SumAcc.round (f : FFmt) (s : SumAcc) : Nat × Flags :=
  let v := s.value
  let q := roundArith f v.1
  (q.1, v.2 ||| q.2)

/-- One rounded addition, on patterns (R138). -/
def addRound (f : FFmt) (a b : Nat) : Nat × Flags :=
  let r := xadd (decodeFloat f a) (decodeFloat f b)
  let q := roundArith f r.1
  (q.1, r.2 ||| q.2)

/-- One level of the pairwise tree of R160. -/
def treeLevel (f : FFmt) : List Nat → List Nat × Flags
  | a :: b :: rest =>
    let r := addRound f a b
    let q := treeLevel f rest
    (r.1 :: q.1, r.2 ||| q.2)
  | xs => (xs, 0#5)

/-- The pairwise tree, `lv` levels. -/
def treeSum (f : FFmt) : Nat → List Nat → Nat × Flags
  | 0, xs => (xs.headD 0, 0#5)
  | lv + 1, xs =>
    let l := treeLevel f xs
    let r := treeSum f lv l.1
    (r.1, l.2 ||| r.2)

/-- The prefixes of a fold, each rendered. -/
def scanWith {σ : Type} (step : σ → Nat → σ) (out : σ → Nat × Flags) : σ → List Nat → List (Nat × Flags)
  | _, [] => []
  | acc, x :: xs => let acc' := step acc x; out acc' :: scanWith step out acc' xs

/-- The pattern of the identity of an operation (R457). -/
def identity (op : RedOp) (t : ETy) : Nat :=
  match op with
  | .add | .or | .xor => 0
  | .and => ones t.cw
  | .min => if t.isF then infBits (fmtOf t) false else truncI t.cw (intHi t)
  | .max => if t.isF then infBits (fmtOf t) true else truncI t.cw (intLo t)

/-- One step of an operation other than float add, on patterns. -/
def redStep (op : RedOp) (t : ETy) (a b : Nat) : Nat × Flags :=
  match op with
  | .add => (truncI t.cw (intVal t a + intVal t b), 0#5)
  | .min => if t.isF then floatOp2 t xmin a b else intOp2 t min a b
  | .max => if t.isF then floatOp2 t xmax a b else intOp2 t max a b
  | .and => (a &&& b, 0#5)
  | .or => (a ||| b, 0#5)
  | .xor => (a ^^^ b, 0#5)

/-- A pattern with the flags gathered on the way to it. -/
def redAcc (op : RedOp) (t : ETy) (acc : Nat × Flags) (x : Nat) : Nat × Flags :=
  let r := redStep op t acc.1 x
  (r.1, acc.2 ||| r.2)

/-- Every prefix reduction of the elements that take part, with its flags. -/
def prefixes (op : RedOp) (t : ETy) (prof : Nat) (xs : List Nat) : List (Nat × Flags) :=
  if t.isF && op == .add then
    let f := fmtOf t
    if prof = 2 then
      scanWith (fun (acc : Nat × Flags) x => let r := addRound f acc.1 x; (r.1, acc.2 ||| r.2)) id (0, 0#5) xs
    else scanWith (fun (acc : SumAcc) x => acc.add (decodeFloat f x)) (SumAcc.round f) .start xs
  else scanWith (redAcc op t) id (identity op t, 0#5) xs

/-- The reduction of all elements. -/
def reduceAll (op : RedOp) (t : ETy) (prof : Nat) (xs : List Nat) : Nat × Flags :=
  if t.isF && op == .add then
    let f := fmtOf t
    if prof = 2 then treeSum f (bitLen (eltCount t) - 1) xs
    else SumAcc.round f (xs.foldl (fun acc x => acc.add (decodeFloat f x)) .start)
  else xs.foldl (redAcc op t) (identity op t, 0#5)

/-- The elements of a register, those that do not take part replaced by the identity. -/
def takePart (op : RedOp) (t : ETy) (v k : Nat) : List Nat :=
  (List.range (eltCount t)).map (fun i => if active k t.cw i then elem v t.cw i else identity op t)

/-- R456, R457: element 0 takes the reduction, every other element zero. -/
def execVred (d a : VReg) (op : RedOp) (t : ETy) (k : KSel) (s : State) : Res :=
  .next (s.vecImages 7 d (fun c =>
    let r := reduceAll op t s.issue.prof (takePart op t (s.rv a c) (s.rk k.val c))
    ⟨ones 2048, r.1 % 2 ^ t.cw, r.2⟩))

/-- R456, R457: element i takes the reduction of elements 0 to i. -/
def execVscan (d a : VReg) (op : RedOp) (t : ETy) (k : KSel) (s : State) : Res :=
  .next (s.vecImages 7 d (fun c =>
    let rs := prefixes op t s.issue.prof (takePart op t (s.rv a c) (s.rk k.val c))
    ⟨ones 2048, rs.foldr (fun r acc => r.1 % 2 ^ t.cw + 2 ^ t.cw * acc) 0, rs.foldl (fun f r => f ||| r.2) 0#5⟩))

/-! ### Moving elements -/

/-- R455. -/
def execVperm (d a b : VReg) (t : ETy) (k : KSel) (s : State) : Res :=
  .next (s.vecPure 3 d t k (fun c i =>
    let x := elem (s.rv b c) t.cw i
    let j := if t.cw = 4 then 16 * (i / 16) + x else x % eltCount t
    elem (s.rv a c) t.cw j % 2 ^ t.valBits))

/-- R454. -/
def execVsplat (d : VReg) (a : SReg) (t : ETy) (k : KSel) (s : State) : Res :=
  .next (s.vecPure 2 d t k (fun _ _ => (s.rs a).toNat % 2 ^ t.valBits))

/-- R454. -/
def execVmov (d a : VReg) (t : ETy) (k : KSel) (s : State) : Res :=
  .next (s.vecPure 2 d t k (fun c i => elem (s.rv a c) t.cw i % 2 ^ t.valBits))

/-- R459: the source cluster is read whether or not it is enabled. -/
def execVxch (d a : VReg) (dist : Fin 8) (t : ETy) (k : KSel) (s : State) : Res :=
  .next (s.vecPure 8 d t k (fun c i => elem (s.rv a (c ^^^ dist.val)) t.cw i % 2 ^ t.valBits))

/-- The cluster and element that VGET and VPUT reach (R447), and whether the word performs. -/
def State.reach (s : State) (b : SReg) (t : ETy) (k : KSel) : Nat × Nat × Bool :=
  let e := (s.rs b).toNat % (8 * eltCount t)
  let c := e / eltCount t
  let i := e % eltCount t
  (c, i, s.issue.cmask.getLsbD c && active (s.rk k.val c) t.cw i)

/-- R446, R447. -/
def execVget (d : SReg) (a : VReg) (b : SReg) (t : ETy) (k : KSel) (s : State) : Res :=
  let r := s.reach b t k
  let x := elem (s.rv a r.1) t.cw r.2.1 % 2 ^ t.valBits
  .next (if r.2.2 then s.writeS 4 d (if t.signed then BitVec.ofInt 64 (sextN t.cw x) else BitVec.ofNat 64 x) else s)

/-- R446, R447. -/
def execVput (d : VReg) (a b : SReg) (t : ETy) (k : KSel) (s : State) : Res :=
  let r := s.reach b t k
  .next (if r.2.2 then (s.needUndo (.v d.val)).writeV 2 d r.1 (ones t.cw * 2 ^ (t.cw * r.2.1))
      ((s.rs a).toNat % 2 ^ t.valBits * 2 ^ (t.cw * r.2.1)) else s)

/-! ### Comparison and masks -/

/-- R434, R435. -/
def execVcmp (vc : VCond) (d : KReg) (a b : VReg) (t : ETy) (k : KSel) (s : State) : Res :=
  .next (s.maskLoop (fpLat t 3 2) d t k (fun c i =>
    let x := elem (s.rv a c) t.cw i
    let y := elem (s.rv b c) t.cw i
    if t.isF then vcondFloat vc (elemVal t x) (elemVal t y) else (vcondInt vc (intVal t x) (intVal t y), 0#5)))

/-- A mask word: every enabled cluster computes all 256 bits (R380). -/
def State.maskWord (s : State) (d : KReg) (f : Nat → Nat) : State :=
  match s.clusters with
  | [] => s
  | cs => cs.foldl (fun s' c => s'.writeK 2 d c (ones 256) (f c)) (if d.val = 0 then s else s.needUndo (.k d.val))

/-- R380. -/
def execKand (d a b : KReg) (s : State) : Res := .next (s.maskWord d (fun c => s.rk a.val c &&& s.rk b.val c))
/-- R380. -/
def execKor (d a b : KReg) (s : State) : Res := .next (s.maskWord d (fun c => s.rk a.val c ||| s.rk b.val c))
/-- R380. -/
def execKxor (d a b : KReg) (s : State) : Res := .next (s.maskWord d (fun c => s.rk a.val c ^^^ s.rk b.val c))
/-- R380. -/
def execKnot (d a : KReg) (s : State) : Res := .next (s.maskWord d (fun c => ones 256 - s.rk a.val c))

/-- R381: with CMASK zero the word does not perform. -/
def execKpopc (d : SReg) (a : KReg) (s : State) : Res :=
  .next (match s.clusters with
    | [] => s
    | cs => s.writeS 2 d (BitVec.ofNat 64 (cs.map (fun c => (setBits 256 (s.rk a.val c)).length)).sum))

/-- R381. -/
def execKfirst (d : SReg) (a : KReg) (s : State) : Res :=
  .next (match s.clusters with
    | [] => s
    | cs => s.writeS 2 d (BitVec.ofNat 64 ((cs.flatMap (fun c => (setBits 256 (s.rk a.val c)).map (256 * c + ·))).headD 2048)))

end Sys2Proof.Machine
end

