-- ==== Sys2Proof/Machine/VectorConv.lean ====
section
/-! DEFINITION. Conversion, quantisation of blocks, dequantisation and the special functions (R144 to R149, R153 to
R155, R371, R438, R439, R442 to R444), with the generator of stochastic rounding (R146). -/

namespace Sys2Proof.Machine

/-- rotl64 of R146. -/
def rotl64 (v n : Nat) : Nat := v * 2 ^ n % 2 ^ 64 ||| v / 2 ^ (64 - n)

/-- One round of the generator. -/
def srRound (k : Nat) (xy : Nat × Nat) (i : Nat) : Nat × Nat :=
  let x := (xy.1 + xy.2) % 2 ^ 64
  let y := rotl64 xy.2 23 ^^^ x
  let x := x * 0x9F3B52C16E8DA47B % 2 ^ 64
  let x := x ^^^ x / 2 ^ 29
  (x, (y + k + i) % 2 ^ 64)

/-- The 24-bit draw of R146. -/
def srbits (seed pc s e loop : Nat) : Nat :=
  let x := (pc / 4 + s * 2 ^ 30 + e * 2 ^ 34) % 2 ^ 64 ^^^ seed
  let y := (loop + rotl64 seed 32) % 2 ^ 64
  let r := (List.range 4).foldl (srRound seed) (x, y)
  (r.1 ^^^ r.2) / 2 ^ 40 % 2 ^ 24

/-- The draw for an element of the bundle in hand, slot number `n` (R146). -/
def State.draw (s : State) (n e : Nat) : Nat :=
  srbits s.cx.srseed.toNat s.issue.pc.toNat n e s.cx.loopc0.toNat

/-- One element of VCVT (R439). -/
def cvtElem (mode : RMode) (iov : Bool) (ts td : ETy) (u x : Nat) : Nat × Flags :=
  if ts = td ∧ ts.isInt then (x, 0#5) else convert td mode u iov ts.isInt (elemVal ts x)

/-- R438, R439. -/
def execVcvt (mode : RMode) (d a : VReg) (iov : Bool) (ts t : ETy) (k : KSel) (s : State) : Res :=
  .next (s.vecImages 3 d (fun c =>
    imageOf (min (eltCount ts) (eltCount t)) t.cw (active (s.rk k.val c) t.cw) (fun i =>
      cvtElem mode iov ts t (s.draw 4 (512 * c + i)) (elem (s.rv a c) ts.cw i))))

/-! ### Blocks (R140 to R143, R153 to R155) -/

/-- The magnitudes of AQ4 code sets with a sign bit, in units of 2^-3: types 0b10 and 0b11 (R142). -/
def aqMags (aty : Nat) : List Nat := if aty = 2 then [0, 1, 2, 4, 8, 16, 32, 64] else [0, 8, 16, 24, 32, 48, 64, 96]

/-- The value of a code of a block whose scale byte is given (R140 to R142). -/
def codeVal (kind : Nat) (ty : ETy) (scale code : Nat) : XVal :=
  if scale = 0xFF then .nan false
  else if kind = 0 then
    let v := if ty = .s8 then (elemVal .s8 code).scale (-6) else elemVal ty code
    v.scale ((scale : Int) - 127)
  else
    let aty := scale / 64
    let v := match aty with
      | 0 => elemVal .s4 code
      | 1 => elemVal .e2m1 code
      | _ => .fin (tbit code 3) ((aqMags aty).getD (code % 8) 0) (-3)
    v.scale ((scale % 64 : Nat) - 32 : Int)

/-- Round onto a list of magnitudes in units of 2^-3 by R144 and R145: index and whether it differs. Above the list the
last index stands. -/
def roundList (mags : List Nat) (mode : RMode) (u : Nat) (neg : Bool) (m : Nat) (e : Int) : Nat × Bool :=
  let q := min e (-3)
  let v := m * 2 ^ (e - q).toNat
  let unit := 2 ^ (-3 - q).toNat
  let i := (mags.filter (fun g => decide (g * unit ≤ v))).length - 1
  let lo := mags.getD i 0 * unit
  if lo = v then (i, false)
  else if mags.length ≤ i + 1 then (i, true)
  else
    let gap := mags.getD (i + 1) 0 * unit - lo
    let r := v - lo
    let up := match mode with
      | .rne => decide (gap < 2 * r ∨ (2 * r = gap ∧ i % 2 = 1))
      | .rtz => false
      | .rdn => neg
      | .rup => !neg
      | .sr => if neg then !decide (u < (gap - r) * 2 ^ 24 / gap) else decide (u < r * 2 ^ 24 / gap)
    (if up then i + 1 else i, true)

/-- Codes of a block: what a scaled finite value rounds to, as (code, inexact, clamped, beyond a float code's range). That an
AQ4 element above the largest code counts as clamped where the mode rounds it to that code is the model's choice (log 65). -/
def roundCode (kind aty : Nat) (ty : ETy) (mode : RMode) (u : Nat) (neg : Bool) (m : Nat) (e : Int) :
    Nat × Bool × Bool × Bool :=
  let above := fun (top : Nat) (q : Int) => xlt (.fin false top q) (.fin false m e)
  let signed := fun (lim q w : Nat) =>
    let r := roundMag mode u neg m e (-(q : Int))
    let beyond := above lim (-(q : Int))
    let n := min r.1 lim
    ((if neg then (2 ^ w - n) % 2 ^ w else n), r.2.1 || beyond, beyond, false)
  let float := fun (f : FFmt) =>
    let r := roundGrid f mode u neg m e
    let beyond := match decodeFloat f (maxMag f) with
      | .fin _ m' e' => above m' e'
      | _ => false
    let mag := min r.1 (maxMag f)
    ((if mag = 0 then 0 else withSign f neg mag), r.2.1 || beyond, beyond, decide (maxMag f < r.1))
  if kind = 0 then
    if ty = .s8 then signed 127 6 8 else float (fmtOf ty)
  else
    match aty with
    | 0 => signed (if neg then 8 else 7) 0 4
    | 1 => float (fmtOf .e2m1)
    | _ =>
      let mags := aqMags aty
      let r := roundList mags mode u neg m e
      ((if r.1 = 0 then 0 else neg.toNat * 8 + r.1), r.2, above (mags.getD 7 0) (-3), false)

/-- The largest-magnitude code of a sign (R153). -/
def topCode (kind aty : Nat) (ty : ETy) (neg : Bool) : Nat :=
  if kind = 0 then
    if ty = .s8 then (if neg then 0x81 else 0x7F) else withSign (fmtOf ty) neg (maxMag (fmtOf ty))
  else if aty = 0 then (if neg then 0x8 else 0x7) else neg.toNat * 8 + 7

/-- emax of R153. -/
def emaxOf : ETy → Int
  | .e4m3 => 8 | .e5m2 => 15 | .e3m2 => 4 | .e2m3 => 2 | .e2m1 => 2 | _ => 0

/-- M of R142. -/
def aqM : Nat → Nat
  | 0 => 7 | 1 => 6 | 2 => 8 | _ => 12

/-- The larger of two finite magnitudes; specials do not count. -/
def amaxStep (acc : Nat × Int) (x : XVal) : Nat × Int :=
  match x with
  | .fin _ m e => if xlt (.fin false acc.1 acc.2) (.fin false m e) then (m, e) else acc
  | _ => acc

/-- The scale exponent X of R153, and whether AQ4 reached its top below what the block needs. -/
def scaleExp (kind aty : Nat) (ty : ETy) (amax : Nat × Int) : Int × Bool :=
  if kind = 0 then
    if amax.1 = 0 then (-127, false) else (max (-127) (min 127 (expOf amax.1 amax.2 - emaxOf ty)), false)
  else
    let top : Int := if aty = 3 then 30 else 31
    if amax.1 = 0 then (-32, false)
    else
      let n0 := expOf amax.1 amax.2 - ((bitLen (aqM aty) : Int) - 1)
      let fits := !xlt (.fin false (aqM aty) n0) (.fin false amax.1 amax.2)
      let n := if fits then n0 else n0 + 1
      (max (-32) (min top n), decide (top < n))

/-- Quantise one block of 32 (R153, R154): scale byte, codes, flags. `draw j` is the draw for code `j`. A finite element beyond the
range of an MX float code sets OVF and INX (R148). DESIGN CHOICE: an AQ4 element clamped since X reached its top sets SAT
and INX, which R154 names, and no OVF, for which R148 has no AQ4 row (log 65). -/
def quantise (kind aty : Nat) (ty : ETy) (mode : RMode) (draw : Nat → Nat) (xs : List XVal) :
    Nat × List Nat × Flags :=
  if xs.any XVal.isNan then (0xFF, xs.map (fun _ => 0), fINV)
  else
    let amax := xs.foldl amaxStep (0, 0)
    let sx := scaleExp kind aty ty amax
    let sbyte := if kind = 0 then (sx.1 + 127).toNat else aty * 64 + (sx.1 + 32).toNat
    let one := fun (p : XVal × Nat) =>
      match p.1 with
      | .inf n => (topCode kind aty ty n, fSAT)
      | .nan _ => (0, fINV)
      | .fin n m e =>
        if m = 0 then (0, 0#5)
        else
          let r := roundCode kind aty ty mode (draw p.2) n m (e - sx.1)
          (r.1, flagIf r.2.1 fINX ||| flagIf (r.2.2.1 && sx.2) fSAT ||| flagIf (kind == 0 && r.2.2.2) (fOVF ||| fINX) ||| flagIf (r.1 == 0) fUNF)
    let cs := xs.zipIdx.map one
    (sbyte, cs.map (·.1), cs.foldl (fun f c => f ||| c.2) 0#5)

/-- Code bytes of two blocks in a cluster's register (R442). -/
def codeBytes (ty : ETy) : Nat := if ty.cw = 4 then 32 else 64

/-- Codes packed by R135. -/
def packCodes (w : Nat) (cs : List Nat) : Nat := cs.foldr (fun c acc => c % 2 ^ w + 2 ^ w * acc) 0

/-- The register VQNT writes in one cluster (R443). -/
def State.quantImage (s : State) (mode : RMode) (a : VReg) (kind aty : Nat) (ty : ETy) (k : KSel) (c : Nat) : Image :=
  let x := fun i => if active (s.rk k.val c) 32 i then decodeFloat F32 (elem (s.rv a c) 32 i) else XVal.zero
  let block := fun b => quantise kind aty ty mode (fun j => s.draw 4 (512 * c + 32 * b + j))
    ((List.range 32).map (fun j => x (32 * b + j)))
  let b0 := block 0
  let b1 := block 1
  let n := codeBytes ty
  ⟨ones 2048, packCodes ty.cw (b0.2.1 ++ b1.2.1) + b0.1 * 2 ^ (8 * n) + b1.1 * 2 ^ (8 * (n + 1)), b0.2.2 ||| b1.2.2⟩

/-- R442, R443. -/
def execVqnt (mode : RMode) (d a : VReg) (kind aty : Fin 4) (t : ETy) (k : KSel) (s : State) : Res :=
  .next (s.vecImages 6 d (s.quantImage mode a kind.val aty.val t k))

/-- R442, R444. -/
def execVdqnt (d a : VReg) (kind : Fin 4) (code t : ETy) (k : KSel) (s : State) : Res :=
  .next (s.vecImages 6 d (fun c =>
    let v := s.rv a c
    imageOf 64 t.cw (active (s.rk k.val c) t.cw) (fun i =>
      let scale := bits v (8 * (codeBytes code + i / 32)) 8
      let r := toFloat (fmtOf t) .rne 0 false (codeVal kind.val code scale (elem v code.cw i))
      (r.1, if scale = 0xFF then fINV else r.2))))

/-! ### Special functions (R371 to R373) -/

/-- A word of slot F: latency 12. -/
def State.special (s : State) (op : Nat) (d a : VReg) (t : ETy) (k : KSel) : State :=
  s.vecLoop 12 d t k (fun c i => specialFn op (fmtOf t) (elem (s.rv a c) t.cw i))

/-- R371. -/
def execFexp2 (d a : VReg) (t : ETy) (k : KSel) (s : State) : Res := .next (s.special 1 d a t k)
/-- R371. -/
def execFlog2 (d a : VReg) (t : ETy) (k : KSel) (s : State) : Res := .next (s.special 2 d a t k)
/-- R371. -/
def execFrcp (d a : VReg) (t : ETy) (k : KSel) (s : State) : Res := .next (s.special 3 d a t k)
/-- R371. -/
def execFrsq (d a : VReg) (t : ETy) (k : KSel) (s : State) : Res := .next (s.special 4 d a t k)
/-- R371. -/
def execFtanh (d a : VReg) (t : ETy) (k : KSel) (s : State) : Res := .next (s.special 5 d a t k)
/-- R371. -/
def execFsig (d a : VReg) (t : ETy) (k : KSel) (s : State) : Res := .next (s.special 6 d a t k)
/-- R371. -/
def execFsin (d a : VReg) (t : ETy) (k : KSel) (s : State) : Res := .next (s.special 7 d a t k)
/-- R371. -/
def execFcos (d a : VReg) (t : ETy) (k : KSel) (s : State) : Res := .next (s.special 8 d a t k)

end Sys2Proof.Machine
end

