-- ==== Sys2Proof/Machine/Matrix.lean ====
section
/-! DEFINITION. The matrix engine: MCFG, MLDW, MSWAP, MMUL, MVEC and MZERO, and what they compute (R156 to R166, R230 to
R243, R248, R395, R401 to R405, R407 to R409). An operation in flight takes its bytes on its read cycles and computes when
it lands. -/

namespace Sys2Proof.Machine

/-! ### Checks shared by the words of slot X -/

/-- A strict context of another plane owns the matrix engine of the tile (R57). -/
def State.xOwned (s : State) : Bool :=
  match s.tl.owner with
  | none => false
  | some p => p != planeOf s.issue.ctx

/-- Go on unless the word raises 0x286. -/
def State.xOwn (s : State) (k : State → State) : State := s.check s.xOwned 0x286 0 k

/-- The physical accumulator tile of a name (R85). -/
def Ctx.phys (x : Ctx) (acc : ATile) : Nat := x.accBase.toNat + acc.val

/-- The window check of R85. -/
def State.xAcc (s : State) (acc : ATile) (k : State → State) : State :=
  s.xOwn fun s => s.check (decide (s.cx.accCnt.toNat ≤ acc.val)) 0x083 0 k

/-- The effective band set E (R233). -/
def Ctx.effBands (x : Ctx) (bands : BitVec 4) : List Nat :=
  setBits 4 ((if bands = 0#4 then x.ashape else bands &&& x.ashape).toNat)

/-- The pair and the effective band set, or 0x086 or 0x087 (R237, R233). -/
def State.xPair (s : State) (bands : BitVec 4) (k : Nat → Nat → State → State) : State :=
  match s.cx.pair with
  | none => s.raise 0x086 0
  | some (a, w) => s.check (s.cx.effBands bands).isEmpty 0x087 0 (k a w)

/-- The rows that a quarter mask selects; a zero mask stands for all four (R110). -/
def quarterRows (q : BitVec 4) : List Nat :=
  (List.range 128).filter (fun r => q == 0#4 || q.getLsbD (r / 32))

/-- The first range that a matrix operation reads on t + 1 or t + 2 with a row in a reserved bank: its address (R243). -/
def State.xReserved (s : State) (op : MatOp) : Option Nat :=
  [s.cycle + 1, s.cycle + 2].findSome? (fun c =>
    match op.reads c with
    | none => none
    | some r => (r.codes.find? (fun q =>
        (rangeRows q).any (fun row => s.tl.resv.any (fun v => v.1 == bankOf row && decide (c ≤ v.2))))).map (·.1))

/-- Alignment of sa, extents and reserved banks of a matrix read, each with the address that breaks its rule (R272, R402, R404,
R408). -/
def State.xReads (s : State) (sa : Nat) (rs : List (Int × Nat)) (op : MatOp) (k : State → State) : State :=
  s.check (decide (sa % 64 ≠ 0)) 0x101 (spEaddr sa) fun s =>
    match s.cx.spBad rs with
    | some a => s.raise 0x100 (spEaddr a)
    | none =>
      match s.xReserved op with
      | some a => s.raise 0x102 (spEaddr (a : Nat))
      | none => k s

/-- An operation enters the engine. -/
def State.xStart (s : State) (op : MatOp) : State := s.setCx { s.cx with matOps := s.cx.matOps ++ [op] }

/-- An operation of the bundle in hand with no operands. -/
def State.xOp (s : State) (kind : MKind) : MatOp where
  kind := kind
  post := true
  issue := s.cycle
  cadence := s.cx.cadence.toNat
  acc := 0
  rows := 0
  aip := false
  prof := s.issue.prof
  bands := []
  fmtA := 0
  fmtW := 0
  plane := .zero
  planeId := 0
  sa := 0
  sb := 0
  k := 0
  row := 0
  gotA := []
  gotW := []
  gotR := []
  bad := false
  lands := 0

/-! ### Planes -/

/-- The active plane, and the number of the shadow plane. -/
def Ctx.activePlane (x : Ctx) : Plane := if x.sel then x.plane1 else x.plane0
def Ctx.shadowPlane (x : Ctx) : Plane := if x.sel then x.plane0 else x.plane1
def Ctx.activeId (x : Ctx) : Nat := if x.sel then 1 else 0
def Ctx.shadowId (x : Ctx) : Nat := if x.sel then 0 else 1
def Ctx.setPlane (x : Ctx) (n : Nat) (p : Plane) : Ctx := if n = 0 then { x with plane0 := p } else { x with plane1 := p }

def Plane.band (p : Plane) : Nat → Band
  | 0 => p.b0 | 1 => p.b1 | 2 => p.b2 | _ => p.b3

def Plane.setBand (p : Plane) (n : Nat) (b : Band) : Plane :=
  match n with
  | 0 => { p with b0 := b } | 1 => { p with b1 := b } | 2 => { p with b2 := b } | _ => { p with b3 := b }

/-- A route word is valid when i0 < i1 in every group (R235). -/
def routeOk (w : Nat) : Bool := (List.range 16).all (fun g => decide (bits w (4 * g) 2 < bits w (4 * g + 2) 2))

/-- Every route word of a band is valid. -/
def Band.routesOk (b : Band) : Bool := (List.range 128).all (fun n => routeOk (bits b.routes (64 * n) 64))

def Plane.routesOk (p : Plane) : Bool := p.b0.routesOk && p.b1.routesOk && p.b2.routesOk && p.b3.routesOk

/-- The route table of a band that a sparse load does not name: positions 0 and 1 of every group (R238, log 8). -/
def Band.unloaded : Band := ⟨0, 0, (List.range 2048).foldl (fun acc _ => acc * 16 + 4) 0⟩

/-! ### Configuration words -/

/-- R395. -/
def execMcfg (a b : SReg) (s : State) : Res :=
  let va := (s.rs a).toNat
  let vb := (s.rs b).toNat
  .next (s.xOwn fun s =>
    s.check (decide (18 ≤ va ∨ 18 ≤ vb)) 0x084 0 fun s =>
      s.check (s.cx.matOps.any (fun op => op.kind == .mmul || op.kind == .mvec || op.kind == .mldw)) 0x085 0 fun s =>
        let s := s.needUndoNow .pair (s.cx.keyVal .pair)
        s.setCx { s.cx with pair := some (va, vb) })

/-- R405, R239. -/
def execMswap (s : State) : Res :=
  .next (s.xOwn fun s =>
    s.check (s.cx.matOps.any (fun op => op.kind == .mldw)) 0x08C 0 fun s =>
      s.check (s.cx.shadowPlane.sparse && !s.cx.shadowPlane.routesOk) 0x08D 0 fun s =>
        let s := s.needUndoNow .sel (s.cx.keyVal .sel)
        s.setCx { s.cx with sel := !s.cx.sel })

/-- The operation of an MLDW with weights of format `w` from `sa` and route tables from `sb` into the shadow plane (R238). -/
def State.mldwOp (s : State) (w sa sb : Nat) (es : List Nat) : MatOp :=
  let n := mldwCycles w es.length
  { s.xOp .mldw with rows := n, bands := es, fmtW := w, planeId := s.cx.shadowId, sa := sa, sb := sb
                     plane := { Plane.zero with fmt := some w, sparse := sb != 0 }
                     lands := s.cycle + 4 + n }

/-- The band images and route tables of an MLDW: start and length (R234, R235). -/
def MatOp.loadRanges (op : MatOp) : List (Int × Nat) :=
  ((op.sa : Int), op.bands.length * bandImage op.fmtW) ::
    if op.sb = 0 then [] else [((op.sb : Int), 1024 * op.bands.length)]

/-- R401, R402, R238. -/
def execMldw (a b : SReg) (bands : BitVec 4) (s : State) : Res :=
  let sa := (s.rs a).toNat
  let sb := (s.rs b).toNat
  .next (s.xOwn fun s => s.xPair bands fun _ w s =>
    let x := s.cx
    let es := x.effBands bands
    let op := s.mldwOp w sa sb es
    s.check (x.matOps.any (fun o => o.kind == .mmul && o.planeId == x.shadowId)) 0x08E 0 fun s =>
      s.check (decide (sa % 64 = 0 ∧ sb % 64 ≠ 0)) 0x101 (spEaddr sb) fun s =>
        s.xReads sa op.loadRanges op fun s => s.setCx { s.cx with matOps := s.cx.matOps ++ [op], planeHaz := true })

/-! ### Streaming words -/

/-- An integer pair is asked for under profile 3 (R161). -/
def badPair (prof a w : Nat) : Bool := prof == 3 && !(fmtInteger a && fmtInteger w)

/-- A streaming word enters the engine and, with AIP, sets the tile hazard of its accumulator (R282). Under a float profile
its flags may land in VSTAT, whose undo entry the bundle takes (R279, log 44). -/
def State.xStream (s : State) (acc : ATile) (op : MatOp) : State :=
  let s := if op.prof = 3 then s else s.needUndo (.cr 0x024)
  let x := s.cx
  s.setCx { x with matOps := x.matOps ++ [op]
                   tileHaz := if op.aip then x.tileHaz ||| BitVec.ofNat 16 (2 ^ acc.val) else x.tileHaz }

/-- The operation of an MMUL of the active plane (R240). -/
def State.mmulOp (s : State) (acc : ATile) (fa w sa rows : Nat) (aip : Bool) (es : List Nat) : MatOp :=
  let x := s.cx
  { s.xOp .mmul with acc := x.phys acc, rows := rows, aip := aip, bands := es, fmtA := fa, fmtW := w
                     plane := x.activePlane, planeId := x.activeId, sa := sa
                     lands := s.cycle + 24 + rows * x.cadence.toNat }

/-- The activation rows of an MMUL: start and length (R240). -/
def MatOp.actRows (op : MatOp) : List (Int × Nat) :=
  let k := mmulK op.plane.sparse op.bands
  (List.range op.rows).map (fun i =>
    (((op.sa + i * rowPitch op.fmtA k : Nat) : Int), rowCode op.fmtA k + rowScale op.fmtA k))

/-- R403, R404, R240. -/
def execMmul (acc : ATile) (a b : SReg) (aip : Bool) (bands : BitVec 4) (s : State) : Res :=
  let sa := (s.rs a).toNat
  let rows := (s.rs b).toNat
  .next (s.xAcc acc fun s => s.xPair bands fun fa w s =>
    let x := s.cx
    let es := x.effBands bands
    let p := x.activePlane
    s.check (decide (rows < 1 ∨ 128 < rows)) 0x089 0 fun s =>
      s.check (match p.fmt with | none => false | some f => f != w) 0x08A 0 fun s =>
        s.check (badPair s.issue.prof fa w) 0x08F 0 fun s =>
          let op := s.mmulOp acc fa w sa rows aip es
          s.xReads sa op.actRows op fun s => s.xStream acc op)

/-- The operand of MVEC breaks R241. -/
def mvecBad (sb fmtW : Nat) : Bool :=
  decide (bits sb 46 18 ≠ 0 ∨ bits sb 23 1 ≠ 0 ∨ bits sb 13 3 ≠ 0 ∨ bits sb 0 13 < 1 ∨ 4096 < bits sb 0 13 ∨
    bits sb 24 22 % 64 ≠ 0 ∨ fmtW ≤ 2)

/-- The operation of an MVEC with the operand word `sb` (R241). E affects only what the activity meters charge (log 16). -/
def State.mvecOp (s : State) (acc : ATile) (fa w sa sb : Nat) (aip : Bool) (es : List Nat) : MatOp :=
  let k := bits sb 0 13
  { s.xOp .mvec with acc := s.cx.phys acc, rows := mvecSteps k, aip := aip, bands := es, fmtA := fa, fmtW := w, sa := sa
                     sb := bits sb 24 22, k := k, row := bits sb 16 7
                     lands := s.cycle + 20 + mvecSteps k * s.cx.cadence.toNat }

/-- The vector and the band images of an MVEC: start and length (R241). -/
def MatOp.vecRanges (op : MatOp) : List (Int × Nat) :=
  [((op.sb : Int), rowCode op.fmtA op.k + rowScale op.fmtA op.k), ((op.sa : Int), op.rows * bandImage op.fmtW)]

/-- R407, R408, R241. -/
def execMvec (acc : ATile) (a b : SReg) (aip : Bool) (bands : BitVec 4) (s : State) : Res :=
  let sa := (s.rs a).toNat
  let sb := (s.rs b).toNat
  .next (s.xAcc acc fun s => s.xPair bands fun fa w s =>
    s.check (mvecBad sb w) 0x08B 0 fun s =>
      s.check (badPair s.issue.prof fa w) 0x08F 0 fun s =>
        let op := s.mvecOp acc fa w sa sb aip (s.cx.effBands bands)
        s.xReads sa op.vecRanges op fun s => s.xStream acc op)

/-- R409, R248. -/
def execMzero (acc : ATile) (quarters : BitVec 4) (s : State) : Res :=
  .next (s.xAcc acc fun s =>
    s.xStart { s.xOp .mzero with acc := s.cx.phys acc, k := quarters.toNat, lands := s.cycle + 2 })

/-! ### Group sums (R156 to R162) -/

/-- Flags that an accumulating word may set (R163). -/
def fAcc : Flags := fINV ||| fOVF

/-- One product (R157). A pruned position is an exact zero whatever its activation, and as the product with a weight of +0 where
the activation is finite (R166). -/
def mprod (a : XVal) (w : Option XVal) : XVal × Flags :=
  match w, a with
  | some w, _ => xmul a w
  | none, .fin _ _ _ => xmul a XVal.zero
  | none, _ => (XVal.zero, 0#5)

/-- The exact sum of a group with its specials, and the INV of its products (R157, R162). The sum is unbounded, where R159
names a window that some sums of e5m2 products would leave (log 65). -/
def exactGroup (ps : List (XVal × Flags)) : SumAcc × Flags :=
  ps.foldl (fun g p => (g.1.add p.1, g.2 ||| p.2)) (.start, 0#5)

/-- A group added into an element under profiles 0 and 1 (R160, R162). -/
def addExact (acc : Nat) (g : SumAcc × Flags) : Nat × Flags :=
  if g.1.nan || g.1.pinf || g.1.ninf || !g.1.sum.isZero then
    let v := g.1.value
    let r := xadd (decodeFloat F32 acc) v.1
    let q := roundArith F32 r.1
    (q.1, g.2 ||| v.2 ||| r.2 ||| q.2)
  else (acc, g.2)

/-- A group added into an element under profile 2 (R160). -/
def addTree (acc : Nat) (ps : List (XVal × Flags)) : Nat × Flags :=
  let ts := ps.map (fun p => let q := roundArith F32 p.1; (q.1, p.2 ||| q.2))
  let t := treeSum F32 7 (ts.map (·.1) ++ List.replicate (128 - ts.length) 0)
  let r := addRound F32 acc t.1
  (r.1, ts.foldl (fun f q => f ||| q.2) (t.2 ||| r.2))

/-- Split into groups of `g`. -/
def groupsOf {α : Type} (g : Nat) : Nat → List α → List (List α)
  | 0, _ => []
  | n + 1, xs => if xs.isEmpty then [] else xs.take g :: groupsOf g n (xs.drop g)

/-- The integer value of an operand under profile 3. -/
def xint : XVal → Int
  | .fin n m e => if n then -(m * 2 ^ e.toNat : Nat) else (m * 2 ^ e.toNat : Nat)
  | _ => 0

/-- One output element from the activations and one column of weights, in k order (R160, R161). -/
def outElem (prof : Nat) (acc : Nat) (act : List XVal) (col : List (Option XVal)) : Nat × Flags :=
  if prof = 3 then
    let sum := (act.zip col).foldl (fun t p => match p.2 with
      | none => t
      | some w => t + xint p.1 * xint w) 0
    (truncI 32 (sextN 32 acc + sum), 0#5)
  else
    let ps := (act.zip col).map (fun p => mprod p.1 p.2)
    let g := if prof = 0 then 32 else 128
    let r := (groupsOf g ps.length ps).foldl (fun a ps =>
      let q := if prof = 2 then addTree a.1 ps else addExact a.1 (exactGroup ps)
      (q.1, a.2 ||| q.2)) (acc, 0#5)
    (r.1, r.2 &&& fAcc)

/-- One row of outputs. -/
def outRow (prof : Nat) (aip : Bool) (old : Nat) (act : List XVal) (cols : List (List (Option XVal))) : Nat × Flags :=
  ((List.range 128).zip cols).foldr (fun p acc =>
    let r := outElem prof (if aip then elem old 32 p.1 else 0) act p.2
    (r.1 + 2 ^ 32 * acc.1, r.2 ||| acc.2)) (0, 0#5)

/-! ### Operands (R140 to R143, R234 to R236) -/

/-- The value of a code under its scale byte, in a format of R111. -/
def fmtVal (f scale code : Nat) : XVal :=
  if fmtBlock f then codeVal (if f = 17 then 1 else 0) (fmtTy f) scale code else elemVal (fmtTy f) code

/-- The first `k` elements stored as an array with its scale bytes after the codes (R143); elements from `n` on are zero. -/
def arrayVals (m : Memory) (f a k n : Nat) : List XVal :=
  let codes := readLE m a (rowCode f k)
  let scales := readLE m (a + rowCode f k) (rowScale f k)
  (List.range n).map (fun i => if i < k then fmtVal f (elem scales 8 (i / 32)) (elem codes (fmtBits f) i) else XVal.zero)

/-- Stored weight `r` of a column (R234). -/
def Band.weight (b : Band) (f n r : Nat) : XVal := fmtVal f (elem b.scales 8 n) (elem b.codes (fmtBits f) (32 * n + r))

/-- The weights of one column of a band in k order: 32 rows, or 64 dense positions with the pruned ones absent (R235). -/
def Band.column (b : Band) (f : Nat) (sparse : Bool) (n : Nat) : List (Option XVal) :=
  if sparse then
    let rt := bits b.routes (64 * n) 64
    (List.range 64).map (fun p =>
      let g := p / 4
      if bits rt (4 * g) 2 = p % 4 then some (b.weight f n (2 * g))
      else if bits rt (4 * g + 2) 2 = p % 4 then some (b.weight f n (2 * g + 1))
      else none)
  else (List.range 32).map (fun r => some (b.weight f n r))

/-- The columns of a plane on the bands of E. A plane that no MLDW has loaded holds exact zeros (R240). -/
def Plane.columns (p : Plane) (bands : List Nat) : List (List (Option XVal)) :=
  (List.range 128).map (fun n => bands.flatMap (fun b =>
    match p.fmt with
    | none => List.replicate 32 (some XVal.zero)
    | some f => (p.band b).column f p.sparse n))

/-- A band read from an image at an address and, for a sparse plane, a route table in a memory of its own (R234, R235). -/
def bandFrom (m rt : Memory) (f img route : Nat) (sparse : Bool) : Band :=
  ⟨readLE m img (bandCode f), if fmtBlock f then readLE m (img + bandCode f) 128 else 0,
    if sparse then readLE rt route 1024 else 0⟩

/-! ### Results -/

/-- The rows an operation writes, from the tile's rows as they stand when it lands, and its flags. -/
def MatOp.result (op : MatOp) (old : Nat → Nat) : List (Nat × Nat) × Flags :=
  match op.kind with
  | .mmul =>
    let k := mmulK op.plane.sparse op.bands
    let cols := op.plane.columns op.bands
    let rs := (List.range op.rows).map (fun i =>
      (i, outRow op.prof op.aip (old i) (arrayVals op.gotA op.fmtA (op.sa + i * rowPitch op.fmtA k) k k) cols))
    (rs.map (fun r => (r.1, r.2.1)), rs.foldl (fun f r => f ||| r.2.2) 0#5)
  | .mvec =>
    let n := 32 * op.rows
    let bands := (List.range op.rows).map (fun j => bandFrom op.gotW op.gotR op.fmtW (op.sa + j * bandImage op.fmtW) 0 false)
    let cols := (List.range 128).map (fun c => (bands.flatMap (fun b => b.column op.fmtW false c)).take op.k)
    let r := outRow op.prof op.aip (old op.row) (arrayVals op.gotA op.fmtA op.sb op.k n) cols
    ([(op.row, r.1)], r.2)
  | .mzero => ((quarterRows (BitVec.ofNat 4 op.k)).map (fun r => (r, 0)), 0#5)
  | .mldw | .drain => ([], 0#5)

/-- The plane that an MLDW leaves (R238). -/
def MatOp.loaded (op : MatOp) : Plane :=
  let start := if op.plane.sparse then Band.unloaded else Band.zero
  let p := { op.plane with b0 := start, b1 := start, b2 := start, b3 := start }
  ((List.range op.bands.length).zip op.bands).foldl (fun p rb =>
    p.setBand rb.2 (bandFrom op.gotW op.gotR op.fmtW (op.sa + rb.1 * bandImage op.fmtW) (op.sb + 1024 * rb.1) op.plane.sparse)) p

/-- Remove the first operation that a test names. -/
def takeOp (p : MatOp → Bool) : List MatOp → Option (MatOp × List MatOp)
  | [] => none
  | op :: ops => if p op then some (op, ops) else (takeOp p ops).map (fun r => (r.1, op :: r.2))

/-- An operation whose landing cycle has come. -/
def Ctx.dueOp (x : Ctx) (now : Nat) (load : Bool) : Option (MatOp × List MatOp) :=
  takeOp (fun op => decide (op.lands ≤ now) && (op.kind == .mldw) == load) x.matOps

/-- R90, R163, R248: the rows land with the flags. -/
def execMatrixResultLands (ctx : Nat) (s : State) : Res :=
  let x := s.ctx ctx
  .next (match x.dueOp s.cycle false with
    | none => s
    | some (op, rest) =>
      let t := s.tile (tileOf ctx)
      let r := op.result (fun i => (mgetD t.acc (128 * op.acc + i) 0#4096).toNat)
      let acc := r.1.foldl (fun m p => mput m (128 * op.acc + p.1) (BitVec.ofNat 4096 p.2)) t.acc
      let x := { x with matOps := rest }
      let x := if r.2 = 0#5 then x else x.land ⟨s.cycle, op.post, .flags, 31, r.2.toNat⟩
      (s.setTile (tileOf ctx) { t with acc := acc }).setCtx ctx x)

/-- R238, R401: the shadow plane is loaded. -/
def execMldwComplete (ctx : Nat) (s : State) : Res :=
  let x := s.ctx ctx
  .next (match x.dueOp s.cycle true with
    | none => s
    | some (op, rest) => s.setCtx ctx ({ x with matOps := rest }.setPlane op.planeId op.loaded))

/-! ### Holds of slot X (R91, R242, R244) -/

/-- The cycle on which an operation frees the array input and the weight path. -/
def MatOp.arrayUntil (op : MatOp) : Nat :=
  match op.kind with
  | .mmul => op.issue + op.rows * op.cadence
  | .mvec => op.issue + 4 + op.rows * op.cadence
  | _ => 0
def MatOp.weightUntil (op : MatOp) : Nat :=
  match op.kind with
  | .mvec => op.issue + 4 + op.rows * op.cadence
  | .mldw => op.issue + op.rows
  | _ => 0

/-- A word of slot X uses: accumulator and whether it writes it, array input, weight path. -/
def xUses : Instr → Option (ATile × Bool) × Bool × Bool
  | .mmul acc _ _ _ _ => (some (acc, true), true, false)
  | .mvec acc _ _ _ _ => (some (acc, true), true, true)
  | .mldw _ _ _ => (none, false, true)
  | .mdrn acc _ _ _ _ => (some (acc, false), false, false)
  | .maccd acc _ _ _ _ => (some (acc, false), false, false)
  | .mzero acc _ => (some (acc, true), false, false)
  | _ => (none, false, false)

/-- A word of slot X of context `c` is held on this cycle. A word that faults on ownership or the window is not (log 8). -/
def State.xHeld (s : State) (c : Nat) (i : Instr) : Bool :=
  let x := s.ctx c
  let t := s.tile (tileOf c)
  let u := xUses i
  let ops := s.tileOps (tileOf c)
  if t.owner.isSome && t.owner != some (planeOf c) then false
  else
    let tileHeld := match u.1 with
      | none => false
      | some (acc, w) =>
        decide (acc.val < x.accCnt.toNat) &&
          (ops.any (fun op => (op.kind == .mmul || op.kind == .mvec || op.kind == .mzero) && op.acc == x.phys acc
              && decide (s.cycle < op.lands))
            || (w && t.accRead.any (fun r => r.1 == x.phys acc && decide (s.cycle < r.2))))
    let outside := match u.1 with
      | none => false
      | some (acc, _) => decide (x.accCnt.toNat ≤ acc.val)
    !outside && (tileHeld || (u.2.1 && ops.any (fun op => decide (s.cycle < op.arrayUntil)))
      || (u.2.2 && ops.any (fun op => decide (s.cycle < op.weightUntil))))

end Sys2Proof.Machine
end

