-- ==== Sys2Proof/Machine/Push.lean ====
section
/-! DEFINITION. The engine pushes of slot C and of MDRN and MACCD: every check at the push, the gate entry, and the record
that enters its queue (R189, R200, R220 to R226, R244 to R261, R280). A record's own words are read with the reads of its
bundle; a source in this tile's scratchpad is read after the stores of the bundle (R195, R280). -/

namespace Sys2Proof.Machine

/-! ### Shared checks -/

/-- Raise a fault chosen among parts, or go on. -/
def State.checkParts (s : State) (fs : List PartFault) (k : State → State) : State :=
  match pickFault fs with
  | some f => s.raise f.code f.va
  | none => k s

/-- Raise 0x100 for the first scratchpad range outside the assignment, or go on (R229, R300). -/
def State.checkSp (s : State) (rs : List (Int × Nat)) (k : State → State) : State :=
  match s.cx.spBad rs with
  | some a => s.raise 0x100 (spEaddr a)
  | none => k s

/-- A push takes the next sequence number of its context. -/
def State.pushed (s : State) (f : Nat → Ctx → Ctx) : State :=
  let x := s.cx
  s.setCx (f x.seq { x with seq := x.seq + 1 })

/-! ### Copy records (R250 to R256) -/

/-- A record as read: its words. -/
structure RawRec where
  w : List Nat
  deriving DecidableEq, Repr

def RawRec.word (r : RawRec) (i : Nat) : Nat := r.w.getD i 0
def RawRec.kind (r : RawRec) : Nat := bits (r.word 0) 60 4
def RawRec.ssp (r : RawRec) : Nat := bits (r.word 0) 58 2
def RawRec.dsp (r : RawRec) : Nat := bits (r.word 0) 56 2
def RawRec.n0 (r : RawRec) : Nat := bits (r.word 0) 0 32
def RawRec.n1 (r : RawRec) : Nat := if 1 ≤ r.kind ∧ r.kind ≤ 3 then bits (r.word 3) 0 32 else 1
def RawRec.n2 (r : RawRec) : Nat := if r.kind = 2 ∨ r.kind = 3 then bits (r.word 3) 32 32 else 1
def RawRec.ss1 (r : RawRec) : Int := sextN 32 (bits (r.word 4) 0 32)
def RawRec.ds1 (r : RawRec) : Int := sextN 32 (bits (r.word 4) 32 32)
def RawRec.ss2 (r : RawRec) : Int := sextN 32 (bits (r.word 5) 0 32)
def RawRec.ds2 (r : RawRec) : Int := sextN 32 (bits (r.word 5) 32 32)

/-- The record at a scratchpad address. -/
def rawRec (sp : Memory) (a : Nat) : RawRec := ⟨(List.range 8).map (fun i => readLE sp (a + 8 * i) 8)⟩

/-- The word that names the tile of a space-2 side (R252). -/
def RawRec.tileWord (r : RawRec) : Nat := if r.kind = 3 then r.word 6 else r.word 4

/-- Fields of REGION (R35). -/
def Ctx.ry (x : Ctx) : Nat := bits x.region.toNat 0 4
def Ctx.rx (x : Ctx) : Nat := bits x.region.toNat 4 4
def Ctx.nrows (x : Ctx) : Nat := bits x.region.toNat 8 4 + 1
def Ctx.ncols (x : Ctx) : Nat := bits x.region.toNat 12 4 + 1
def Ctx.wrapY (x : Ctx) : Bool := tbit x.region.toNat 16
def Ctx.wrapX (x : Ctx) : Bool := tbit x.region.toNat 17

/-- One relative coordinate of a destination: reduced where the dimension wraps, none where it leaves the region (R34). -/
def resolveDim (v : Int) (n : Nat) (wrap : Bool) : Option Nat :=
  let v := if wrap then v % 12 else v
  if 0 ≤ v ∧ v < n then some v.toNat else none

/-- The tile that a tile word names, seen from context `c` (R34, R252). -/
def Ctx.resolveTile (x : Ctx) (c w : Nat) : Option Nat :=
  let rel := tbit w 8
  let dim := fun (lo own : Nat) => if rel then (own : Int) + sextN 4 (bits w lo 4) else (bits w lo 4 : Int)
  match resolveDim (dim 4 x.ry) x.nrows x.wrapY, resolveDim (dim 0 x.rx) x.ncols x.wrapX with
  | some y, some z =>
    let t := tileOf c
    some ((t / 12 + 12 - x.ry + y) % 12 * 12 + (t % 12 + 12 - x.rx + z) % 12)
  | _, _ => none

/-- The rows of a record in stream order: index, source address, destination address (R251). -/
def recRows (n1 n2 : Nat) (src dst ss1 ss2 ds1 ds2 : Int) : List (Nat × Int × Int) :=
  (List.range n2).flatMap (fun p => (List.range n1).map (fun r =>
    (p * n1 + r, src + p * ss2 + r * ss1, dst + p * ds2 + r * ds1)))

def RawRec.rows (r : RawRec) : List (Nat × Int × Int) :=
  if r.n0 = 0 then [] else recRows r.n1 r.n2 (r.word 1) (r.word 2) r.ss1 r.ss2 r.ds1 r.ds2

/-- Fields that a kind does not use hold something (R250, R251, R253, R254). -/
def RawRec.rzBad (r : RawRec) : Bool :=
  let nz := fun i => r.word i != 0
  bits (r.word 0) 32 24 != 0 ||
  match r.kind with
  | 0 => nz 3 || nz 4 || nz 5 || nz 6 || nz 7
  | 1 => bits (r.word 3) 32 32 != 0 || nz 5 || nz 6 || nz 7
  | 2 => nz 6 || nz 7
  | 3 => bits (r.word 6) 9 55 != 0 || nz 7
  | 4 => bits (r.word 3) 6 58 != 0 || nz 5 || (if r.dsp = 2 then bits (r.word 4) 9 55 != 0 else nz 4)
  | _ => nz 3 || nz 4 || nz 5 || nz 6 || nz 7

/-- Spaces that a kind does not allow (R252 to R254). -/
def RawRec.spaceBad (r : RawRec) : Bool :=
  match r.kind with
  | 0 | 1 | 2 => decide (1 < r.ssp ∨ 1 < r.dsp)
  | 3 => !((r.ssp == 2 && r.dsp == 0) || (r.ssp == 0 && r.dsp == 2))
  | 4 => !(r.ssp == 0 && (r.dsp == 1 || r.dsp == 2))
  | _ => !(decide (r.ssp ≤ 1) && r.dsp == 1)

/-- Width of a KIND 4 atomic in bytes. -/
def RawRec.aw (r : RawRec) : Nat := if tbit (r.word 3) 3 then 8 else 4
def RawRec.nores (r : RawRec) : Bool := tbit (r.word 3) 5

/-- The source is read as cells (R224). -/
def RawRec.conv (r : RawRec) (x : Ctx) : Bool :=
  decide (r.kind ≤ 2) && r.ssp == 1 && r.rows.any (fun row => x.touchesLarder row.2.1 r.n0)

/-- A record is bad (R253, R254, R256). That a KIND 4 target off its alignment is one of these, with the cause of a bad record, is
the model's choice (log 42). -/
def RawRec.bad (r : RawRec) (x : Ctx) : Bool :=
  decide (6 ≤ r.kind) || r.rzBad || r.spaceBad ||
  match r.kind with
  | 4 => decide (r.word 2 % r.aw ≠ 0) ||
      (r.dsp == 1 && (match x.pageOf (r.word 2) with | none => false | some e => entRoute e != 0))
  | 5 => decide (r.n0 % 4 ≠ 0 ∨ 2 ^ 40 < 8 * r.n0)
  | _ => decide (2 ^ 40 < (if r.conv x then r.n0 / 8 else r.n0) * r.n1 * r.n2)

/-- Scratchpad ranges of a record, of this tile and of another (R229, R252, R300): the address itself must have [63:22]
zero, and every row must lie in the assignment. -/
def RawRec.spRanges (r : RawRec) : List (Int × Nat) :=
  let own := fun (a : Nat) => [((a : Int), 0)]
  match r.kind with
  | 4 => (if r.nores then own (r.word 1) else [((r.word 1 : Int), r.aw)]) ++ (if r.dsp = 2 then [((r.word 2 : Int), r.aw)] else [])
  | 5 => if r.ssp = 0 then own (r.word 1) ++ [((r.word 1 : Int), r.n0)] else []
  | _ => (if r.ssp ≠ 1 then own (r.word 1) ++ r.rows.map (fun row => (row.2.1, r.n0)) else [])
      ++ (if r.dsp ≠ 1 then own (r.word 2) ++ r.rows.map (fun row => (row.2.2, r.n0)) else [])

/-- The first such range that is not allowed: an empty one needs only [63:22] zero. -/
def Ctx.spBadRange (x : Ctx) (rs : List (Int × Nat)) : Option Int :=
  (rs.find? (fun r => if r.2 = 0 then !decide (0 ≤ r.1 ∧ r.1 < 2 ^ 22) else !x.spOk r.1 r.2)).map (·.1)

/-- Scratchpad destinations of a converting read take 4 bytes for each cell. -/
def RawRec.spRangesConv (r : RawRec) : List (Int × Nat) :=
  if r.dsp ≠ 1 then ((r.word 2 : Int), 0) :: r.rows.map (fun row => (row.2.2, r.n0 / 8)) else []

/-- Translation and type faults of a record, in stream order (R189, R462). Of a source part and a destination part that fail at
the same stream byte the source's fault stands first, and of a cellar page in the source of a converting read 0x187 (R179, R189)
before the 0x186 of R224: both are the model's choice (log 42). -/
def RawRec.faults (r : RawRec) (x : Ctx) : List PartFault :=
  match r.kind with
  | 4 => if r.dsp = 1 then x.rangeFaults .atomic (r.word 2) r.aw 0 1 else []
  | 5 =>
    (if r.ssp = 1 then x.rangeFaults .addend (r.word 1) r.n0 0 4 else [])
      ++ x.rangeFaults .cellAdd (r.word 2) (8 * r.n0) 0 32
      ++ (if r.word 2 % 32 ≠ 0 then [⟨0, 0x188, r.word 2⟩] else [])
  | _ =>
    let conv := r.conv x
    let len := if conv then r.n0 / 8 else r.n0
    r.rows.flatMap (fun row =>
      let pos := row.1 * len
      (if r.ssp = 1 then x.rangeFaults .copyRead row.2.1 r.n0 pos (if conv then 8 else 1) else [])
        ++ (if conv then
              (x.parts row.2.1 r.n0).flatMap (fun p => match p.ent with
                | some e => if entType e = 1 then [] else [⟨pos + p.offset row.2.1 / 8, 0x186, p.va⟩]
                | none => [])
              ++ (if row.2.1 % 32 ≠ 0 ∨ r.n0 % 32 ≠ 0 then [⟨pos, 0x186, truncI 64 row.2.1⟩] else [])
            else [])
        ++ (if r.dsp = 1 then x.rangeFaults .copyWrite row.2.2 len pos 1 else []))

/-- Bytes of this tile's scratchpad that a record's source reads. -/
def RawRec.ownSource (r : RawRec) (own : Bool) : List (Nat × Nat) :=
  match r.kind with
  | 4 => []
  | 5 => if r.ssp = 0 then [(r.word 1, r.n0)] else []
  | _ => if r.ssp = 0 || (r.ssp == 2 && own) then r.rows.map (fun row => (row.2.1.toNat, r.n0)) else []

/-- One side of a record; a space-2 side that names this tile is this tile's scratchpad (R461). A KIND 4 target that resolves to the
pushing tile is taken too, and its atomic performs on the own scratchpad: R253 asks for another tile's and names no fault for this
one, so that is the model's choice (log 47). -/
def locOf (space : Nat) (tile : Option Nat) (own : Nat) : Loc :=
  match space with
  | 0 => .sp
  | 1 => .virt
  | _ => match tile with
    | some t => if t = own then .sp else .tile t
    | none => .sp

/-- The record as it enters its queue. -/
def State.copyRec (s : State) (r : RawRec) (seq colour ch : Nat) (tile : Option Nat) : CopyRec :=
  let own := tileOf s.issue.ctx
  let src := r.ownSource (tile == some own)
  let conv := r.conv s.cx
  { seq := seq, held := true, post := true, colour := colour, ch := ch, kind := r.kind
    sloc := locOf r.ssp tile own, dloc := locOf r.dsp tile own
    src := r.word 1, dst := r.word 2, n0 := r.n0, n1 := r.n1, n2 := r.n2
    ss1 := r.ss1, ss2 := r.ss2, ds1 := r.ds1, ds2 := r.ds2, conv := conv
    op := bits (r.word 3) 0 3, wide := tbit (r.word 3) 3, uns := tbit (r.word 3) 4, nores := r.nores
    opnd := r.word 6, cmp := r.word 7
    snap := src.foldl (takeRange s.tl.sp) []
    bad := s.tl.firstBad src
    moved := 0, counted := 0, host := .idle, pushed := s.cycle }

/-- Records of a channel that are outstanding (R249). -/
def Ctx.outstanding (x : Ctx) (ch : Nat) : Nat := (x.recs.filter (fun r => r.ch == ch)).length

/-- A record enters its channel; a stopped channel starts again (R463). -/
def State.enterCopy (s : State) (mk : Nat → CopyRec) : State :=
  s.pushed fun seq x =>
    let r := mk seq
    { x with recs := x.recs ++ [r], stopped := merase x.stopped r.ch }

/-- R460 to R463. -/
def execXfer (a : SReg) (col : Colour) (ch : Chan) (s : State) : Res :=
  let sa : Int := ((s.rs a).toNat : Nat)
  let r := rawRec s.issue.sp0 sa.toNat
  let x := s.cx
  let tile := x.resolveTile s.issue.ctx r.tileWord
  let two := r.ssp == 2 || r.dsp == 2
  .next (s.checkSp [(sa, 64)] fun s =>
    s.check (decide (sa % 64 ≠ 0)) 0x101 (spEaddr sa) fun s =>
      s.check (eccRead s.issue.bad0 [(sa.toNat, 64)]) 0x103 (spEaddr sa) fun s =>
        s.check (decide (32 ≤ x.outstanding ch.val)) (0x200 + 16 * ch.val) 0 fun s =>
          s.check (r.bad x) (0x201 + 16 * ch.val) 0 fun s =>
            s.check (two && tile.isNone) (0x202 + 16 * ch.val) 0 fun s =>
              match x.spBadRange (if r.conv x then r.spRangesConv else r.spRanges) with
              | some b => s.raise 0x100 (spEaddr b)
              | none => s.checkParts (r.faults x) fun s =>
                s.gatePush fun s => s.enterCopy (fun seq => s.copyRec r seq col.val ch.val tile))

/-- The code that KIND 4 gives the operations of AMOG. -/
def amogCode : AmogOp → Nat
  | .add => 0 | .swap => 6 | .cas => 7

/-- R346 to R349, R255. -/
def execAmog (a k : SReg) (op : AmogOp) (w : Bool) (col : Colour) (ch : Chan) (s : State) : Res :=
  let n := if w then 8 else 4
  let va := (s.rs a).toNat
  let x := s.cx
  let raddr := (x.rs (k.val + 1)).toNat
  let beyond := decide (63 < k.val + 1) || (op == .cas && decide (63 < k.val + 2))
  let bad := decide (va % n ≠ 0 ∨ 2 ^ 22 ≤ raddr ∨ raddr % n ≠ 0 ∨ 0x300000 < raddr + n)
  .next (s.checkParts (x.rangeFaults .atomic va 1 0 1) fun s =>
    s.check (beyond || bad) (0x203 + 16 * ch.val) va fun s =>
      s.checkSp [((raddr : Int), n)] fun s =>
        s.check (decide (32 ≤ x.outstanding ch.val)) (0x200 + 16 * ch.val) 0 fun s =>
          s.gatePush fun s => s.enterCopy (fun seq =>
            { seq := seq, held := true, post := true, colour := col.val, ch := ch.val, kind := 6
              sloc := .sp, dloc := .virt, src := raddr, dst := va, n0 := n, n1 := 1, n2 := 1
              ss1 := 0, ss2 := 0, ds1 := 0, ds2 := 0, conv := false
              op := amogCode op, wide := w, uns := false, nores := false
              opnd := (s.rs k).toNat % 2 ^ (8 * n), cmp := (x.rs (k.val + 2)).toNat % 2 ^ (8 * n)
              snap := [], bad := none, moved := 0, counted := 0, host := .idle, pushed := s.cycle }))

/-! ### Gathers (R257, R376 to R378) -/

/-- The indices of a gather, cluster by cluster. -/
def State.indices (s : State) (v : VReg) (n : Nat) : List Nat :=
  (List.range 8).flatMap (fun c => (List.range n).map (fun i => elem (s.rv v c) 32 i))

/-- R376 to R378. -/
def execGthr (v : VReg) (b : SReg) (w : Width) (s : State) : Res :=
  let x := s.cx
  let base := (s.rs b).toNat
  let n := if w.bytes = 8 then 32 else 64
  let ix := s.indices v n
  let sp := engIsSp base
  let addrs := ix.map (fun i => if i = 0xFFFFFFFF then none else some ((if sp then engSp base else base) + i * w.bytes))
  let hit := addrs.filterMap id
  .next (s.check (decide (8 ≤ x.gathers.length)) 0x209 0 fun s =>
    s.check (decide (base % w.bytes ≠ 0)) 0x208 base fun s =>
      let enter := fun (bad : Option Nat) (results : Option (List Nat)) (s : State) => s.pushed fun seq x =>
        { x with gathers := x.gathers ++ [{ seq := seq, post := true, wbytes := w.bytes, addrs := addrs
                                            results := results, bad := bad, nonNull := hit.length, host := .idle }] }
      if sp then
        match x.spBadRange (((engSp base : Int), 0) :: hit.map (fun (a : Nat) => ((a : Int), w.bytes))) with
        | some a => s.raise 0x100 (spEaddr a)
        | none =>
          let bad := (hit.find? (fun a => s.tl.eccRead [(a, w.bytes)])).map (fun (a : Nat) => spEaddr a)
          enter bad (if bad.isSome then none
            else some (addrs.map (fun a => match a with | none => 0 | some a => readLE s.tl.sp a w.bytes))) s
      else
        let fs := (List.range hit.length).zip hit
        s.checkParts (fs.flatMap (fun p => x.rangeFaults .gather (p.2 : Nat) w.bytes p.1 (w.bytes + 1))) fun s => enter none none s)

/-! ### Larder words (R220 to R225, R382 to R384, R388, R390) -/

/-- A push enters the cell queue (R383). -/
def State.enterCells (s : State) (colour : Nat) (op : CellOp) : State :=
  s.gatePush fun s => s.pushed fun seq x =>
    { x with cells := x.cells ++ [{ seq := seq, held := true, post := true, colour := colour, op := op, gone := 0 }] }

/-- R382 to R384. -/
def execLadd (v i : VReg) (p : SReg) (col : Colour) (s : State) : Res :=
  let base := (s.rs p).toNat
  let items := ((s.indices i 64).zip (s.indices v 64)).filter (fun q => q.1 != 0xFFFFFFFF)
  let cells := items.map (fun q => (base + 32 * q.1, q.2))
  let x := s.cx
  .next (s.check (decide (base % 32 ≠ 0)) 0x188 base fun s =>
    s.checkParts (((List.range cells.length).zip cells).flatMap (fun q => x.rangeFaults .cellAdd (q.2.1 : Nat) 32 q.1 64)) fun s =>
      s.enterCells col.val (.ladd cells))

/-- R388, R221. A count of zero does nothing. -/
def execLinit (a n : SReg) (col : Colour) (s : State) : Res :=
  let base := (s.rs a).toNat
  let cnt := (s.rs n).toNat
  .next (if cnt = 0 then s
    else s.check (decide (base % 32 ≠ 0 ∨ 2 ^ 27 < cnt)) 0x188 base fun s =>
      s.checkParts (s.cx.rangeFaults .cellInit base (32 * cnt) 0 32) fun s => s.enterCells col.val (.linit base cnt))

/-- R390, R225. A count of zero does nothing. -/
def execLraw (a b n : SReg) (s : State) : Res :=
  let src := (s.rs a).toNat
  let dst := (s.rs b).toNat
  let cnt := (s.rs n).toNat
  .next (if cnt = 0 then s
    else s.check (decide (src % 32 ≠ 0)) 0x188 src fun s =>
      s.check (decide (dst % 32 ≠ 0)) 0x188 (spEaddr dst) fun s =>
        match s.cx.spBadRange [((dst : Int), 0), ((dst : Int), 32 * cnt)] with
        | some c => s.raise 0x100 (spEaddr c)
        | none => s.checkParts (s.cx.rangeFaults .cellRaw src (32 * cnt) 0 32) fun s => s.enterCells 0 (.lraw src dst cnt))

/-! ### Collectives (R259, R260, R358 to R360) -/

/-- The types that an operation allows (R259). -/
def collTypeOk (op ty : Nat) : Bool :=
  let int := (decide (8 ≤ ty ∧ ty ≤ 13) || ty == 15)
  if op ≤ 2 then decide (ty ≤ 2) || int
  else if op ≤ 5 then int
  else true

/-- The element type of a type code of R134. -/
def tyOfCode : Nat → ETy
  | 0 => .f32 | 1 => .f16 | 2 => .bf16 | 3 => .e4m3 | 4 => .e5m2 | 5 => .e3m2 | 6 => .e2m3 | 7 => .e2m1
  | 8 => .s32 | 9 => .z32 | 10 => .s16 | 11 => .z16 | 12 => .s8 | 13 => .z8 | 14 => .s4 | _ => .s64

/-- Bytes of a collective's source and destination. -/
def collBytes (ty count : Nat) : Nat := count * (tyOfCode ty).cw / 8

/-- A range whose bytes below 0x30_0000 leave the assignment (R360). -/
def Ctx.spLeaves (x : Ctx) (a n : Nat) : Bool :=
  let m := min n (0x300000 - a)
  decide (m ≠ 0) && !x.spOk a m

/-- A collective descriptor: its four words (R259). -/
structure CollDesc where
  w0 : Nat
  w1 : Nat
  w2 : Nat
  w3 : Nat
  deriving DecidableEq, Repr

def collDesc (sp : Memory) (sa : Nat) : CollDesc := ⟨readLE sp sa 8, readLE sp (sa + 8) 8, readLE sp (sa + 16) 8, readLE sp (sa + 24) 8⟩
def CollDesc.op (d : CollDesc) : Nat := bits d.w0 60 4
def CollDesc.ty (d : CollDesc) : Nat := bits d.w0 56 4
def CollDesc.level (d : CollDesc) : Nat := bits d.w0 54 2
def CollDesc.rootY (d : CollDesc) : Nat := bits d.w0 44 4
def CollDesc.rootX (d : CollDesc) : Nat := bits d.w0 40 4
def CollDesc.count (d : CollDesc) : Nat := bits d.w0 0 32
def CollDesc.src (d : CollDesc) : Nat := d.w1 % 2 ^ 22
def CollDesc.dst (d : CollDesc) : Nat := d.w2 % 2 ^ 22

/-- A descriptor breaks R259 or R360. -/
def CollDesc.bad (d : CollDesc) (x : Ctx) : Bool :=
  let n := collBytes d.ty d.count
  let unit := max 1 ((tyOfCode d.ty).cw / 8)
  decide (6 < d.op) || !collTypeOk d.op d.ty || d.count == 0
    || (d.op == 6 && (tyOfCode d.ty).cw == 4 && d.count % 2 == 1)
    || bits d.w0 48 6 != 0 || bits d.w0 32 8 != 0 || bits d.w1 22 42 != 0 || bits d.w2 22 42 != 0 || d.w3 != 0
    || d.src % unit != 0 || d.dst % unit != 0 || decide (0x300000 < d.src + n ∨ 0x300000 < d.dst + n)
    || (d.op == 6 && decide (x.nrows ≤ d.rootY ∨ x.ncols ≤ d.rootX))

/-- R358 to R360. -/
def execColl (a : SReg) (col : Colour) (s : State) : Res :=
  let sa := (s.rs a).toNat
  let d := collDesc s.issue.sp0 sa
  let n := collBytes d.ty d.count
  let x := s.cx
  .next (s.check (decide (sa % 32 ≠ 0)) 0x20B (spEaddr sa) fun s =>
    s.checkSp [((sa : Int), 32)] fun s =>
      s.check (x.spLeaves d.src n || x.spLeaves d.dst n) 0x100 (spEaddr (if x.spLeaves d.src n then d.src else d.dst)) fun s =>
        s.check (eccRead s.issue.bad0 [(sa, 32)]) 0x103 (spEaddr sa) fun s =>
          s.check (d.bad x) 0x20B (spEaddr sa) fun s =>
            s.check (decide (4 ≤ x.colls.length)) 0x20C 0 fun s =>
              let members := s.domain s.issue.ctx d.level
              s.pushed fun seq x =>
                let x := { x.releaseAll with cmt := true }
                let ord := mgetD x.collNext d.level 0
                { x with collNext := mput x.collNext d.level (ord + 1)
                         colls := x.colls ++ [{ seq := seq, post := true, colour := col.val, op := d.op, ty := d.ty
                                                level := d.level, count := d.count, rootY := d.rootY, rootX := d.rootX
                                                src := d.src, dst := d.dst, ordinal := ord, snap := readLE s.tl.sp d.src n
                                                members := members, bad := s.tl.firstBad [(d.src, n)], st := .pending }] })

/-! ### Hints (R185, R190, R412) -/

/-- The sectors of device pages that parts touch, and the lines of their other pages. -/
def hintSectors (ps : List Part) : List HintUnit :=
  ps.flatMap (fun p => match p.ent with
    | none => []
    | some e => if entRoute e = 0 then (sectorsOf (entPhys e p.va) p.n).map (fun u => ⟨u, entKey e, entPolicy e⟩) else [])
def hintLines (ps : List Part) : List Nat :=
  ps.flatMap (fun p => match p.ent with
    | none => []
    | some e => if entRoute e = 0 then [] else sectorsOf (entPhys e p.va) p.n)

/-- A part on which a hint of a kind is dropped. -/
def hintDrops (kind : PfhKind) (p : Part) : Bool :=
  match p.ent with
  | none => true
  | some e => !entR e || entType e == 3 || entState e == 2 ||
      (if kind = .pf then entRoute e == 1 else entRoute e != 0)

/-- A hint pins a sector that the SLC holds, within the tenant's quota and the device limit (R184, R185). -/
def State.hintPin (s : State) (fn : Nat) (u : HintUnit) : State :=
  let room := decide (s.pins fn < (s.tenant fn).pinQuota ∧ s.pinsAll < pinMax)
  { s with slc := mmodify s.slc u.sec (fun q =>
      if q.pinned.isNone && room then { q with key := u.key, policy := 2, pinned := some fn } else q) }

/-- What a hint of a kind does with a sector once its request is admitted. A sector whose key does not fit is neither filled nor
pinned (log 56). -/
def State.hintUnit (s : State) (fn : Nat) (kind : PfhKind) (u : HintUnit) : State :=
  match kind with
  | .pf => if (mfind s.slc u.sec).isSome || !s.keyFits u.key u.sec then s else s.fill fn ⟨u.sec, u.key, u.policy, false⟩
  | .res =>
    if !s.keyFits u.key u.sec then s
    else if (mfind s.slc u.sec).isSome then s.hintPin fn u
    else s.fill fn ⟨u.sec, u.key, 2, false⟩
  | .rel => { s with slc := mmodify s.slc u.sec (fun q => if q.pinned = some fn then { q with pinned := none } else q) }

/-- A hint without the sectors that it has done; none are left of a hint that is over. -/
def Hint.without (h : Hint) (secs : List Nat) : Option Hint :=
  let rest := h.units.filter (fun u => !secs.contains u.sec)
  if rest.isEmpty then none else some { h with units := rest }

/-- A port has admitted a request: where it is a hint's, the sectors that it names are filled, pinned or released. -/
def State.hintAdmit (s : State) (c : Nat) (seq : Option Nat) (secs : List Nat) : State :=
  match s.hints.find? (fun h => h.ctx == c && seq == some h.seq) with
  | none => s
  | some h =>
    let s := (h.units.filter (fun u => secs.contains u.sec)).foldl (fun (s : State) u => s.hintUnit h.fn h.kind u) s
    { s with hints := s.hints.filterMap (fun g => if g = h then h.without secs else some g) }

/-- Pins that a hint would add, beside those of the tenant's hints still to come, exceed the quota (R185). -/
def State.overQuota (s : State) (fn : Nat) (us : List HintUnit) : Bool :=
  let coming := (s.hints.filter (fun h => h.fn == fn && h.kind == .res)).flatMap (·.units)
  let new := (((us ++ coming).map (·.sec)).eraseDups.filter (fun sec => match mfind s.slc sec with
    | some q => q.pinned.isNone
    | none => true)).length
  decide ((s.tenant fn).pinQuota < s.pins fn + new)

/-- A hint asks for lines of host-cache pages at once, and its sectors of device pages join the queues at the ports. -/
def State.hint (s : State) (kind : PfhKind) (ps : List Part) : State :=
  let x := s.cx
  let us := hintSectors ps
  let s := ((hintLines ps).filter (fun l => (mfind s.attic l).isNone)).foldl (fun (s : State) l => s.askLine x.tenant (l, false)) s
  if us.isEmpty then s
  else
    { (s.enqueueAs s.issue.ctx (some x.seq) x.cls (us.map (·.sec))).setCx { x with seq := x.seq + 1 } with
      hints := s.hints ++ [⟨s.issue.ctx, x.seq, x.tenant, kind, us⟩] }

/-- R412, R185. -/
def execPfh (a b : SReg) (kind : PfhKind) (s : State) : Res :=
  let x := s.cx
  let len := (s.rs b).toNat
  let ps := x.parts (s.rs a).toNat len
  let drop := decide (len = 0 ∨ 2 ^ 32 < len) || ps.any (hintDrops kind) || (kind == .res && s.overQuota x.tenant (hintSectors ps))
  .next (if drop then s.pend 2 .hint 1 1 else s.hint kind ps)

/-! ### Draining the accumulators (R244 to R248, R391 to R393, R396 to R398) -/

/-- Four drain pushes are outstanding (R248). -/
def Ctx.drainFull (x : Ctx) : Bool := decide (4 ≤ x.drains.length)

/-- One row of an accumulator tile as it stands. -/
def Tile.accRow (t : Tile) (phys r : Nat) : Nat := (mgetD t.acc (128 * phys + r) 0#4096).toNat

/-- A drain reads its rows on the cycles that follow; a later write of the tile waits for them (R244). -/
def State.startDrain (s : State) (phys rsel : Nat) : State :=
  let t := s.tl
  let s := s.setTl { t with accRead := t.accRead.filter (fun r => decide (s.cycle < r.2)) ++ [(phys, s.cycle + 2 + rsel / 4)] }
  s.xStart { s.xOp .drain with acc := phys, lands := s.cycle + 2 + rsel / 4 }

/-- One converted element of MDRN (R245, R397). -/
def drainElem (prof : Nat) (clamp : Bool) (ty : ETy) (mode : RMode) (iov : Bool) (u pat : Nat) : Nat × Flags :=
  let x := if prof = 3 then XVal.ofInt (sextN 32 pat) else decodeFloat F32 pat
  match x with
  | .nan s => if clamp then ((convert ty mode u iov (prof == 3) XVal.zero).1, fINV) else convert ty mode u iov (prof == 3) (.nan s)
  | .inf n =>
    if clamp then
      (match ffmt ty with
        | some f => withSign f n (maxMag f)
        | none => truncI ty.cw (if n then intLo ty else intHi ty), fSAT)
    else convert ty mode u iov (prof == 3) (.inf n)
  | .fin n m e => convert ty mode u iov (prof == 3) (.fin n m e)

/-- The mode of a drain control word (R105). -/
def modeOf : Nat → RMode
  | 0 => .rne | 1 => .rtz | 2 => .rdn | 3 => .rup | _ => .sr

/-- Fields of the control word of MDRN (R397). -/
def drnTy (cw : Nat) : ETy := tyOfCode (bits cw 0 4)
def drnToReg (cw : Nat) : Bool := tbit cw 8
def drnReg (cw : Nat) : Nat := bits cw 9 6
def drnStride (cw : Nat) : Nat := bits cw 16 16
/-- Bytes of a converted row, and v registers of `rsel` rows. -/
def drnRowBytes (cw : Nat) : Nat := 16 * (drnTy cw).cw
def drnRegs (cw rsel : Nat) : Nat := rsel * drnRowBytes cw / 2048

/-- The operands of MDRN break R397. -/
def mdrnBad (sa cw rsel : Nat) : Bool :=
  decide (2 ^ 32 ≤ cw) || tbit cw 15 || decide (4 < bits cw 4 3) || decide (drnStride cw % 4 ≠ 0)
    || (!drnToReg cw && decide (sa % 4 ≠ 0)) || (drnToReg cw && decide (63 < drnReg cw + drnRegs cw rsel - 1))

/-- Element `c` of row `r` of an accumulator tile as MDRN converts it (R397). -/
def State.mdrnElem (s : State) (cw phys : Nat) (clamp : Bool) (r c : Nat) : Nat × Flags :=
  drainElem s.issue.prof clamp (drnTy cw) (modeOf (bits cw 4 3)) (tbit cw 7) (s.draw 8 (128 * r + c))
    (elem (s.tl.accRow phys r) 32 c)

/-- One converted row, packed, with its flags. -/
def State.mdrnRow (s : State) (cw phys : Nat) (clamp : Bool) (r : Nat) : Nat × Flags :=
  (List.range 128).foldr (fun c (acc : Nat × Flags) =>
    let y := s.mdrnElem cw phys clamp r c
    (y.1 % 2 ^ (drnTy cw).cw + 2 ^ (drnTy cw).cw * acc.1, y.2 ||| acc.2)) (0, 0#5)

/-- R396 to R398. -/
def execMdrn (acc : ATile) (a b : SReg) (clamp : Bool) (quarters : BitVec 4) (s : State) : Res :=
  let cw := (s.rs b).toNat
  let sa := (s.rs a).toNat
  let rows := quarterRows quarters
  let rsel := rows.length
  let rowBytes := drnRowBytes cw
  let nregs := drnRegs cw rsel
  .next (s.xAcc acc fun s =>
    s.check (mdrnBad sa cw rsel) 0x090 0 fun s =>
      s.check (!drnToReg cw && s.cx.drainFull) 0x20F 0 fun s =>
        let phys := s.cx.phys acc
        let conv := rows.map (s.mdrnRow cw phys clamp)
        let flags := conv.foldl (fun f r => f ||| r.2) 0#5
        if drnToReg cw then
          let stream := conv.foldr (fun r acc => r.1 + 2 ^ (8 * rowBytes) * acc) 0
          let s := (List.range nregs).foldl (fun s i => s.needUndo (.v (drnReg cw + i))) s
          let s := (List.range nregs).foldl (fun s i => (List.range 8).foldl (fun s c =>
            s.pend (6 + rsel / 4) (.v (drnReg cw + i) c) (ones 2048) (stream / 2 ^ (2048 * (8 * i + c)) % 2 ^ 2048)) s) s
          (s.startDrain phys rsel).writeFlags (6 + rsel / 4) flags
        else
          s.checkSp ((List.range rsel).map (fun i => ((sa + i * drnStride cw : Nat), rowBytes))) fun s =>
            s.gatePush fun s =>
              let s := s.pushed fun seq x =>
                { x with drains := x.drains ++ [{ seq := seq, held := true, post := true, accd := false, prof := s.issue.prof
                                                  clamp := clamp, base := 2 ^ 63 + sa, stride := drnStride cw, rowBytes := rowBytes
                                                  rows := (List.range rsel).zip (conv.map (·.1))
                                                  ready := s.cycle + 2 + rsel / 4, host := .idle }] }
              (s.startDrain phys rsel).writeFlags (2 + rsel / 4) flags)

/-- Bytes of a destination row of MACCD: 128 cells on larder pages, else 128 words (R223, R247). -/
def Ctx.accdRow (x : Ctx) (va : Int) : Nat := if x.touchesLarder va 1 then 4096 else 512

/-- Faults of one destination row of MACCD in the virtual space (R393). A row that touches a larder page beside a program or cellar page
raises 0x182 or 0x187 for that page where it comes first, as R179 and R226 give it, although R223 gives 0x186 for a row that is not
wholly on larder pages: which of the two stands is the model's choice (log 42). -/
def Ctx.accdFaults (x : Ctx) (pos : Nat) (va : Int) : List PartFault :=
  let larder := x.touchesLarder va 1
  (x.parts va (x.accdRow va)).flatMap (fun p =>
    let pos := pos + p.offset va
    p.fault .accum pos ++
    match p.ent with
    | none => []
    | some e =>
      if (entType e == 1) != larder then [⟨pos, 0x186, p.va⟩]
      else if entType e = 0 ∧ entRoute e ≠ 0 then [⟨pos, 0x182, p.va⟩]
      else [])

/-- R391 to R393. -/
def execMaccd (acc : ATile) (a b : SReg) (clamp : Bool) (quarters : BitVec 4) (s : State) : Res :=
  let sa := (s.rs a).toNat
  let sb := (s.rs b).toInt
  let rows := quarterRows quarters
  let sp := engIsSp sa
  .next (s.xAcc acc fun s =>
    s.check (decide (sa % 4 ≠ 0 ∨ sb % 4 ≠ 0 ∨ sb < -(2 ^ 31) ∨ 2 ^ 31 ≤ sb)) 0x091 0 fun s =>
      s.check s.cx.drainFull 0x20F 0 fun s =>
        let x := s.cx
        let phys := x.phys acc
        let at' := fun (r : Nat) => ((if sp then engSp sa else sa : Nat) : Int) + r * sb
        let enter := fun (s : State) => s.gatePush fun s =>
          let s := s.pushed fun seq x =>
            { x with drains := x.drains ++ [{ seq := seq, held := true, post := true, accd := true, prof := s.issue.prof
                                              clamp := clamp, base := sa, stride := sb, rowBytes := 512
                                              rows := rows.map (fun r => (r, s.tl.accRow phys r))
                                              ready := s.cycle + 2 + rows.length / 4, host := .idle }] }
          s.startDrain phys rows.length
        if sp then
          s.check (decide (2 ^ 22 ≤ engSp sa)) 0x100 (spEaddr (engSp sa)) fun s =>
            s.checkSp (rows.map (fun r => (at' r, 512))) enter
        else
          s.check (decide (sa % 32 ≠ 0 ∨ sb % 32 ≠ 0) && rows.any (fun r => x.touchesLarder (at' r) 1)) 0x188 sa fun s =>
            s.checkParts (rows.flatMap (fun r => x.accdFaults (4096 * r) (at' r))) enter)

end Sys2Proof.Machine
end

