-- ==== Sys2Proof/Machine/WaitOps.lean ====
section
/-! DEFINITION. The words of slot C that wait for engines or pop their results: FENCE, DRAIN, SYNC, XPTR, XWAIT, GPOP and
CPOP (R203 to R209, R258, R262, R281, R361, R362, R364 to R367, R370, R374, R375, R421 to R423, R465 to R467). -/

namespace Sys2Proof.Machine

/-! ### What FENCE and DRAIN wait for -/

/-- A record writes this tile's scratchpad (R205): a plain destination, an old value, or an atomic's word in it. -/
def CopyRec.writesLocal (r : CopyRec) : Bool :=
  (decide (r.kind ≤ 4) && r.dloc == .sp) || (r.kind == 4 && !r.nores) || r.kind == 6

/-- A record makes remote stores (R192, R461): a larder add and an AMOG always, another record unless it writes this tile's own
scratchpad. -/
def CopyRec.writesRemote (r : CopyRec) : Bool := decide (4 < r.kind) || r.dloc != .sp

def CellOp.isRaw : CellOp → Bool
  | .lraw _ _ _ => true
  | _ => false

/-- Covered by a wait: pushed before `limit` with a colour in the mask. -/
def covers (mask limit seq colour : Nat) : Bool := decide (seq < limit) && inMask mask colour

/-- Every engine-side local access of the records covered has performed (R205, R370). -/
def Ctx.fenceDone (x : Ctx) (mask limit : Nat) : Bool :=
  !x.recs.any (fun r => covers mask limit r.seq r.colour && r.writesLocal)
  && !x.cells.any (fun r => covers mask limit r.seq r.colour && r.op.isRaw)
  && !x.drains.any (fun r => covers mask limit r.seq 0 && engIsSp r.base)
  && !x.colls.any (fun r => covers mask limit r.seq r.colour && r.st == CollState.pending)

/-- Every remote store of the records covered has performed at a scope (R206, R207, R365). -/
def Ctx.drainDone (x : Ctx) (sc : Scope) (mask limit : Nat) : Bool :=
  !x.recs.any (fun r => covers mask limit r.seq r.colour && r.writesRemote)
  && !x.cells.any (fun r => covers mask limit r.seq r.colour && !r.op.isRaw)
  && !x.drains.any (fun r => covers mask limit r.seq 0 && !engIsSp r.base)
  && (sc != .system || !x.posted.any (fun p => covers mask limit p.seq p.colour))

/-- The waits of SYNC over the records pushed before `limit` (R209). -/
def Ctx.syncDone (x : Ctx) (mask limit : Nat) : Bool :=
  mask == 0 || (x.fenceDone mask limit && x.drainDone .region mask limit)

/-- A push before `limit` with a colour in the mask is held (R422). -/
def Ctx.heldIn (x : Ctx) (mask limit : Nat) : Bool := !(x.coveredHeld mask limit).isEmpty

/-- A context waits no longer. A SYNC hold ends by a step of its own; the wait of R283 ends once the page is not in transit. -/
def Ctx.waitOver (x : Ctx) : Bool :=
  match x.wait with
  | .none => true
  | .fence m l => x.fenceDone m l
  | .drain sc m l => x.drainDone sc m l
  | .hold _ => false
  | .transit va => match x.pageOf va with
    | some e => entState e != 2
    | none => true

/-! ### The words -/

/-- R370, R281. A strict context tests the condition on the due cycle and holds no later bundle. -/
def execFence (mask : BitVec 8) (s : State) : Res :=
  let x := s.cx
  let m := mask.toNat
  .next (if x.strictNow then
      s.check (!x.fenceDone m x.seq) 0x281 0 fun s => s.setCx (s.cx.releaseColours m s.cx.seq)
    else s.setCx { x.releaseColours m x.seq with wait := .fence m x.seq })

/-- R364, R365, R281. -/
def execDrain (sc : Scope) (mask : BitVec 8) (s : State) : Res :=
  let x := s.cx
  let m := mask.toNat
  .next (if x.strictNow then
      s.check (!x.drainDone sc m x.seq) 0x281 0 fun s => s.setCx (s.cx.releaseColours m s.cx.seq)
    else s.setCx { x.releaseColours m x.seq with wait := .drain sc m x.seq })

/-- The release that SYNC makes when it is next to issue: every push held before its bundle (R281, R422). -/
def Ctx.syncRelease (x : Ctx) (mask limit : Nat) : Ctx :=
  { (if mask = 0 then x else x.releaseWhere (fun n => decide (n < limit))) with cmt := true }

/-- The context arrives at its domain of a level under DMR in force on this cycle (R62, R422). -/
def Ctx.arrive (x : Ctx) (level mask now : Nat) : Ctx :=
  { x with wait := .hold ⟨level, mask, x.dmr, now, 0, []⟩ }

/-- R421, R422: the context arrives at its domain of the level and holds. An elastic SYNC issues only when its waits are over
(R209); a strict one tests them, over the records of earlier bundles, on its due cycle. -/
def execSync (level : Fin 4) (mask : BitVec 8) (s : State) : Res :=
  let x := s.cx
  let m := mask.toNat
  let n := s.issue.seq0
  .next (s.check (x.strictNow && (!x.syncDone m n || x.heldIn m n)) 0x281 0 fun s =>
    s.setCx ((s.cx.syncRelease m n).arrive level.val m s.cycle))

/-- R465, R466. -/
def execXptr (d : SReg) (ch : Chan) (s : State) : Res :=
  .next (s.writeS 2 d (BitVec.ofNat 64 (mgetD s.cx.done ch.val 0)))

/-- R467, R463. In an elastic context an unsatisfied XWAIT only releases and waits. -/
def execXwait (a : SReg) (ch : Chan) (s : State) : Res :=
  let x := s.cx
  let ok := decide ((s.rs a).toNat ≤ mgetD x.done ch.val 0)
  .next (
    if ok then s.setCx (x.releaseChan ch.val)
    else
      match mfind x.stopped ch.val with
      | some code => s.raise code 0
      | none => if x.strictNow then s.raise 0x281 0 else s.setCx (x.releaseChan ch.val))

/-- A little-endian value into the eight clusters of a v register (R258, R262). -/
def State.writeWhole (s : State) (v : VReg) (img : Nat → Nat) : State :=
  (List.range 8).foldl (fun s c => s.writeV 2 v c (ones 2048) (img c)) (s.needUndo (.v v.val))

/-- R374, R375. -/
def execGpop (v : VReg) (d : SReg) (s : State) : Res :=
  let x := s.cx
  .next (match x.gathers with
    | [] => s.raise 0x20A 0
    | g :: rest =>
      match g.results with
      | none => if x.strictNow then s.raise 0x281 0 else s
      | some rs =>
        let n := rs.length / 8
        let s := s.setCx { x with gathers := rest, cmt := true }
        let s := s.writeWhole v (fun c =>
          ((rs.drop (n * c)).take n).foldr (fun r acc => r % 2 ^ (8 * g.wbytes) + 2 ^ (8 * g.wbytes) * acc) 0)
        s.writeS 2 d (BitVec.ofNat 64 g.nonNull))

/-- A fault with which the oldest COLL leaves its queue (R361). -/
def State.raisePop (s : State) (code : Nat) : State :=
  match s.issue.raised with
  | some _ => s
  | none => { s with issue := { s.issue with raised := some ⟨code, 0, s.issue.slot.num, true⟩ } }

/-- R361, R362. -/
def execCpop (v : VReg) (d : SReg) (s : State) : Res :=
  let x := s.cx
  .next (match x.colls with
    | [] => s.raise 0x20D 0
    | r :: rest =>
      match r.st with
      | .pending => if x.strictNow then s.raise 0x281 0 else s
      | .mismatch => s.raisePop 0x20E
      | .done =>
        let n := min 2048 (collBytes r.ty r.count)
        let img := readLE s.issue.sp0 r.dst n
        let s := s.setCx { x with colls := rest, cmt := true }
        let s := s.writeWhole v (fun c => img / 2 ^ (2048 * c) % 2 ^ 2048)
        s.writeS 2 d (BitVec.ofNat 64 r.count))

end Sys2Proof.Machine
end

