-- ==== Sys2Proof/Machine/Perform.lean ====
section
/-! DEFINITION. The engines at work: copy records, atomics, the cell queue, gathers, collectives, drain pushes and the
overlay engine (R202, R207, R211, R212, R218, R221, R225, R246, R247, R251 to R261, R268, R270, R324, R325, R463), and the
answers of the host to them. A step whose engine has nothing to perform changes nothing. -/

namespace Sys2Proof.Machine

/-! ### Monitors (R339) -/

/-- The bin of a sample. -/
def monitorBin (v : Nat) : Nat := min 15 (bitLen v)

/-- A sample enters a unit. -/
def Monitor.sample (m : Monitor) (v : Nat) : Monitor :=
  { m with min := Nat.min m.min v, max := Nat.max m.max v
           bins := (List.range 16).map (fun i => let b := m.bins.getD i 0
             if i = monitorBin v then Nat.min 0xFFFFFFFF (b + 1) else b) }

/-- A sample of a quantity of a context: 0 wait, 1 copy latency, 2 stamp slack, 3 cadence, 4 rail level. -/
def State.sample (s : State) (c quantity v : Nat) : State :=
  let t := s.tile (tileOf c)
  if t.monitors.all (fun m => m.on != some (planeOf c, quantity)) then s
  else s.setTile (tileOf c) { t with monitors := t.monitors.map (fun m =>
    if m.on = some (planeOf c, quantity) then m.sample v else m) }

/-! ### Records: lengths and ends -/

def CopyRec.rowsOf (r : CopyRec) : List (Nat × Int × Int) :=
  if r.n0 = 0 then [] else recRows r.n1 r.n2 r.src r.dst r.ss1 r.ss2 r.ds1 r.ds2

/-- Destination bytes of one row, and the stream length (R251). -/
def CopyRec.rowLen (r : CopyRec) : Nat := if r.conv then r.n0 / 8 else r.n0
def CopyRec.width (r : CopyRec) : Nat := if r.wide then 8 else 4
def CopyRec.stream (r : CopyRec) : Nat :=
  match r.kind with
  | 4 => if r.nores then 0 else r.width
  | 5 => 8 * r.n0
  | 6 => r.width
  | _ => r.rowLen * r.n1 * r.n2

/-- A fault of an engine waits for a boundary (R277). -/
def Ctx.addFault (x : Ctx) (code eaddr : Nat) (post : Bool) (ch : Option Nat) (seq colour : Nat) : Ctx :=
  { x with engFaults := x.engFaults ++ [⟨code, eaddr, post, ch, seq, colour, false⟩] }

/-- A channel whose fault has not been delivered performs nothing (R463). -/
def Ctx.chanFaulted (x : Ctx) (ch : Nat) : Bool := x.engFaults.any (fun f => f.ch == some ch)

/-- The record next to perform on a channel. -/
def Ctx.headRec (x : Ctx) (ch : Nat) : Option CopyRec :=
  if x.chanFaulted ch then none
  else
    match x.recs.find? (fun r => r.ch == ch) with
    | some r => if r.held then none else some r
    | none => none

def Ctx.setRec (x : Ctx) (r : CopyRec) : Ctx := { x with recs := x.recs.map (fun q => if q.seq = r.seq then r else q) }
def Ctx.dropRec (x : Ctx) (seq : Nat) : Ctx := { x with recs := x.recs.filter (fun q => q.seq != seq) }

/-- A record fails after its push. -/
def State.failRec (s : State) (c : Nat) (r : CopyRec) (code eaddr : Nat) : State :=
  s.setCtx c (((s.ctx c).dropRec r.seq).addFault code eaddr r.post (some r.ch) r.seq r.colour)

/-- DONE of a channel grows (R202). -/
def Ctx.deliverDone (x : Ctx) (ch n : Nat) : Ctx := { x with done := mput x.done ch ((mgetD x.done ch 0 + n) % 2 ^ 64) }

/-- A record is complete; a host-io write leaves the read behind it to come (R207). -/
def State.finishRec (s : State) (c : Nat) (r : CopyRec) (io : Option Nat) : State :=
  let x := (s.ctx c).dropRec r.seq
  let x := match io with
    | some a => { x with posted := x.posted ++ [⟨r.seq, r.colour, s.cycle, a⟩] }
    | none => x
  (s.setCtx c x).sample c 1 (s.cycle - r.pushed)

/-! ### Sides of a record -/

/-- A byte of the source: of this tile as read at the push, of another tile, or of the virtual space. -/
def State.srcByte (s : State) (x : Ctx) (r : CopyRec) (a : Nat) : Byte :=
  match r.sloc with
  | .sp => mread r.snap a
  | .tile t => mread (s.tile t).sp a
  | .virt => s.vread x a

/-- Write a byte into a scratchpad. -/
def State.spSet (s : State) (t a : Nat) (b : Byte) : State :=
  let tl := s.tile t
  s.setTile t { tl with sp := mwrite tl.sp a b }

/-- Write `n` bytes into a scratchpad through the engine port. That even a whole word written so keeps its error mark is the model's
choice (log 66). -/
def State.spWriteLE (s : State) (t a n v : Nat) : State :=
  let tl := s.tile t
  s.setTile t { tl with sp := writeLE tl.sp a n v }

/-- What an update of this tile's scratchpad reads: the bytes as they stood before the stores that its context has issued since the push
(R200, R212). -/
def keptLE (sp : Memory) (ks : List Kept) (a n : Nat) : Nat :=
  if ks.isEmpty then readLE sp a n
  else (List.range n).foldr (fun i acc =>
    (((ks.find? (fun k => k.at' == a + i)).map (·.val)).getD (mread sp (a + i))).toNat + 256 * acc) 0

/-- A prior byte that a gate row keeps is replaced (R280). -/
def rowPatch (a : Nat) (b : Byte) (r : GateRow) : GateRow :=
  if r.row = a / 64 ∧ tbit r.mask (a % 64) then
    { r with prior := r.prior - r.prior / 2 ^ (8 * (a % 64)) % 256 * 2 ^ (8 * (a % 64)) + b.toNat * 2 ^ (8 * (a % 64)) }
  else r

/-- A byte of an update whose place a later store has taken: it lies under that store, where the other updates that keep it for the same
store find it, and a rollback of the store. -/
def Ctx.underStore (x : Ctx) (post : Bool) (k : Kept) (b : Byte) : Ctx :=
  let f := fun (ks : List Kept) => ks.map (fun q => if q.at' = k.at' ∧ q.when' = k.when' then { q with val := b } else q)
  { x with drains := x.drains.map (fun d => { d with kept := f d.kept }), recs := x.recs.map (fun r => { r with kept := f r.kept })
           rows := if k.post && !post then x.rows.map (rowPatch k.at' b) else x.rows }

/-- An update writes a value into this tile's scratchpad, before the stores that its context has issued since the push: their bytes
stand (R200, R212). -/
def State.ownUpdate (s : State) (c : Nat) (post : Bool) (ks : List Kept) (a n v : Nat) : State :=
  if ks.isEmpty then s.spWriteLE (tileOf c) a n v
  else (List.range n).foldl (fun (s : State) i =>
    let b := BitVec.ofNat 8 (v / 2 ^ (8 * i))
    match ks.find? (fun k => k.at' == a + i) with
    | some k => s.setCtx c ((s.ctx c).underStore post k b)
    | none => s.spSet (tileOf c) (a + i) b) s

def State.dstByte (s : State) (c : Nat) (x : Ctx) (r : CopyRec) (a : Nat) (b : Byte) : State :=
  match r.dloc with
  | .sp => s.spSet (tileOf c) a b
  | .tile t => s.spSet t a b
  | .virt => s.vwrite x a b

/-- Where byte `i` of the stream goes, and the source address of the byte, or of the cell that it is part of (R224, R251). -/
def CopyRec.dstAt (r : CopyRec) (i : Nat) : Nat := ((r.rowsOf.getD (i / r.rowLen) (0, 0, 0)).2.2 + (i % r.rowLen : Nat)).toNat
def CopyRec.srcAt (r : CopyRec) (i : Nat) : Nat :=
  let a := (r.rowsOf.getD (i / r.rowLen) (0, 0, 0)).2.1
  (if r.conv then a + 32 * (i % r.rowLen / 4 : Nat) else a + (i % r.rowLen : Nat)).toNat

/-- Move `n` bytes of the stream from byte `i` on. -/
def State.moveBytes (s : State) (c : Nat) (x : Ctx) (r : CopyRec) (i : Nat) : Nat → State
  | 0 => s
  | n + 1 => (s.dstByte c x r (r.dstAt i) (s.srcByte x r (r.srcAt i))).moveBytes c x r (i + 1) n

/-- Write the four bytes of a result. -/
def State.dstWord (s : State) (c : Nat) (x : Ctx) (r : CopyRec) (i v : Nat) : State :=
  (List.range 4).foldl (fun (s : State) j => s.dstByte c x r (r.dstAt (i + j)) (BitVec.ofNat 8 (v / 2 ^ (8 * j)))) s

/-- Convert `n` cells from byte `i` of the stream on: each cell is read once and gives four bytes (R212, R224). -/
def State.moveCells (s : State) (c : Nat) (x : Ctx) (r : CopyRec) (i : Nat) : Nat → State
  | 0 => s
  | n + 1 =>
    let a := r.srcAt i
    (s.dstWord c x r i ((s.cellAt x a).read (x.anchorAt a))).moveCells c x r (i + 4) n

/-- Move the bytes of the stream from `i` to `e`. -/
def State.moveTo (s : State) (c : Nat) (x : Ctx) (r : CopyRec) (i e : Nat) : State :=
  if r.conv then s.moveCells c x r i ((e - i) / 4) else s.moveBytes c x r i (e - i)

/-- A part of an aligned 8-byte word of the destination that one row writes, short of the whole word, from the same bytes of an aligned
8-byte word of the source: where it begins and ends in the stream, its first byte in the word, and the two words. -/
structure Shard where
  lo : Nat
  hi : Nat
  off : Nat
  dst : Int
  src : Int
  deriving DecidableEq, Repr

/-- The shards of a row, at its ends. -/
def CopyRec.rowShards (r : CopyRec) (row : Nat × Int × Int) : List Shard :=
  let pos := row.1 * r.rowLen
  let at' := fun (i n : Nat) => Shard.mk (pos + i) (pos + i + n) ((row.2.2 + i) % 8).toNat ((row.2.2 + i) / 8) ((row.2.1 + i) / 8)
  let head := min r.rowLen ((8 - (row.2.2 % 8).toNat) % 8)
  let tail := (r.rowLen - head) % 8
  if r.conv || (row.2.1 - row.2.2) % 8 != 0 then []
  else (if head = 0 then [] else [at' 0 head]) ++ (if tail = 0 then [] else [at' (r.rowLen - tail) tail])

/-- Where in the stream the words begin and end that several rows write whole from one word of the source (R198). -/
def CopyRec.joints (r : CopyRec) : List (Nat × Nat) :=
  let sh := r.rowsOf.flatMap r.rowShards
  (sh.filterMap (fun q =>
    let mine := sh.filter (fun p => p.dst == q.dst && p.src == q.src)
    if (List.range 8).all (fun i => mine.any (fun p => decide (p.off ≤ i ∧ i < p.off + (p.hi - p.lo)))) then
      some (mine.foldl (fun m p => min m p.lo) q.lo, mine.foldl (fun m p => max m p.hi) q.hi)
    else none)).eraseDups

/-- The next place from `e` on that no word lies across. -/
def pastJoints (js : List (Nat × Nat)) : Nat → Nat → Nat
  | 0, e => e
  | fuel + 1, e =>
    match js.find? (fun j => decide (j.1 < e ∧ e < j.2)) with
    | some j => pastJoints js fuel j.2
    | none => e

/-- The end of a chunk: at least `n` bytes on, and at a whole word of the destination, a whole cell or the row's end, where it lies
inside no word that the record writes whole from one word of the source (R198). `n` zero asks for all. -/
def CopyRec.chunkEnd (r : CopyRec) (n : Nat) : Nat :=
  if n = 0 then r.stream
  else
    let e := min r.stream (r.moved + n)
    let b := e % r.rowLen
    let row := r.rowsOf.getD (e / r.rowLen) (0, 0, 0)
    let up := if b = 0 then 0 else if r.conv then roundUp b 4 else b + (8 - ((row.2.2 + b) % 8).toNat) % 8
    let js := r.joints
    pastJoints js js.length (e - b + min r.rowLen up)

/-- The end of a chunk of `n` bytes: of a larder add, whole addends. -/
def CopyRec.chunkTo (r : CopyRec) (n : Nat) : Nat :=
  if r.kind = 5 then (if n = 0 then r.stream else min r.stream (r.moved + 32 * cdiv n 32)) else r.chunkEnd n

/-- Rows of a record still to move. -/
def CopyRec.left (r : CopyRec) : List (Nat × Int × Int) :=
  r.rowsOf.filter (fun row => decide (r.moved < (row.1 + 1) * r.rowLen))

/-- A piece of a record that is left before byte `stop` of its stream: the stream byte at which it begins, source and
destination with the bytes of each (R224, R251, R254). -/
structure Piece where
  pos : Nat
  src : Int
  srcN : Nat
  dst : Int
  dstN : Nat
  deriving DecidableEq, Repr

def CopyRec.srcPer (r : CopyRec) : Nat := if r.conv then 32 else if r.kind = 5 then 4 else 1
def CopyRec.dstPer (r : CopyRec) : Nat := if r.conv then 4 else if r.kind = 5 then 32 else 1

/-- Pieces: the rows of a copy, the addends of a larder add, the word of an atomic. -/
def CopyRec.pieces (r : CopyRec) (stop : Nat) : List Piece :=
  match r.kind with
  | 4 | 6 => [⟨0, r.src, 0, r.dst, r.width⟩]
  | 5 =>
    let k := r.moved / 32
    let n := min (r.n0 / 4) (cdiv stop 32) - k
    if n = 0 then [] else [⟨32 * k, (r.src + 4 * k : Nat), 4 * n, (r.dst + 32 * k : Nat), 32 * n⟩]
  | _ =>
    (r.left.filter (fun row => decide (row.1 * r.rowLen < stop))).map (fun row =>
      let gone := r.moved - row.1 * r.rowLen
      let n := min r.rowLen (stop - row.1 * r.rowLen) - gone
      ⟨row.1 * r.rowLen + gone, row.2.1 + (gone / r.dstPer * r.srcPer : Nat), cdiv n r.dstPer * r.srcPer, row.2.2 + gone, n⟩)

/-- What a piece needs. -/
def State.pieceNeed (s : State) (x : Ctx) (r : CopyRec) (p : Piece) : Need :=
  Need.join (if r.sloc = .virt then s.rangeNeed x true false p.src p.srcN else .none)
    (if r.dloc = .virt then s.rangeNeed x (decide (4 ≤ r.kind)) true p.dst p.dstN else .none)

/-- What a record still needs before byte `stop` of its stream. -/
def State.copyNeed (s : State) (x : Ctx) (r : CopyRec) (stop : Nat) : Need := Need.all ((r.pieces stop).map (s.pieceNeed x r))

/-- The lowest of some stream bytes at which a fault stands, with its cause and address. -/
def firstStop (fs : List (Nat × Nat × Nat)) : Option (Nat × Nat × Nat) :=
  fs.foldl (fun m f => match m with
    | none => some f
    | some g => if f.1 < g.1 then some f else some g) none

/-- The fault that a piece meets at the lowest stream byte (R189): of the virtual space, or an uncorrectable error in the
scratchpad of another tile (R173). -/
def State.pieceStop (s : State) (x : Ctx) (r : CopyRec) (p : Piece) : Option (Nat × Nat × Nat) :=
  let at' := fun (off : Nat) => p.pos + off / r.srcPer * r.dstPer
  let src := match r.sloc with
    | .virt => ((s.rangeNeed x true false p.src p.srcN).fault.map (fun f => (at' (f.2 - p.src.toNat), f))).toList
    | .tile t => ((s.tile t).bad.filter (fun w => decide (p.src < (8 * w + 8 : Nat) ∧ ((8 * w : Nat) : Int) < p.src + p.srcN))).map
        (fun w => (at' (8 * w - p.src.toNat), 0x103, spEaddr (max (8 * w) p.src.toNat)))
    | .sp => []
  let dst := if r.dloc = .virt then
      ((s.rangeNeed x (decide (4 ≤ r.kind)) true p.dst p.dstN).fault.map (fun f =>
        (p.pos + (f.2 - p.dst.toNat) / r.dstPer * r.dstPer, f))).toList
    else []
  firstStop (src ++ dst)

/-- Where a record stops, with the fault that what is left of it meets there: its whole length where it meets none (R181, R183,
R189, R463; log 43). -/
def State.copyStop (s : State) (x : Ctx) (r : CopyRec) : Nat × Option (Nat × Nat) :=
  match firstStop ((r.pieces r.stream).filterMap (s.pieceStop x r)) with
  | some f => (f.1, some f.2)
  | none => (r.stream, none)

/-- How far a record goes at once: to a stop, unless it touches more lines up to there than the attic holds; then as far as the next
64 bytes of its stream, whose lines it holds together (R24, R320). -/
def State.roomEnd (s : State) (x : Ctx) (r : CopyRec) (stop : Nat) : Nat :=
  if (s.copyNeed x r stop).reach.length ≤ Config.atticLines then stop else min stop (r.chunkTo 64)

/-- What a record needs before it can go on, its own fault apart. -/
def State.planNeed (s : State) (x : Ctx) (r : CopyRec) : Need :=
  { s.copyNeed x r (s.roomEnd x r (s.copyStop x r).1) with fault := none }

/-! ### What a record may not yet touch (R200, R344) -/

/-- A place in a memory: space 0 is device memory, 1 host memory, 2 + t the scratchpad of tile t. -/
structure Span where
  space : Nat
  a : Nat
  n : Nat
  deriving DecidableEq, Repr

def Span.meets (a b : Span) : Bool := a.space == b.space && decide (a.a < b.a + b.n ∧ b.a < a.a + a.n)

/-- The places of a virtual range. -/
def Ctx.spans (x : Ctx) (va : Int) (n : Nat) : List Span :=
  (x.parts va n).filterMap (fun p => p.ent.map (fun e => ⟨if entRoute e = 0 then 0 else 1, entPhys e p.va, p.n⟩))

/-- The places of one side of a record. -/
def Ctx.sideSpans (x : Ctx) (c : Nat) (loc : Loc) (rs : List (Int × Nat)) : List Span :=
  match loc with
  | .virt => rs.flatMap (fun w => x.spans w.1 w.2)
  | .tile t => rs.map (fun w => ⟨2 + t, w.1.toNat, w.2⟩)
  | .sp => rs.map (fun w => ⟨2 + tileOf c, w.1.toNat, w.2⟩)

/-- What a record still reads as it performs, and what it still writes. -/
def CopyRec.reads (r : CopyRec) (x : Ctx) (c : Nat) : List Span :=
  (if r.sloc = .sp then [] else x.sideSpans c r.sloc ((r.pieces r.stream).map (fun p => (p.src, p.srcN))))
    ++ if r.kind = 4 ∨ r.kind = 6 then x.sideSpans c r.dloc [((r.dst : Int), r.width)] else []
def CopyRec.writes (r : CopyRec) (x : Ctx) (c : Nat) : List Span :=
  x.sideSpans c r.dloc ((r.pieces (max 1 r.stream)).map (fun p => (p.dst, p.dstN)))
    ++ if r.kind = 6 ∨ (r.kind = 4 ∧ !r.nores) then [⟨2 + tileOf c, r.src, r.width⟩] else []

def GatherRec.reads (g : GatherRec) (x : Ctx) : List Span := (g.addrs.filterMap id).flatMap (fun (a : Nat) => x.spans a g.wbytes)

/-- A push that writes some places waits for an earlier gather or released record of its context that still reads one of
them: no read returns a store issued after its push (R200, R377). That the stores of later pushes are among these, and that the
reads of earlier LRAW and MACCD pushes are not ordered so, is the model's reading (log 66). -/
def Ctx.waitsEarlier (x : Ctx) (c seq : Nat) (ws : List Span) : Bool :=
  x.gathers.any (fun g => g.results.isNone && g.bad.isNone && decide (g.seq < seq)
      && !x.engFaults.any (fun f => f.ch.isNone && f.seq == g.seq) && (g.reads x).any (fun r => ws.any r.meets))
    || x.recs.any (fun q => !q.held && decide (q.seq < seq) && !x.chanFaulted q.ch && (q.reads x c).any (fun r => ws.any r.meets))

/-- A scratchpad bank among some places is reserved: the engine port waits for it (R263, R344). -/
def State.banksBusy (s : State) (ws : List Span) : Bool :=
  ws.any (fun w => decide (2 ≤ w.space) && (rangeRows (w.a, w.n)).any (fun r => s.reserved (w.space - 2) (bankOf r)))

/-- A record at the head of its channel has to wait on this cycle. -/
def State.recBlocked (s : State) (c : Nat) (x : Ctx) (r : CopyRec) : Bool :=
  s.banksBusy (r.reads x c ++ r.writes x c) || x.waitsEarlier c r.seq (r.writes x c)

def HostReq.isAnswered : HostReq → Bool
  | .answered _ => true
  | _ => false

/-- The requests of a record that goes on by parts begin anew for the next part. -/
def HostReq.renew (h : HostReq) (now : Nat) : HostReq :=
  match h with
  | .waiting _ => .idle
  | .answered _ => .answered now
  | h => h

/-- A request goes out once. -/
def HostReq.send (h : HostReq) (now : Nat) : HostReq :=
  match h with
  | .idle => .waiting now
  | h => h

/-- A record that cannot go on sends its requests and waits. -/
def State.waitRec (s : State) (c : Nat) (r : CopyRec) (nd : Need) : State :=
  let r := if nd.answer || !nd.lines.isEmpty then { r with host := r.host.send s.cycle } else r
  ((s.ask (s.ctx c).tenant nd).enqueue c (some r.seq) nd).setCtx c ((s.ctx c).setRec r)

/-- Go on with a record once nothing holds it: a fault ends it; a need, or a request not yet admitted, holds it. -/
def State.withNeed (s : State) (c : Nat) (r : CopyRec) (nd : Need) (k : State → State) : State :=
  match nd.fault with
  | some f => s.failRec c r f.1 f.2
  | none =>
    if nd.holds r.host.isAnswered || !s.admitted c (some r.seq) nd then s.waitRec c r nd
    else k (s.fillAll (s.ctx c).tenant nd)

/-- Addends `k` and on of a larder-add record (R254). -/
def State.addAddends (s : State) (x : Ctx) (r : CopyRec) (k : Nat) : Nat → State
  | 0 => s
  | n + 1 =>
    let f := (List.range 4).foldr (fun b acc => (s.srcByte x r (r.src + 4 * k + b)).toNat + 256 * acc) 0
    (s.cellPlus x (r.dst + 32 * k) (decodeFloat F32 f)).addAddends x r (k + 1) n

/-- The record as it stood when it began the row in which it stands. -/
def CopyRec.begun (r : CopyRec) : CopyRec := { r with moved := r.moved / r.rowLen * r.rowLen }

/-- Bytes of a record's stream move up to byte `e`; sectors that they complete lose their poison (R181). That a sector which only
several rows cover together is not written whole is the model's choice (log 43). -/
def State.moveRec (s : State) (c : Nat) (x : Ctx) (r : CopyRec) (e : Nat) : State :=
  if r.kind = 5 then s.addAddends x r (r.moved / 32) ((e - r.moved) / 32)
  else
    let s := s.moveTo c x r r.moved e
    if r.dloc = .virt then (r.begun.pieces e).foldl (fun s p => s.vcure x p.dst p.dstN) s else s

/-- The host-io address that a record has written. -/
def CopyRec.ioAt (r : CopyRec) (x : Ctx) : Option Nat :=
  if r.dloc = .virt ∧ r.kind ≤ 3 then
    (r.rowsOf.find? (fun row => x.touchesIo row.2.2 r.rowLen)).map (fun row => row.2.2.toNat)
  else none

/-- DONE comes to count a record's stream up to byte `e` (R202). -/
def State.countTo (s : State) (c : Nat) (r : CopyRec) (e : Nat) : State :=
  s.setCtx c ((s.ctx c).deliverDone r.ch (e - r.counted))

/-- A record has moved up to byte `e`, short of its end, and DONE counts what has moved, unless the record meets a fault beyond it (R202,
R463). Its requests begin anew where its next part has needs of its own. -/
def State.partDone (s : State) (c : Nat) (r : CopyRec) (e : Nat) (counts more : Bool) : State :=
  let s := if counts then s.countTo c r e else s
  s.setCtx c ((s.ctx c).setRec { r with moved := e, counted := if counts then e else r.counted
                                        host := if more then r.host.renew s.cycle else r.host })

/-- R202, R224, R251, R254: the record next on a channel moves `n` stream bytes, or all that are left when `n` is zero, and DONE
counts them; with its last byte it is complete. One that meets a memory error, a key alias or a link that is down moves the bytes
before it, advances DONE by none of them, and fails (R189, R463; log 43). -/
def execCopyRecordPerform (ctx : Nat) (ch : Chan) (n : Nat) (s : State) : Res :=
  let x := s.ctx ctx
  .next (match x.headRec ch.val with
    | none => s
    | some r =>
      if r.kind = 4 ∨ r.kind = 6 then s
      else
        match r.bad with
        | some a => s.failRec ctx r 0x103 a
        | none =>
          if s.recBlocked ctx x r then s
          else
            s.withNeed ctx r (s.planNeed x r) fun s' =>
              let stop := s.copyStop x r
              let top := s.roomEnd x r stop.1
              match stop.2 with
              | some f =>
                let s' := s'.moveRec ctx x r top
                if top = stop.1 then s'.failRec ctx r f.1 f.2 else s'.partDone ctx r top false true
              | none =>
                let e := min top (r.chunkTo n)
                let s' := s'.moveRec ctx x r e
                if e = r.stream then (s'.countTo ctx r e).finishRec ctx r (r.ioAt x)
                else s'.partDone ctx r e true (top != r.stream))

/-! ### Atomics of records -/

/-- The operation that KIND 4 codes (R253). -/
def aopOf : Nat → AOp
  | 0 => .add | 1 => .min | 2 => .max | 3 => .and | 4 => .or | 5 => .xor | 6 => .swap | _ => .cas

/-- The new word of a record's atomic. -/
def CopyRec.newWord (r : CopyRec) (old : Nat) : Option Nat :=
  atomicNew (aopOf r.op) (8 * r.width) r.uns old (r.opnd % 2 ^ (8 * r.width)) (r.cmp % 2 ^ (8 * r.width))

/-- The old word goes to this tile's scratchpad and DONE grows (R253, R347). -/
def State.giveOld (s : State) (c : Nat) (r : CopyRec) (old : Nat) : State :=
  let s := if r.nores then s else s.spWriteLE (tileOf c) r.src r.width old
  let s := s.setCtx c ((s.ctx c).deliverDone r.ch r.stream)
  s.finishRec c r none

/-- An atomic on a word of the virtual space whose home is ready. -/
def State.virtAtomic (s : State) (c : Nat) (x : Ctx) (r : CopyRec) : State :=
  let old := s.vreadLE x r.dst r.width
  let s := match r.newWord old with
    | some v => s.vwriteLE x r.dst r.width v
    | none => s
  s.giveOld c r old

/-- R253: a KIND 4 record performs at its destination. On this tile's own scratchpad it comes before the stores that its context has
issued since the push: it reads no byte of theirs, and they stand over its word (R200, R212). -/
def execRemoteAtomicPerform (ctx : Nat) (ch : Chan) (s : State) : Res :=
  let x := s.ctx ctx
  .next (match x.headRec ch.val with
    | none => s
    | some r =>
      if r.kind ≠ 4 || s.recBlocked ctx x r then s
      else
        match r.dloc with
        | .virt => s.withNeed ctx r (s.rangeNeed x true true r.dst r.width) fun s => s.virtAtomic ctx x r
        | _ =>
          let t := match r.dloc with
            | .tile t => t
            | _ => tileOf ctx
          match (s.tile t).firstBad [(r.dst, r.width)] with
          | some a => s.failRec ctx r 0x103 a
          | none =>
            let own := r.dloc == .sp
            let old := if own then keptLE (s.tile t).sp r.kept r.dst r.width else readLE (s.tile t).sp r.dst r.width
            let s := match r.newWord old with
              | some v => if own then s.ownUpdate ctx r.post r.kept r.dst r.width v else s.spWriteLE t r.dst r.width v
              | none => s
            s.giveOld ctx r old)

/-- An atomic in an attic line held for writing (R324). -/
def State.atticAtomic (s : State) (c : Nat) (x : Ctx) (r : CopyRec) (pa : Nat) : State :=
  let old := (List.range r.width).foldr (fun i acc => (s.hostByte (pa + i)).toNat + 256 * acc) 0
  let s := match r.newWord old with
    | some v => (List.range r.width).foldl (fun (s : State) i => s.atticSet x.tenant (pa + i) (BitVec.ofNat 8 (v / 2 ^ (8 * i)))) s
    | none => s
  s.giveOld c r old

/-- R324, R325: an AMOG record performs at the home or in the attic line; on a host-io page it sends its AtomicOp, or goes
through the attic while the tenant is degraded. One whose AtomicOp is in flight meets its own completion (R480). -/
def execHostAtomicPerform (ctx : Nat) (ch : Chan) (s : State) : Res :=
  let x := s.ctx ctx
  .next (match x.headRec ch.val with
    | none => s
    | some r =>
      if r.kind ≠ 6 || s.recBlocked ctx x r then s
      else
        match x.pageOf r.dst with
        | none => s.failRec ctx r 0x180 r.dst
        | some e =>
          let pa := entPhys e r.dst
          match entRoute e with
          | 0 => s.withNeed ctx r (s.rangeNeed x true true r.dst r.width) fun s => s.virtAtomic ctx x r
          | 1 =>
            let attic := fun (s : State) (r : CopyRec) =>
              s.withNeed ctx r (s.lineNeed true r.dst (pa / 64)) fun s => s.atticAtomic ctx x r pa
            match r.host with
            | .waiting _ | .answered _ => s
            | .old v => s.giveOld ctx r v
            | .attic _ => attic s r
            | .idle =>
              if !s.linkUp then s.failRec ctx r 0x304 r.dst
              else if (s.tenant x.tenant).degraded && entFallback e then
                let r := { r with host := .attic s.cycle }
                attic (s.setCtx ctx ((x.setRec r).setEvent 5)) r
              else s.setCtx ctx (x.setRec { r with host := .waiting s.cycle })
          | _ => s.withNeed ctx r (s.rangeNeed x true true r.dst r.width) fun s => s.atticAtomic ctx x r pa)

/-- The old value of an AtomicOp that has completed, once its scratchpad bank is free (R344). -/
def State.giveAnswer (s : State) (c : Nat) (r : CopyRec) (old : Nat) : State :=
  if s.banksBusy [⟨2 + tileOf c, r.src, r.width⟩] then s.setCtx c ((s.ctx c).setRec { r with host := .old old })
  else s.giveOld c r old

/-- R325: how a PCIe AtomicOp completed. -/
def execHostAtomicopCompletion (ctx : Nat) (ch : Chan) (st : Completion) (s : State) : Res :=
  let x := s.ctx ctx
  .next (match x.headRec ch.val with
    | none => s
    | some r =>
      match x.pageOf r.dst, r.host with
      | some e, .waiting _ =>
        if r.kind ≠ 6 ∨ entRoute e ≠ 1 then s
        else
          let pa := entPhys e r.dst
          match st with
          | .success =>
            let old := (List.range r.width).foldr (fun i acc => (s.hostByte (pa + i)).toNat + 256 * acc) 0
            let s := match r.newWord old with
              | some v => (List.range r.width).foldl (fun (s : State) i => s.hostSet (pa + i) (BitVec.ofNat 8 (v / 2 ^ (8 * i)))) s
              | none => s
            s.giveAnswer ctx r old
          | .unsupported =>
            if entFallback e then
              let t := s.tenant x.tenant
              (s.setTenant x.tenant { t with degraded := true }).setCtx ctx ((x.setRec { r with host := .attic s.cycle }).setEvent 5)
            else s.failRec ctx r 0x312 r.dst
          | .completerAbort => s.failRec ctx r 0x311 r.dst
          | .poisoned => s.failRec ctx r 0x303 r.dst
      | _, _ => s)

/-! ### The cell queue (R383) -/

/-- The push next to perform: the oldest that is released. That released pushes perform in push order, where R228 and R388 leave
them unordered, is the model's choice (log 54). -/
def Ctx.headCell (x : Ctx) : Option CellRec := x.cells.find? (fun r => !r.held)

/-- The push next to perform goes on with what is left of it. -/
def Ctx.setCell (x : Ctx) (op : CellOp) : Ctx :=
  match x.headCell with
  | some h => { x with cells := x.cells.map (fun r => if r.seq = h.seq then { r with op := op, gone := r.gone + 1 } else r) }
  | none => x

/-- The push next to perform leaves the queue. -/
def Ctx.dropCell (x : Ctx) : Ctx := { x with cells := x.cells.eraseP (fun r => !r.held) }

/-- The places that the next cell of a push writes. -/
def CellRec.writes (r : CellRec) (x : Ctx) (c : Nat) : List Span :=
  match r.op with
  | .ladd ((a, _) :: _) => x.spans a 32
  | .ladd [] => []
  | .linit a _ => x.spans a 32
  | .lraw _ d _ => [⟨2 + tileOf c, d, 32⟩]

/-- The push at the head of the cell queue has to wait on this cycle. -/
def State.cellBlocked (s : State) (c : Nat) (x : Ctx) (r : CellRec) : Bool :=
  s.banksBusy (r.writes x c) || x.waitsEarlier c r.seq (r.writes x c)

/-- Go on with the push at the head once nothing holds the cell it needs. -/
def State.withCell (s : State) (c : Nat) (r : CellRec) (nd : Need) (k : State → State) : State :=
  match nd.fault with
  | some f => s.setCtx c ((s.ctx c).dropCell.addFault f.1 f.2 r.post none r.seq r.colour)
  | none =>
    if s.cellBlocked c (s.ctx c) r then s
    else if nd.holds false || !s.admitted c (some r.seq) nd then (s.ask (s.ctx c).tenant nd).enqueue c (some r.seq) nd
    else k ((s.fillAll (s.ctx c).tenant nd).dropTicket c (some r.seq))

/-- R218, R222: the next addend of the LADD at the head of the cell queue. -/
def execCellAddPerform (ctx : Nat) (s : State) : Res :=
  let x := s.ctx ctx
  .next (match x.headCell with
    | none => s
    | some r =>
      match r.op with
      | .ladd ((a, f) :: rest) =>
        s.withCell ctx r (s.rangeNeed x true true a 32) fun s =>
          let s := s.cellPlus x a (decodeFloat F32 f)
          s.setCtx ctx (if rest.isEmpty then (s.ctx ctx).dropCell else (s.ctx ctx).setCell (.ladd rest))
      | .ladd [] => s.setCtx ctx x.dropCell
      | _ => s)

/-- R221: the next cell of the LINIT at the head of the cell queue. -/
def execCellInitPerform (ctx : Nat) (s : State) : Res :=
  let x := s.ctx ctx
  .next (match x.headCell with
    | none => s
    | some r =>
      match r.op with
      | .linit a n =>
        if n = 0 then s.setCtx ctx x.dropCell
        else
          s.withCell ctx r (s.rangeNeed x false true a 32) fun s =>
            let s := s.vwriteLE x a 32 Cell.fresh.toNat
            s.setCtx ctx (if n = 1 then (s.ctx ctx).dropCell else (s.ctx ctx).setCell (.linit (a + 32) (n - 1)))
      | _ => s)

/-- R225, R390: the next cell of the LRAW at the head of the cell queue, raw, into the scratchpad. -/
def execLrawPerform (ctx : Nat) (s : State) : Res :=
  let x := s.ctx ctx
  .next (match x.headCell with
    | none => s
    | some r =>
      match r.op with
      | .lraw a d n =>
        if n = 0 then s.setCtx ctx x.dropCell
        else
          s.withCell ctx r (s.rangeNeed x true false a 32) fun s =>
            let s := s.spWriteLE (tileOf ctx) d 32 (s.vreadLE x a 32)
            s.setCtx ctx (if n = 1 then (s.ctx ctx).dropCell else (s.ctx ctx).setCell (.lraw (a + 32) (d + 32) (n - 1)))
      | _ => s)

/-! ### Gathers (R257, R377) -/

/-- The gather next to complete: the oldest without results whose fault is not waiting. -/
def Ctx.headGather (x : Ctx) : Option GatherRec :=
  x.gathers.find? (fun g => g.results.isNone && !x.engFaults.any (fun f => f.ch.isNone && f.seq == g.seq))

def Ctx.setGather (x : Ctx) (g : GatherRec) : Ctx := { x with gathers := x.gathers.map (fun q => if q.seq = g.seq then g else q) }

def State.gatherNeed (s : State) (x : Ctx) (g : GatherRec) : Need :=
  Need.all ((g.addrs.filterMap id).map (fun a => s.rangeNeed x true false (a : Nat) g.wbytes))

/-- R257, R377. -/
def execGatherComplete (ctx : Nat) (s : State) : Res :=
  let x := s.ctx ctx
  .next (match x.headGather with
    | none => s
    | some g =>
      match g.bad with
      | some a => s.setCtx ctx (x.addFault 0x103 a g.post none g.seq 0)
      | none =>
        let nd := s.gatherNeed x g
        match nd.fault with
        | some f => s.setCtx ctx (x.addFault f.1 f.2 g.post none g.seq 0)
        | none =>
          if nd.holds g.host.isAnswered || !s.admitted ctx (some g.seq) nd then
            ((s.ask x.tenant nd).enqueue ctx (some g.seq) nd).setCtx ctx (x.setGather
              (if nd.answer || !nd.lines.isEmpty then { g with host := g.host.send s.cycle } else g))
          else
            let s := (s.fillAll x.tenant nd).dropTicket ctx (some g.seq)
            let rs := g.addrs.map (fun a => match a with
              | none => 0
              | some a => s.vreadLE x a g.wbytes)
            s.setCtx ctx (x.setGather { g with results := some rs }))

/-! ### Collectives (R260, R261, R360) -/

/-- One node of the reduction tree (R261). -/
def collNode (op : Nat) (t : ETy) (a b : Nat) : Nat :=
  match op with
  | 0 => if t.isF then (addRound (fmtOf t) a b).1 else truncI t.cw (intVal t a + intVal t b)
  | 1 => if t.isF then (floatOp2 t xmin a b).1 else (intOp2 t min a b).1
  | 2 => if t.isF then (floatOp2 t xmax a b).1 else (intOp2 t max a b).1
  | 3 => a &&& b
  | 4 => a ||| b
  | _ => a ^^^ b

/-- One level of the tree; a node without a partner stands. -/
def collLevel (op : Nat) (t : ETy) : List Nat → List Nat
  | a :: b :: rest => collNode op t a b :: collLevel op t rest
  | xs => xs

/-- The tree over the members' elements. -/
def collTree (op : Nat) (t : ETy) : Nat → List Nat → Nat
  | 0, xs => xs.headD 0
  | lv + 1, xs => collTree op t lv (collLevel op t xs)

/-- The result bytes of a collective from the members' sources. -/
def collResult (r : CollRec) (srcs : List Nat) : Nat :=
  let t := tyOfCode r.ty
  (List.range r.count).foldr (fun i acc =>
    collTree r.op t (bitLen srcs.length) (srcs.map (fun v => elem v t.cw i)) % 2 ^ t.valBits + 2 ^ t.cw * acc) 0

/-- The record of a member that joins a collective: by level and ordinal. -/
def State.joined (s : State) (c level ordinal : Nat) : Option CollRec :=
  (s.ctx c).colls.find? (fun r => r.level == level && r.ordinal == ordinal && r.st == CollState.pending)

/-- A member has pushed its collective of a level and an ordinal. -/
def State.hasPushed (s : State) (level ordinal c : Nat) : Bool := decide (ordinal < mgetD (s.ctx c).collNext level 0)

def CollRec.agrees (a b : CollRec) : Bool :=
  a.op == b.op && a.ty == b.ty && a.count == b.count && (a.op != 6 || (a.rootY == b.rootY && a.rootX == b.rootX))
    && a.members == b.members

def Ctx.setColl (x : Ctx) (r : CollRec) : Ctx := { x with colls := x.colls.map (fun q => if q.seq = r.seq then r else q) }

/-- The member at the root of a broadcast. -/
def State.rootOf (s : State) (r : CollRec) : Option Nat :=
  r.members.find? (fun c => (s.ctx c).ry == r.rootY && (s.ctx c).rx == r.rootX)

/-- The contexts that some view of a collective joins (R360): from some contexts on, the members that their records name and
the contexts of the launch whose records name one of them, until nothing is added. -/
def State.joinViews (s : State) (level ordinal : Nat) (all : List Nat) : Nat → List Nat → List Nat
  | 0, cs => cs
  | fuel + 1, cs =>
    let named := cs.flatMap (fun c => match s.joined c level ordinal with
      | some q => q.members
      | none => [])
    let naming := all.filter (fun c => match s.joined c level ordinal with
      | some q => q.members.any cs.contains
      | none => false)
    let ds := (cs ++ named ++ naming).eraseDups
    if ds.length = cs.length then cs else s.joinViews level ordinal all fuel ds

/-- Every context that a view of a context's collective joins, in the launch's order. -/
def State.collUnion (s : State) (c : Nat) (r : CollRec) : List Nat :=
  let all := match mfind s.launches (s.ctx c).launch with
    | none => r.members
    | some l => l.ctxs
  let cs := s.joinViews r.level r.ordinal all 144 (withMember r.members c)
  all.filter cs.contains ++ cs.filter (fun d => !all.contains d)

/-- The scratchpad banks that the results go to are free of reservations (R344). -/
def State.collFree (s : State) (recs : List (Nat × Option CollRec)) : Bool :=
  recs.all (fun p => match p.2 with
    | none => true
    | some q => !s.banksBusy [⟨2 + tileOf p.1, q.dst, collBytes q.ty q.count⟩])

/-- A collective can resolve: every context that a view joins has pushed. -/
def State.collReady (s : State) (c : Nat) (r : CollRec) : Bool :=
  let cs := s.collUnion c r
  cs.all (s.hasPushed r.level r.ordinal) && s.collFree (cs.map (fun d => (d, s.joined d r.level r.ordinal)))

/-- R260, R261, R359, R360: once every member has pushed, the result is written on every member, or all find a mismatch. The member whose
own source had the uncorrectable error finds the mismatch as well, after its 0x103: R360 names only the other members, and this is
the model's choice (log 71). -/
def execCollectiveComplete (ctx : Nat) (s : State) : Res :=
  let x := s.ctx ctx
  .next (match x.colls.find? (fun r => r.st == CollState.pending) with
    | none => s
    | some r =>
      if !s.collReady ctx r then s
      else
        let recs := (s.collUnion ctx r).map (fun c => (c, s.joined c r.level r.ordinal))
        let good := recs.all (fun p => match p.2 with
            | none => false
            | some q => q.agrees r && q.bad.isNone)
          && (r.op != 6 || (s.rootOf r).isSome) && r.members.contains ctx
        if good then
          let srcs := if r.op = 6 then (s.rootOf r).toList.filterMap (fun c => (s.joined c r.level r.ordinal).map (·.snap))
            else recs.filterMap (fun p => p.2.map (·.snap))
          let v := collResult r srcs
          recs.foldl (fun s p => match p.2 with
            | none => s
            | some q => (s.spWriteLE (tileOf p.1) q.dst (collBytes r.ty r.count) v).setCtx p.1
                ((s.ctx p.1).setColl { q with st := .done })) s
        else
          ((ctx, some r) :: recs.filter (fun p => p.1 != ctx)).foldl (fun s p => match p.2 with
            | none => s
            | some q =>
              let y := (s.ctx p.1).setColl { q with st := .mismatch }
              s.setCtx p.1 (match q.bad with
                | some a => y.addFault 0x103 a q.post none q.seq q.colour
                | none => y)) s)

/-! ### Drain pushes (R246, R247, R223) -/

/-- One word of MACCD outside larder pages. -/
def accdWord (prof : Nat) (clamp : Bool) (word e : Nat) : Nat :=
  if prof = 3 then truncI 32 (sextN 32 word + sextN 32 e)
  else
    let r := (addRound F32 word e).1
    if clamp then
      match decodeFloat F32 r with
      | .inf n => withSign F32 n (maxMag F32)
      | _ => r
    else r

/-- One row of words: `old` and the elements, 32 bits each. -/
def accdWords (prof : Nat) (clamp : Bool) (old es : Nat) : Nat :=
  (List.range 128).foldr (fun i acc => accdWord prof clamp (elem old 32 i) (elem es 32 i) + 2 ^ 32 * acc) 0

/-- The addend of a cell (R223). -/
def accdAddend (prof : Nat) (clamp : Bool) (a : Int) (e : Nat) : XVal :=
  let v := if prof = 3 then XVal.ofInt (sextN 32 e) else decodeFloat F32 e
  if clamp then cellClamp v a else v

/-- One row of cells. -/
def State.accdCells (s : State) (x : Ctx) (d : DrainRec) (va es : Nat) : State :=
  (List.range 128).foldl (fun s j =>
    let a := va + 32 * j
    s.cellPlus x a (accdAddend d.prof d.clamp (x.anchorAt a) (elem es 32 j))) s

def Ctx.dropRow (x : Ctx) : Ctx :=
  match x.drains with
  | d :: rest => { x with drains := if d.rows.length ≤ 1 then rest else { d with rows := d.rows.drop 1 } :: rest }
  | [] => x

def Ctx.dropDrain (x : Ctx) : Ctx := { x with drains := x.drains.drop 1 }

/-- The places that the next row of a drain push writes. -/
def DrainRec.writes (d : DrainRec) (x : Ctx) (c : Nat) : List Span :=
  match d.rows with
  | [] => []
  | (i, _) :: _ =>
    if engIsSp d.base then [⟨2 + tileOf c, ((engSp d.base : Int) + i * d.stride).toNat, d.rowBytes⟩]
    else x.spans ((d.base : Int) + i * d.stride) (x.accdRow ((d.base : Int) + i * d.stride))

/-- The cells that the reads of a context in progress have taken, and those still to come: of an LRAW, and of converting copies
(R223). -/
def Ctx.cellReads (x : Ctx) : List (List Span × List Span) :=
  ((x.headCell.toList).filterMap (fun r => match r.op with
    | .lraw a _ n => some (x.spans ((a : Int) - (32 * r.gone : Nat)) (32 * r.gone), x.spans a (32 * n))
    | _ => none))
  ++ ((x.recs.filter (fun r => r.conv && r.moved != 0)).map (fun r =>
    let part := fun (q : CopyRec) (stop : Nat) => (q.pieces stop).flatMap (fun p => x.spans p.src p.srcN)
    (part { r with moved := 0 } r.moved, part r r.stream)))

/-- A read in progress has taken some of the cells of a row and not yet the others: the row waits, so that the read sees all of
its additions or none (R223). -/
def State.splitsRow (s : State) (ws : List Span) : Bool :=
  s.ctxs.any (fun p => p.2.cellReads.any (fun q => q.1.any (fun r => ws.any r.meets) && q.2.any (fun r => ws.any r.meets)))

/-- The oldest drain push has to wait on this cycle. -/
def State.drainBlocked (s : State) (c : Nat) (x : Ctx) (d : DrainRec) : Bool :=
  d.held || decide (s.cycle < d.ready) || s.banksBusy (d.writes x c) || x.waitsEarlier c d.seq (d.writes x c)
    || (d.accd && s.splitsRow (d.writes x c))

/-- R246, R247, R223: the next row of the oldest drain push, indivisibly. An MACCD into this tile's scratchpad comes before the stores
that its context has issued since the push: it reads no byte of theirs, and they stand over its row (R200, R212). -/
def execDrainPushPerform (ctx : Nat) (s : State) : Res :=
  let x := s.ctx ctx
  let t := tileOf ctx
  .next (match x.drains with
    | [] => s
    | d :: _ =>
      if s.drainBlocked ctx x d then s
      else
        match d.rows with
        | [] => s.setCtx ctx x.dropDrain
        | (i, v) :: _ =>
          if engIsSp d.base then
            let a := ((engSp d.base : Int) + i * d.stride).toNat
            if d.accd then
              match (s.tile t).firstBad [(a, 512)] with
              | some b => s.setCtx ctx (x.dropDrain.addFault 0x103 b d.post none d.seq 0)
              | none =>
                let s := s.ownUpdate ctx d.post d.kept a 512 (accdWords d.prof d.clamp (keptLE (s.tile t).sp d.kept a 512) v)
                s.setCtx ctx (s.ctx ctx).dropRow
            else (s.spWriteLE t a d.rowBytes v).setCtx ctx x.dropRow
          else
            let va := (d.base : Int) + i * d.stride
            let n := x.accdRow va
            let nd := s.rangeNeed x true true va n
            match nd.fault with
            | some f => s.setCtx ctx (x.dropDrain.addFault f.1 f.2 d.post none d.seq 0)
            | none =>
              if nd.holds false || !s.admitted ctx (some d.seq) nd then (s.ask x.tenant nd).enqueue ctx (some d.seq) nd
              else
                let s := (s.fillAll x.tenant nd).dropTicket ctx (some d.seq)
                let s := if n = 512 then s.vwriteLE x va.toNat 512 (accdWords d.prof d.clamp (s.vreadLE x va.toNat 512) v)
                  else s.accdCells x d va.toNat v
                s.setCtx ctx x.dropRow)

/-! ### The overlay engine (R267, R268, R270) -/

/-- The image of a segment, or of the resident code at number 0: address and size. -/
def Ctx.segImage (x : Ctx) (entry : Nat) : Nat × Nat := x.segs.getD entry (0, 0)

/-- Fill one half of instruction memory from byte RSIZE on: the image, then zeros. -/
def Ctx.fillHalf (x : Ctx) (half : Nat) (bytes : List Byte) : Ctx :=
  let lo := 0x10000 * half + x.rsize
  { x with imem := writeBytes (clearRange x.imem lo (0x10000 - x.rsize)) lo bytes }

def Ctx.setHalf (x : Ctx) (half : Nat) (seg : Option Nat) : Ctx :=
  if half = 0 then { x with half0 := seg } else { x with half1 := seg }

/-- A page that a segment's image touches is in transit. -/
def Ctx.imageInTransit (x : Ctx) (seg : Nat) : Bool :=
  let im := x.segImage (seg + 1)
  (x.rangeFaults .fetch im.1 im.2 0 1).any (fun f => f.code == 0x183)

/-- R268, R270: the copy in progress writes its last byte, or meets a fault that waits for the segment's next bundle; on a
page in transit it waits. -/
def execSegmentResident (ctx : Nat) (s : State) : Res :=
  let x := s.ctx ctx
  .next (match x.ovCopy with
    | none => s
    | some cp =>
      let im := x.segImage (cp.seg + 1)
      let failed := fun (code va : Nat) =>
        s.setCtx ctx { x with ovCopy := none, ovFault := mput x.ovFault cp.half (cp.seg, code, va) }
      let go :=
        let nd := s.rangeNeed x true false im.1 im.2
        match nd.fault with
        | some f => failed f.1 f.2
        | none =>
          if nd.holds true || !s.admitted ctx (some cp.seq) nd then
            ((s.ask x.tenant nd).enqueue ctx (some cp.seq) nd).setCtx ctx { x with ovCopy := some { cp with clear := true } }
          else
            let s := (s.fillAll x.tenant nd).dropTicket ctx (some cp.seq)
            let bytes := (List.range im.2).map (fun i => s.vread x (im.1 + i))
            s.setCtx ctx (({ x with ovCopy := none }.fillHalf cp.half bytes).setHalf cp.half (some cp.seg))
      match pickFault (x.rangeFaults .fetch im.1 im.2 0 1) with
      | some f => if f.code ≠ 0x183 then failed f.code f.va else if cp.clear then go else s
      | none => go)

/-! ### Answers of the host (R207, R286, R319, R320, R325) -/

/-- The cause of a failed host access (R286). -/
def completionCode : Completion → Nat
  | .success => 0 | .unsupported => 0x301 | .completerAbort => 0x302 | .poisoned => 0x303

/-- A part of a record still waits for the host. -/
def Need.waits (nd : Need) : Bool := nd.answer || !nd.lines.isEmpty || !nd.snoops.isEmpty

/-- The address at which a record waits for the host, for EADDR (R272): the first source or destination of the virtual space
that waits, else the destination in its own form. -/
def State.waitAddr (s : State) (x : Ctx) (r : CopyRec) : Nat :=
  let ps := r.pieces r.stream
  let src := (ps.find? (fun p => r.sloc == Loc.virt && (s.rangeNeed x true false p.src p.srcN).waits)).map (fun p => p.src.toNat)
  let dst := (ps.find? (fun p => r.dloc == Loc.virt && (s.rangeNeed x (decide (4 ≤ r.kind)) true p.dst p.dstN).waits)).map
    (fun p => p.dst.toNat)
  match src, dst with
  | some a, _ => a
  | none, some a => a
  | none, none => if r.dloc = .virt then r.dst else if r.sloc = .virt then r.src else spEaddr r.dst

/-- The address at which a gather waits for the host. -/
def State.gatherWaitAddr (s : State) (x : Ctx) (g : GatherRec) : Nat :=
  let hit := g.addrs.filterMap id
  (hit.find? (fun (a : Nat) => (s.rangeNeed x true false a g.wbytes).waits)).getD (hit.headD 0)

/-- R207, R286, R348: a host-io read or the request for a line is answered, or the read behind a host-io write is. An AtomicOp in
flight has its own completion. -/
def execHostRequestCompletion (ctx : Nat) (src : EngSrc) (st : Completion) (s : State) : Res :=
  let x := s.ctx ctx
  .next (match src with
    | .chan ch =>
      match x.headRec ch.val with
      | none => s
      | some r =>
        match r.host with
        | .waiting t =>
          if r.kind = 6 && x.routeOf r.dst == 1 then s
          else if st = .success then s.setCtx ctx (x.setRec { r with host := .answered t })
          else s.failRec ctx r (completionCode st) (s.waitAddr x r)
        | .attic _ => if st = .success then s else s.failRec ctx r (completionCode st) r.dst
        | _ => s
    | .gather =>
      match x.headGather with
      | none => s
      | some g =>
        match g.host with
        | .waiting t =>
          if st = .success then s.setCtx ctx (x.setGather { g with host := .answered t })
          else s.setCtx ctx (x.addFault (completionCode st) (s.gatherWaitAddr x g) g.post none g.seq 0)
        | _ => s
    | .posted =>
      match x.posted with
      | [] => s
      | p :: rest =>
        let x := { x with posted := rest }
        s.setCtx ctx (if st = .success then x else x.addFault (completionCode st) p.addr false none p.seq p.colour)
    | .cells | .drains => s)

/-- A time limit has passed: it is counted in cycles from the request, which is the model's choice (log 64). -/
def State.late (s : State) (since : Nat) : Bool := decide (since + s.timeout ≤ s.cycle)

/-- A request of a record itself has had no answer in time: an answer of the host, or a line of the attic, is still to come. One whose
host data is all there, and that waits for something else, is not late. -/
def State.hostLate (s : State) (h : HostReq) (nd : Need) : Bool :=
  match h with
  | .waiting t => (nd.answer || !nd.lines.isEmpty) && s.late t
  | .attic t | .answered t => !nd.lines.isEmpty && s.late t
  | .idle | .old _ => false

/-- Sectors that the host has not given back in time. -/
def State.lateSnoops (s : State) (nd : Need) : List Nat :=
  nd.snoops.filterMap (fun p => match mfind s.backInv p.1 with
    | some b => if s.late b.since then some p.1 else none
    | none => none)

/-- What firmware has written to a sector reaches memory once the host copy is gone (R319). -/
def State.landPend (s : State) (sec : Nat) : State :=
  let mine := s.fwPend.filter (fun p => p.1 / 64 == sec)
  let s := if mine.isEmpty then s else s.claim sec
  let s := { s with dev := mine.foldl (fun d p => mwrite d p.1 p.2) s.dev, fwPend := s.fwPend.filter (fun p => p.1 / 64 != sec) }
  if mine.length = 64 then s.cure (64 * sec) 64 else s

/-- The host never answered a back-invalidate: the sector is poisoned if the host held it exclusive (R319). -/
def State.loseSector (s : State) (sec : Nat) : State :=
  { s with backInv := merase s.backInv sec, snoop := merase s.snoop sec
           poison := if mgetD s.snoop sec false && !s.poison.contains sec then s.poison ++ [sec] else s.poison }.landPend sec

/-- What the record at the head of a queue still needs. -/
def State.headNeed (s : State) (x : Ctx) (src : EngSrc) : Need :=
  match src with
  | .chan ch =>
    match x.headRec ch.val with
    | none => .none
    | some r => match r.kind with
      | 4 => if r.dloc = .virt then s.rangeNeed x true true r.dst r.width else .none
      | 6 =>
        match x.pageOf r.dst with
        | some e =>
          if entRoute e ≠ 1 then s.rangeNeed x true true r.dst r.width
          else
            match r.host with
            | .attic _ => s.lineNeed true r.dst (entPhys e r.dst / 64)
            | .waiting _ => { Need.none with answer := true }
            | _ => .none
        | none => .none
      | _ => s.planNeed x r
  | .gather => match x.headGather with
    | none => .none
    | some g => s.gatherNeed x g
  | .cells => match x.headCell with
    | none => .none
    | some r => match r.op with
      | .ladd ((a, _) :: _) => s.rangeNeed x true true a 32
      | .linit a n => if n = 0 then .none else s.rangeNeed x false true a 32
      | .lraw a _ n => if n = 0 then .none else s.rangeNeed x true false a 32
      | _ => .none
  | .drains => match x.drains with
    | [] => .none
    | d :: _ => match d.rows with
      | [] => .none
      | (i, _) :: _ => if engIsSp d.base then .none
        else s.rangeNeed x true true ((d.base : Int) + i * d.stride) (x.accdRow ((d.base : Int) + i * d.stride))
  | .posted => .none

/-- The virtual address of the next cell of a push, and of the next row of a drain push. -/
def CellRec.at' (r : CellRec) : Nat :=
  match r.op with
  | .ladd ((a, _) :: _) => a
  | .ladd [] => 0
  | .linit a _ => a
  | .lraw a _ _ => a
def DrainRec.at' (d : DrainRec) : Nat := ((d.base : Int) + ((d.rows.headD (0, 0)).1 : Nat) * d.stride).toNat

/-- R325, R319: a request gets no completion within the completion timeout. A sector that the host has not given back in time fails
every record that waits for it, and is given up as the cycle ends. -/
def execHostCompletionTimeout (ctx : Nat) (src : EngSrc) (s : State) : Res :=
  let x := s.ctx ctx
  let nd := s.headNeed x src
  let lost := s.lateSnoops nd
  .next (match src with
    | .chan ch =>
      match x.headRec ch.val with
      | none => s
      | some r =>
        if s.hostLate r.host nd || !lost.isEmpty then
          let atomicOp := r.kind = 6 && x.routeOf r.dst == 1 && (match r.host with
            | .waiting _ => true
            | _ => false)
          s.failRec ctx r (if atomicOp then 0x310 else 0x300) (s.waitAddr x r)
        else s
    | .gather =>
      match x.headGather with
      | none => s
      | some g =>
        if s.hostLate g.host nd || !lost.isEmpty then s.setCtx ctx (x.addFault 0x300 (s.gatherWaitAddr x g) g.post none g.seq 0)
        else s
    | .cells =>
      match x.headCell with
      | none => s
      | some r => if lost.isEmpty then s else s.setCtx ctx (x.dropCell.addFault 0x300 r.at' r.post none r.seq r.colour)
    | .drains =>
      match x.drains with
      | [] => s
      | d :: _ => if lost.isEmpty then s else s.setCtx ctx (x.dropDrain.addFault 0x300 d.at' d.post none d.seq 0)
    | .posted =>
      match x.posted with
      | [] => s
      | p :: rest =>
        if s.late p.sent then s.setCtx ctx ({ x with posted := rest }.addFault 0x300 p.addr false none p.seq p.colour) else s)

/-- Health record of data that a host gives back for a sector that only the scheduler cores reach (R332). -/
def healthCarveOut : Nat := 6

/-- The host's data for a sector is written into the SLC: a write of the whole sector, which clears its poison (R181, R319).
The carve-out takes no host data (R332). -/
def State.hostData (s : State) (sec : Nat) (data : BitVec 512) : State :=
  if s.inCarveOut sec then s.health' healthCarveOut (64 * sec)
  else
    let s := s.claim sec
    let s := { s with dev := writeLE s.dev (64 * sec) 64 data.toNat }.cure (64 * sec) 64
    match mfind s.frameKey (64 * sec / 2 ^ 21) with
    | some k => s.fill 0 ⟨sec, k, 0, true⟩
    | none => s

/-- A record that waits for ownership of a line. -/
def State.wantsLine (s : State) (c : Nat) (src : EngSrc) (ln : Nat) : Bool := (s.headNeed (s.ctx c) src).lines.contains (ln, true)

/-- The address at which a virtual range of host-cache pages enters a line. -/
def Ctx.lineVa (x : Ctx) (va : Int) (n ln : Nat) : Option Nat :=
  (x.parts va n).findSome? (fun p => match p.ent with
    | none => none
    | some e =>
      let pa := entPhys e p.va
      if entRoute e = 2 && (sectorsOf pa p.n).contains ln then some (unitVa p.va pa ln) else none)

/-- The address at which a record first writes a line, for EADDR (R272). -/
def CopyRec.lineVa (r : CopyRec) (x : Ctx) (ln : Nat) : Nat :=
  ((r.pieces r.stream).findSome? (fun p => x.lineVa p.dst p.dstN ln)).getD r.dst

/-- A refused line fails one engine's record that waits for it (R286). -/
def State.refuseOne (s : State) (c : Nat) (src : EngSrc) (ln : Nat) : State :=
  let x := s.ctx c
  match src with
  | .chan ch =>
    match x.headRec ch.val with
    | some r => s.failRec c r 0x313 (r.lineVa x ln)
    | none => s
  | .drains =>
    match x.drains with
    | d :: _ =>
      if d.held then s else s.setCtx c (x.dropDrain.addFault 0x313 ((x.lineVa d.at' d.rowBytes ln).getD d.at') d.post none d.seq 0)
    | [] => s
  | _ => s

/-- R286: the host refuses ownership of a line to every record that waits for it. -/
def State.refuseLine (s : State) (ln : Nat) : State :=
  let waits := (s.ctxs.map (·.1)).flatMap (fun c => ((List.finRange 8).map EngSrc.chan ++ [EngSrc.drains]).map (fun src => (c, src)))
  (waits.filter (fun p => s.wantsLine p.1 p.2 ln)).foldl (fun s p => s.refuseOne p.1 p.2 ln) s

/-- A full attic gives up a line before it takes another (R24, R320). -/
def State.atticRoom (s : State) (line : Nat) : State :=
  if (mfind s.attic line).isSome || decide (s.attic.length < Config.atticLines) then s
  else
    match (s.attic.map (·.1))[Config.atticVictim s.free % s.attic.length]? with
    | some v => { s.dropLine v with free := s.free + 1 }
    | none => s

/-- R320: a line that was asked for arrives, with or without ownership; ownership withheld is refused. None enters an attic that is
gated (R337). -/
def execAtticLineFill (line : Nat) (own : Bool) (s : State) : Res :=
  .next (match mfind s.atticReq line with
    | none => s
    | some q =>
      if !s.cxlUp || s.power != Power.d0 then s
      else
        let s := { s with atticReq := merase s.atticReq line }
        if q.own && !own then s.refuseLine line
        else
          let s := s.atticRoom line
          let l := match mfind s.attic line with
            | some l => { l with st := if own then .e else l.st, tenants := q.fns.foldl withMember l.tenants }
            | none => ⟨if own then .e else .s, readLE s.hostMem (64 * line) 64, q.fns⟩
          { s with attic := mput s.attic line l })

/-- R320: the attic answers a snoop. -/
def execHostSnoop (line : Nat) (invalidate : Bool) (s : State) : Res :=
  .next (s.snooped line invalidate)

end Sys2Proof.Machine
end

