-- ==== Sys2Proof/Machine/Select.lean ====
section
/-! DEFINITION. Which bundle a context issues next, what holds it, and which context of a tile issues on a cycle (R39, R42
to R46, R48, R50 to R53, R56, R63, R94, R266 to R270, R292, R369). -/

namespace Sys2Proof.Machine

/-! ### The next bundle -/

/-- The bundle next to issue: with its length; a fault with EADDR and ESLOT; or in a segment that is not resident. -/
inductive NextB where
  | bundle (b : Bundle) (len : Nat)
  | bad (code eaddr eslot : Nat)
  | absent (seg : Nat)
  deriving DecidableEq, Repr

/-- Orders 1 to 7 of R94, with the place of the address first (R266). A segment whose copy met a fault raises the recorded code of
R270 in a strict context too, where R51 and R269 name 0x284, which is the model's choice (log 25). -/
def Ctx.fetch (x : Ctx) : NextB :=
  match x.locate x.pc.toNat with
  | .outside => .bad 0x289 x.pc.toNat 10
  | .absent n =>
    match x.copyFault n with
    | some f => .bad f.1 f.2 11
    | none => .absent n
  | .at' off stop =>
    if x.pc.toNat % 4 ≠ 0 then .bad 0x003 0 10
    else
      match decodeBundle (x.avail off stop) with
      | .ok b => .bundle b (bundleLen b.hdr.pres)
      | .error e => .bad e.1 0 e.2

/-- The header of the next bundle as it stands in memory, whether or not the bundle passes its checks. -/
def Ctx.peek (x : Ctx) : Option Header :=
  match x.locate x.pc.toNat with
  | .at' off stop =>
    if x.pc.toNat % 4 ≠ 0 ∨ stop < off + 8 then none else some (headerOf (readLE x.imem off 8))
  | _ => none

/-- The words that the bundle performs: none when annulled, only the SA word in service mode (R92, R271). -/
def Ctx.performs (x : Ctx) (b : Bundle) : List (Slot × Instr) :=
  if x.annul ≠ 0 then []
  else if x.svcMode then b.words.filter (fun p => p.1 == Slot.sa)
  else b.words

/-- The word of a slot among those that perform. -/
def wordAt (ws : List (Slot × Instr)) (sl : Slot) : Option Instr := (ws.find? (fun p => p.1 == sl)).map (·.2)

/-! ### Overlay copies (R268, R269) -/

/-- Start copying a segment into the half that does not hold CUR; the copy in progress is cancelled, and a fault that an
earlier copy into the half met is gone. Its requests are its own, so those of a cancelled copy are done with (R190). -/
def Ctx.startCopy (x : Ctx) (seg : Nat) : Ctx :=
  let half := if x.half1 = some x.cur then 0 else 1
  { (x.setHalf half none).fillHalf half [] with
    ovCopy := some ⟨seg, half, !x.imageInTransit seg, x.seq⟩, ovFault := merase x.ovFault half, seq := x.seq + 1 }

/-- What B does (R268). -/
def Ctx.boundaryCopy (x : Ctx) : Ctx :=
  if !x.segd || decide (x.segLast < x.cur + 1) || (x.halfOf (x.cur + 1)).isSome then x else x.startCopy (x.cur + 1)

/-- A segment that is needed and not resident is copied unless it is on its way (R269). -/
def Ctx.needSegment (x : Ctx) (seg : Nat) : Ctx :=
  match x.ovCopy with
  | some cp => if cp.seg = seg then x else x.startCopy seg
  | none => x.startCopy seg

/-! ### Blocks (R43) -/

/-- What holds the next bundle of a context; the numbers are the kinds of wait of R315. -/
inductive Hold where
  | free | xwait | gpop | cpop | fence | drain | syncWait | syncHold | scoreboard | segment | transit | ending | other
  deriving DecidableEq, Repr

def Hold.kind : Hold → Nat
  | .free | .other => 0
  | .xwait => 1 | .gpop => 2 | .cpop => 3 | .fence => 4 | .drain => 5 | .syncWait => 6 | .syncHold => 7
  | .scoreboard => 8 | .segment => 9 | .transit => 10 | .ending => 11

/-- The wait that an earlier bundle began. -/
def Ctx.waitHold (x : Ctx) : Hold :=
  if x.ending.isSome then .ending
  else if x.halted || x.rollback.isSome || x.pauseTo.isSome then .other
  else if x.waitOver then .free
  else
    match x.wait with
    | .none => .free
    | .fence _ _ => .fence
    | .drain _ _ _ => .drain
    | .hold _ => .syncHold
    | .transit _ => .transit

/-- The wait of the C word of the next bundle before it issues. A word that faults at its issue does not wait. -/
def Ctx.cHold (x : Ctx) (ws : List (Slot × Instr)) : Hold :=
  match wordAt ws .c with
  | some (.xwait a ch) =>
    if decide ((x.rs a.val).toNat ≤ mgetD x.done ch.val 0) || (mfind x.stopped ch.val).isSome then .free else .xwait
  | some (.gpop _ _) =>
    match x.gathers with
    | g :: _ => if g.results.isSome then .free else .gpop
    | [] => .free
  | some (.cpop _ _) =>
    match x.colls with
    | r :: _ => if r.st == CollState.pending then .cpop else .free
    | [] => .free
  | some (.sync _ m) => if x.syncDone m.toNat x.seq then .free else .syncWait
  | _ => .free

/-- The hold of the X word of the next bundle. -/
def State.xHold (s : State) (c : Nat) (ws : List (Slot × Instr)) : Bool :=
  match wordAt ws .x with
  | some i => s.xHeld c i
  | none => false

/-- What holds a context that runs under elastic rules. -/
def State.holdOf (s : State) (c : Nat) : Hold :=
  let x := s.ctx c
  match x.waitHold with
  | .free =>
    match x.fetch with
    | .bad _ _ _ => .free
    | .absent _ => .segment
    | .bundle b _ =>
      let ws := x.performs b
      match x.cHold ws with
      | .free => if s.xHold c ws then .scoreboard else .free
      | h => h
  | h => h

/-- What holds a strict context: only the waits that earlier bundles began. -/
def State.holdNow (s : State) (c : Nat) : Hold := if (s.ctx c).strictNow then (s.ctx c).waitHold else s.holdOf c

/-- The gap of R48 has run. -/
def State.gapOver (s : State) (c : Nat) : Bool :=
  let x := s.ctx c
  match x.last, x.peek with
  | some (t, st), some h => decide (t + max 1 ((h.stamp + 16384 - st) % 16384) ≤ s.cycle)
  | some (t, _), none => decide (t < s.cycle)
  | none, _ => true

/-- A bundle with a header waits for a frame boundary. -/
def Ctx.awaitsWith (x : Ctx) (hdr : Option Header) : Bool :=
  match x.frame with
  | none => true
  | some (_, none) => false
  | some (_, some _) => match hdr with
    | some h => h.f
    | none => false

/-- The next bundle, where it is resident, waits for a frame boundary. -/
def Ctx.awaitsFrame (x : Ctx) : Bool := x.awaitsWith x.peek

/-! ### Drain points (R288) -/

/-- An exposed-latency result of R89 is in flight: flags and hint counts that land later are none (R289). -/
def Ctx.resultsInFlight (x : Ctx) : Bool := x.inFlight.any (fun w => !w.dst.late)

/-- Nothing of the context is outstanding: the conditions of R288 that the boundary itself does not give. A record that has failed
has not completed until its fault is delivered, which comes before an eviction stop (R277, log 27). -/
def Ctx.drained (x : Ctx) : Bool :=
  !x.svcMode && !x.resultsInFlight && x.matOps.isEmpty && x.recs.isEmpty && x.cells.isEmpty && x.drains.isEmpty && x.gathers.isEmpty
    && x.colls.isEmpty && x.engFaults.isEmpty

/-- The boundary is a drain point by its bundle or its hold (R68, R288); of a halted context it is none (R351). -/
def Ctx.drainBoundary (x : Ctx) : Bool :=
  !x.halted && (match x.wait with
    | .hold _ => x.holdD.isSome
    | _ => x.waitOver && (match x.wellFormedAt x.pc with
      | some h => h.d && (!x.strict || (h.f && x.awaitsFrame))
      | none => false))

/-! ### Eviction (R292) -/

/-- A context whose region is being evicted and has not stopped (R292). -/
def State.evicting (s : State) (c : Nat) : Bool :=
  match mfind s.launches (s.ctx c).launch with
  | some l => match l.st with
    | .evicting _ => (s.ctx c).isLive
    | _ => false
  | none => false

/-- The drain-map table of a context in device memory (R291). -/
def Ctx.mapTable (x : Ctx) : List (Nat × Nat) := if x.drainMapAt = 0 then [] else [(x.drainMapAt, 64 * (x.drainStarts.length + 1))]

/-- A context that is to stop waits for its drain maps to come home from the host (R292, R319). -/
def State.mapAway (s : State) (c : Nat) : Bool :=
  s.evicting c && !s.isHome (s.ctx c).mapTable && (s.ctx c).drained && (s.ctx c).drainBoundary

/-- An elastic context as the selector sees it. -/
inductive Status where
  | idle | gap | blocked | ready
  deriving DecidableEq, Repr

/-- R44. A context in a gap is not blocked (R43), whatever its next bundle would wait for; the hold of a SYNC is no gap, since none
is set on the bundle after it (R48). -/
def State.status (s : State) (c : Nat) : Status :=
  let x := s.ctx c
  if !x.isLive || x.strictNow then .idle
  else if s.mapAway c then .blocked
  else
    match x.waitHold with
    | .ending | .other | .syncHold => .blocked
    | _ => if !s.gapOver c then .gap else if s.holdOf c = .free then .ready else .blocked

/-- The context is blocked as R43 means it: not by a PAUSE, an END, a halt, a rollback or a stop that waits for its drain maps. -/
def State.inBlock (s : State) (c : Nat) : Bool :=
  s.status c == Status.blocked && !s.mapAway c && (match (s.ctx c).waitHold with
    | .ending | .other => false
    | _ => true)

/-! ### Due cycles of a strict context (R50, R51, R64) -/

/-- The header of a bundle in a segment that is not resident, as the segment's image in memory holds it now. -/
def State.imageHeader (s : State) (x : Ctx) (seg : Nat) : Option Header :=
  let im := x.segImage (seg + 1)
  let at' := x.pc.toNat % 0x10000
  if x.pc.toNat % 4 ≠ 0 ∨ 0x10000 < at' + 8 then none
  else some (headerOf ((List.range 8).foldr (fun i acc =>
    (if at' - x.rsize + i < im.2 then (s.vread x (im.1 + (at' - x.rsize + i))).toNat else 0) + 256 * acc) 0))

/-- The header of the next bundle, whether or not its segment is resident: its F and STAMP give the due cycle (R50, R51, R269; log
10). -/
def State.nextHeader (s : State) (c : Nat) : Option Header :=
  let x := s.ctx c
  match x.locate x.pc.toNat with
  | .absent n => s.imageHeader x n
  | _ => x.peek

/-- The next bundle of a strict context is due. A bundle whose header cannot be read is due at once, one whose STAMP lies at or below
the one before it on the cycle after that one, and of one in a segment that is not resident the header is read from the segment's
image (log 10). -/
def State.strictDue (s : State) (c : Nat) : Bool :=
  let x := s.ctx c
  x.isLive && x.strictNow && x.waitHold == Hold.free && !s.mapAway c &&
    (if x.awaitsWith (s.nextHeader c) then s.cal.start == s.cycle && decide (x.frameFrom < s.cycle)
     else
       match x.frame, s.nextHeader c with
       | some (f, _), some h => decide (f + h.stamp ≤ s.cycle ∧ x.frameFrom < s.cycle)
       | _, _ => decide (x.frameFrom < s.cycle))

/-! ### The selector -/

/-- The four contexts of a tile. -/
def planesOf (t : Nat) : List Nat := [t, 144 + t, 288 + t, 432 + t]

/-- The order of R44 from the running context; where its task has ended, from its plane on; from plane 0 where none has held the
width yet (log 30). -/
def rotation (t : Nat) (holder lastPlane : Option Nat) : List Nat :=
  match holder, lastPlane with
  | some n, _ => [(n + 1) % 4, (n + 2) % 4, (n + 3) % 4].map (fun p => 144 * p + t)
  | none, some n => [(n + 1) % 4, (n + 2) % 4, (n + 3) % 4, n % 4].map (fun p => 144 * p + t)
  | none, none => planesOf t

/-- The choice of a cycle: the context that issues, and the tile's selector state. -/
structure Choice where
  ctx : Option Nat
  holder : Option Nat
  restart : Bool
  expired : Bool
  /-- YIELD still waits for the selector (R468). -/
  yielded : Bool
  /-- The context issues as a strict one. -/
  strict : Bool
  deriving DecidableEq, Repr

/-- R39, R43 to R46, R56, R63, R292, R468. Of several contexts that R39 or R63 puts first, the lowest plane goes first, and one that is
itself blocked on L or t_rel keeps its precedence until its bundle issues, where the spec speaks of that one cycle: both are the
model's choice (log 29). -/
def State.choose (s : State) (t : Nat) : Choice :=
  let tl := s.tile t
  let keep := fun c => Choice.mk c tl.holder false tl.expired tl.yielded false
  match (planesOf t).find? s.strictDue with
  | some c => { keep (some c) with strict := true }
  | none =>
    match (planesOf t).find? (fun c => (s.ctx c).first && s.status c == Status.ready) with
    | some c => ⟨some c, some (tl.holder.getD (planeOf c)), tl.holder.isNone, tl.expired, tl.yielded, false⟩
    | none =>
      let take := fun c => Choice.mk (some c) (some (planeOf c)) true false false false
      let leave := tl.expired || tl.yielded
      let holds : Status := match tl.holder with
        | some n => s.status (144 * n + t)
        | none => .idle
      let evicts := match tl.holder with
        | some n => s.evicting (144 * n + t) && holds != Status.blocked
        | none => false
      match (rotation t tl.holder tl.lastPlane).find? (fun c => s.evicting c && s.status c == Status.ready) with
      | some c => if evicts && !leave then (if holds = .ready then keep (tl.holder.map (fun n => 144 * n + t)) else keep none) else take c
      | none =>
        let other := (rotation t tl.holder tl.lastPlane).find? (fun c => s.status c == Status.ready)
        match tl.holder with
        | none => match other with
          | some c => take c
          | none => keep none
        | some n =>
          let c := 144 * n + t
          match holds with
          | .ready =>
            match other with
            | some d => if leave then take d else ⟨some c, some n, false, false, false, false⟩
            | none => ⟨some c, some n, tl.yielded, !tl.yielded && tl.expired && decide (Config.quantum ≤ tl.quantum), false, false⟩
          | .gap =>
            match other with
            | some d => if leave then take d else keep none
            | none => { keep none with restart := tl.yielded, yielded := false, expired := !tl.yielded && tl.expired }
          | _ =>
            match other with
            | some d => take d
            | none => { keep none with restart := tl.yielded, yielded := false, expired := !tl.yielded && tl.expired }

/-! ### What comes about when a bundle is next to issue (R269, R422, R467) -/

/-- The copy of an absent segment starts as soon as its bundle is next to issue, in elastic and strict contexts alike (R269, R270); of a
context under elastic rules the releases of XWAIT, whatever its count, and of SYNC. A SYNC that is next to issue counts as waiting
from then on, also with mask 0, in its stamp gap, or while another context holds the width, and no event is taken before it: R423
does not say when its wait begins, and this is the model's choice (log 69). -/
def Ctx.poll (x : Ctx) : Ctx :=
  if !x.isLive || x.waitHold != Hold.free then x
  else
    match x.fetch with
    | .bad _ _ _ => x
    | .absent n => x.needSegment n
    | .bundle b _ =>
      if x.strictNow then x
      else
        match wordAt (x.performs b) .c with
        | some (.xwait _ ch) => x.releaseChan ch.val
        | some (.sync _ m) => { x.syncRelease m.toNat x.seq with syncWait := true }
        | _ => x

/-- Poll the contexts of a tile. -/
def State.pollTile (s : State) (t : Nat) : State :=
  (planesOf t).foldl (fun (s : State) c => if (s.ctx c).isLive then s.setCtx c (s.ctx c).poll else s) s

end Sys2Proof.Machine
end

