-- ==== Sys2Proof/Machine/Records.lean ====
section
/-! DEFINITION. Completion records (R331, R485), progress counters (R301), rail votes (R307, R311) and the completion of a
launch (R40, R41). -/

namespace Sys2Proof.Machine

/-! ### Writes of firmware -/

/-- One byte that the scheduler cores write: it waits while the host holds its sector. -/
def State.fwByte (s : State) (held : List Nat) (a : Nat) (b : Byte) : State :=
  if held.contains (a / 64) then { s with fwPend := mput s.fwPend a b }
  else
    let s := s.claim (a / 64)
    { s with dev := mwrite s.dev a b }

/-- A write of device memory by the scheduler cores or a launch unit. Sectors that the host holds are called back, and take
their bytes once the host has given them back (R319). It goes past the SLC: it takes in, dirties and counts as the use of no
sector there (log 55). -/
def State.fwBytes (s : State) (a : Nat) (bs : List Byte) : State :=
  let held := s.hostCopies a bs.length
  if held.isEmpty then
    let s := s.claimRange a bs.length
    { s with dev := writeBytes s.dev a bs }
  else
    ((List.range bs.length).zip bs).foldl (fun (s : State) p => s.fwByte held (a + p.1) p.2)
      (held.foldl (fun (s : State) sec => s.askBack (sec, true)) s)

/-- The same for a little-endian number. -/
def State.fwWrite (s : State) (a n v : Nat) : State := s.fwBytes a (leBytes n v)

/-! ### Completion records (R331) -/

/-- A device address range lies in the HDM window of a function: in frames of its own keys (R318). -/
def State.inWindow (s : State) (fn a n : Nat) : Bool :=
  decide (a + n ≤ Config.devBytes) &&
    (List.range ((a + n - 1) / 2 ^ 21 - a / 2 ^ 21 + 1)).all (fun i =>
      match mfind s.frameKey (a / 2 ^ 21 + i) with
      | some k => mfind s.keys k == some fn
      | none => false)

/-- A range touches a sector of the carve-out, which only the scheduler cores reach (R332). -/
def State.carved (s : State) (a n : Nat) : Bool :=
  match s.fwrange with
  | none => false
  | some (lo, hi) => decide (lo < roundUp (a + n) 64 ∧ a / 64 * 64 < hi)

/-- A launch unit or a tile reaches a range of device memory for a function: it lies in the function's window, under its keys, and off
the carve-out (R183, R318, R332). -/
def State.reaches (s : State) (fn a n : Nat) : Bool := s.inWindow fn a n && !s.carved a n

/-- The first of some ranges that it does not reach: its address. -/
def State.outOfReach (s : State) (fn : Nat) (rs : List (Nat × Nat)) : Option Nat :=
  (rs.find? (fun r => !s.reaches fn r.1 r.2)).map (·.1)

/-- The first word of a record. -/
def recordWord0 (kind reason tag code : Nat) : Nat := kind * 2 ^ 56 + reason * 2 ^ 48 + tag * 2 ^ 32 + code * 2 ^ 22

/-- A 32-byte record enters the function's completion ring; a function without a ring in its window gets none (log 11). -/
def State.record (s : State) (fn kind reason tag code w1 w2 w3 : Nat) : State :=
  let r := mgetD s.rings fn ⟨0, 0, 0⟩
  if r.size = 0 || !s.inWindow fn r.base r.size then s
  else
    let a := r.base + r.tail % r.size
    let s := s.fwWrite a 8 (recordWord0 kind reason (tag % 2 ^ 16) code)
    let s := s.fwWrite (a + 8) 8 w1
    let s := s.fwWrite (a + 16) 8 w2
    let s := s.fwWrite (a + 24) 8 w3
    { s with rings := mput s.rings fn { r with tail := (r.tail + 32) % r.size } }

/-- Where a task stands in w1. -/
def recordPlace (plane at' : Nat) : Nat := plane * 256 + at' / 12 * 16 + at' % 12

/-! ### Progress counters (R301): their numbers -/

def ctrIssue : Nat := 0
def ctrStarted (cls : Nat) : Nat := 1 + cls
def ctrDone (cls : Nat) : Nat := 4 + cls
def ctrWait (cls : Nat) : Nat := 7 + cls
def ctrWmax (cls : Nat) : Nat := 10 + cls
def ctrDebt : Nat := 13
def ctrEnergy : Nat := 14
/-- What ENERGY has beyond whole µJ, in 2^-20 µJ. -/
def ctrEnergyPart : Nat := 15

/-! ### Rails (R307, R311) -/

/-- The vote of a launch on a band. -/
def Launch.vote (l : Launch) (band : Nat) : Nat := bits l.votes (2 * band) 2

/-- A launch casts its votes from its placement until it leaves its region. -/
def LaunchSt.votes : LaunchSt → Bool
  | .placed _ | .running | .evicting _ | .resuming _ => true
  | .queued | .evicted | .over => false

/-- The rails of a region: 4 * column + band. -/
def Launch.rails (l : Launch) : List Nat :=
  (List.range l.cols).flatMap (fun j => (List.range 4).map (fun b => 4 * ((l.x0 + j) % 12) + b))

/-- The highest vote cast on a rail; 0 gates it off. -/
def State.railNeed (s : State) (r : Nat) : Nat :=
  s.launches.foldl (fun m p => if p.2.st.votes && p.2.rails.contains r then max m (p.2.vote (r % 4)) else m) 0

/-- The levels a rail still rises to under a need above its level. A vote that raises it further settles 1,400 cycles later; where a
higher vote has left, the need takes over the lowest settle cycle of a level at or above it. -/
def risesTo (now need : Nat) (rising : List (Nat × Nat)) : List (Nat × Nat) :=
  let below := rising.filter (fun g => decide (g.1 < need))
  match rising.find? (fun g => decide (need ≤ g.1)) with
  | some g => below ++ [(need, g.2)]
  | none => below ++ [(need, now + 1400)]

/-- A rail follows the votes: a lower level at once, a higher one after it has settled. That it takes the whole 1,400 cycles to
settle, and lowers on the cycle the last higher vote leaves, is the model's choice (log 20). -/
def Rail.follow (q : Rail) (now need : Nat) : Rail := if need ≤ q.level then ⟨need, []⟩ else ⟨q.level, risesTo now need q.rising⟩

/-- Rails follow the votes. -/
def State.followVotes (s : State) : State :=
  (List.range 48).foldl (fun (s : State) r =>
    let q := mgetD s.rails r ⟨0, []⟩
    let q' := q.follow s.cycle (s.railNeed r)
    if q' = q then s else { s with rails := mput s.rails r q' }) s

/-! ### The end of a launch (R40, R41) -/

/-- The record of a launch that has ended (R485). -/
def State.launchRecord (s : State) (l : Launch) : State :=
  match l.failure with
  | none => s.record l.fn 0 0 l.tag 0 (recordPlace l.plane 0) 0 0
  | some f => s.record l.fn 1 f.reason l.tag f.code (recordPlace l.plane f.at') f.w2 f.w3

/-- Some task of the launch is live. -/
def State.someLive (s : State) (n : Nat) (l : Launch) : Bool :=
  l.ctxs.any (fun c => (s.ctx c).launch == n && (s.ctx c).isLive)

/-- Some task of the launch waits in the cellar. -/
def State.someEvicted (s : State) (n : Nat) (l : Launch) : Bool :=
  l.ctxs.any (fun c => (s.ctx c).launch == n && (s.ctx c).life == Life.evicted)

/-- The launch is on its tiles. -/
def LaunchSt.onTiles : LaunchSt → Bool
  | .running | .evicting _ => true
  | _ => false

/-- Nothing of the launch is live any more, and it neither waits in the cellar nor goes there. -/
def State.launchDone (s : State) (n : Nat) : Bool :=
  match mfind s.launches n with
  | none => false
  | some l => l.st.onTiles && !s.someLive n l && (l.failing || !s.someEvicted n l)

/-- The launch completes: its record, its DONE counter, its votes leave. -/
def State.completeLaunch (s : State) (n : Nat) : State :=
  if !s.launchDone n then s
  else
    match mfind s.launches n with
    | none => s
    | some l =>
      let s := s.launchRecord l
      let s := s.count l.fn (ctrDone l.cls) 48 1
      { s with launches := mput s.launches n { l with st := .over } }.followVotes

end Sys2Proof.Machine
end

