-- ==== Sys2Proof/Machine/Deliver.lean ====
section
/-! DEFINITION. What comes about at a boundary or on a cycle without a bundle: landings, engine faults, events, rollbacks,
releases, expiries and the ends of tasks (R41, R45, R62 to R68, R87, R271 to R277, R283, R290, R315, R366, R367, R411,
R423, R463). A step that is not due changes nothing. -/

namespace Sys2Proof.Machine

/-- R87: every register write of the context that is due lands. -/
def execRegisterWriteLands (ctx : Nat) (s : State) : Res := .next (s.setCtx ctx ((s.ctx ctx).landAll s.cycle))

/-! ### Boundaries -/

/-- A live context that is neither halted nor waiting for a rollback. -/
def Ctx.atBoundary (x : Ctx) : Bool := x.isLive && !x.halted && x.rollback.isNone

/-- A wait over the records pushed before `limit` with a colour in the mask concerns a fault: the fault is of one of them,
or it has stopped the channel of one of them (R366, R463). -/
def Ctx.waitsOn (x : Ctx) (mask limit : Nat) (f : EngFault) : Bool :=
  covers mask limit f.seq f.colour
    || (f.ch.isSome && x.recs.any (fun r => f.ch == some r.ch && covers mask limit r.seq r.colour))

/-- The wait in force lets an engine fault through (R277, R366, R423). In a SYNC hold it waits for the end of the hold, and an
eviction stop with it, and while a SYNC waits before its issue every fault passes, of a record that its wait does not cover too: R423
speaks of covered ones alone, and both are the model's choice (log 27). One met at the boundary of a TRAP waits until the context is outside service mode (R427). -/
def Ctx.faultPasses (x : Ctx) (f : EngFault) : Bool :=
  !(x.svcMode && (x.trapEdge || f.later)) &&
    match x.wait with
    | .none | .transit _ => true
    | .fence m l | .drain _ m l => x.waitsOn m l f || x.waitOver
    | .hold _ => false

/-! ### Engine faults (R277, R463) -/

/-- The engine fault that is delivered next: the first one that the wait in force lets through. -/
def Ctx.nextFault (x : Ctx) : Option EngFault := x.engFaults.find? x.faultPasses

/-- An engine fault is due for delivery. -/
def Ctx.engineFaultDue (x : Ctx) : Bool := x.atBoundary && x.nextFault.isSome

/-- The fault leaves its queue: a channel loses its later records and stops, a gather leaves the queue. -/
def Ctx.stopSource (x : Ctx) (f : EngFault) : Ctx :=
  let x := { x with engFaults := x.engFaults.erase f }
  match f.ch with
  | some ch => { x with recs := x.recs.filter (fun r => r.ch != ch), stopped := mput x.stopped ch f.code }
  | none => { x with gathers := x.gathers.filter (fun g => g.seq != f.seq) }

/-- R277, R366, R423, R463. A task that has retired END has no boundary left and fails (R41). -/
def execEngineFaultDelivery (ctx : Nat) (s : State) : Res :=
  let x := s.ctx ctx
  .next (if !x.engineFaultDue then s
    else
      match x.nextFault with
      | none => s
      | some f =>
        let s := s.setCtx ctx (x.stopSource f)
        if x.ending.isSome then s.failTask ctx 1 f.code x.pc.toNat f.eaddr
        else s.takeFault ctx f.code f.eaddr 12 f.post)

/-! ### Events (R276, R277) -/

/-- The next bundle is well formed and carries F. -/
def Ctx.nextIsF (x : Ctx) : Bool :=
  match x.wellFormedAt x.pc with
  | some h => h.f
  | none => false

/-- An event is taken at this boundary. -/
def Ctx.eventDue (x : Ctx) : Bool :=
  x.atBoundary && x.svcv && !x.svcMode && x.eventReady && !x.noEvent && !x.syncWait && x.ending.isNone && x.waitOver
    && (!x.strict || x.nextIsF)

/-- R277, R366, R411. -/
def execEventTaken (ctx : Nat) (s : State) : Res :=
  let x := s.ctx ctx
  .next (if x.eventDue then s.deliver ctx 0 0 10 x.pc else s)

/-! ### Rollback (R283) -/

/-- Every result of the context has landed. -/
def Ctx.quiet (x : Ctx) : Bool := x.inFlight.isEmpty && x.matOps.isEmpty

/-- A hazard refuses the rollback. -/
def Ctx.hazard (x : Ctx) : Bool := x.cmt || decide (x.tileHaz ≠ 0#16) || x.planeHaz

/-- The registers of the undo log get their prior values. -/
def Ctx.undoAll (x : Ctx) : Ctx :=
  x.undo.foldl (fun (x : Ctx) e => match e.prior with
    | some v => x.setKey e.key v
    | none => x) x

/-- The context as it stood at its mark, without the pushes held since. -/
def Ctx.toMark (x : Ctx) (now : Nat) : Ctx :=
  let x := x.undoAll
  ({ x with recs := (x.recs.filter (fun (r : CopyRec) => !r.held)).map (fun (r : CopyRec) => { r with kept := r.kept.filter (fun k => !k.post) })
            cells := x.cells.filter (fun r => !r.held)
            drains := (x.drains.filter (fun (r : DrainRec) => !r.held)).map (fun (r : DrainRec) => { r with kept := r.kept.filter (fun k => !k.post) })
            gathers := x.gathers.filter (fun g => !g.post)
            engFaults := x.engFaults.filter (fun f => !f.post)
            undo := [], rows := [], pc := x.markPc, pend := x.markPend, annul := x.markAnnul
            last := none, frame := none, frameFrom := now, eretTest := false, rollback := none }).freshSegment

/-- The bytes of the gate rows come back, newest first. -/
def State.undoRows (s : State) (c : Nat) : State :=
  let t := s.tile (tileOf c)
  s.setTile (tileOf c) { t with sp := (s.ctx c).rows.reverse.foldl rowUndo t.sp }

/-- R283, R274. -/
def execRollback (ctx : Nat) (s : State) : Res :=
  let x := s.ctx ctx
  .next (match x.rollback with
    | none => s
    | some r =>
      if !x.isLive || !x.quiet then s
      else if x.hazard then
        (s.setCtx ctx { x with rollback := none }).deliver ctx (r.code + 2048) r.eaddr r.eslot r.pc
      else
        let s := s.undoRows ctx
        let y := x.toMark s.cycle
        let s := s.setCtx ctx y
        if x.svcv then s.deliver ctx (r.code + 1024) r.eaddr r.eslot y.pc
        else if r.code = 0x185 then s.failTask ctx 1 0x185 y.pc.toNat r.eaddr
        else if r.code = 0x183 then s.setCtx ctx { y with wait := .transit r.eaddr }
        else s)

/-! ### SYNC (R62 to R68) -/

/-- The arrival that a context has raised at the domain of another arrival (R62, R66, R422). -/
def Ctx.arrivalAt (x : Ctx) (a : Arrival) : Option Arrival :=
  match x.wait with
  | .hold b => if x.isLive && b.level == a.level && sameDomain b.dmr a.dmr a.level then some b else none
  | _ => none

/-- t_last of the domain that an arrival names: none while it is not whole. The domain is whole once it has a member and every
member has arrived at it; t_last is the last arrival or the last departure, whichever is later (R63, R66). -/
def State.lastArrival (s : State) (c : Nat) (a : Arrival) : Option Nat :=
  let ms := s.domainOf c a.dmr a.level
  let as := ms.filterMap (fun d => (s.ctx d).arrivalAt a)
  if ms.isEmpty || as.length < ms.length then none
  else
    let gone := as.any (fun b => b.members.any (fun d => !ms.contains d))
    some (as.foldl (fun m b => max m (max b.at' b.left)) (if gone then s.cycle else 0))

/-- The domain of a held context releases on this cycle (R63, R64). -/
def State.releaseDue (s : State) (c : Nat) : Bool :=
  let x := s.ctx c
  x.isLive && (match x.wait with
    | .hold a =>
      match s.lastArrival c a with
      | some t => decide (t + 40 ≤ s.cycle) && (!x.strict || s.cal.start == s.cycle)
      | none => false
    | _ => false)

/-- A member goes on (R48, R63, R64, R67). -/
def Ctx.release (x : Ctx) (now : Nat) : Ctx :=
  { x with wait := .none, holdD := none, first := !x.strict, last := none, noEvent := true, fcount := 0#32, fcycFrom := now
           frame := if x.strictNow then some (now, none) else x.frame }

/-- The contexts of a launch that have arrived at the domain of an arrival, its members and those that have moved out of it
since (R66, log 57). -/
def State.arrivedAt (s : State) (c : Nat) (a : Arrival) : List Nat :=
  let cs := match mfind s.launches (s.ctx c).launch with
    | none => [c]
    | some l => l.ctxs
  cs.filter (fun d => ((s.ctx d).arrivalAt a).isSome)

/-- R63, R64, R210: every context that has arrived at the domain goes on. -/
def execSyncRelease (ctx : Nat) (s : State) : Res :=
  .next (if !s.releaseDue ctx then s
    else
      match (s.ctx ctx).wait with
      | .hold a => (s.arrivedAt ctx a).foldl (fun (s : State) c => s.setCtx c ((s.ctx c).release s.cycle)) s
      | _ => s)

/-! ### Quantum, pause, watchdog, drain distance -/

/-- R45: the quantum has run out; the selector switches at the next boundary at which another context is ready. -/
def execQuantumExpiry (tile : Nat) (s : State) : Res :=
  let t := s.tile tile
  .next (if t.holder.isSome ∧ Config.quantum ≤ t.quantum then s.setTile tile { t with expired := true } else s)

/-- R411: the pause time has passed, or EVQ is set. -/
def Ctx.pauseOver (x : Ctx) (now : Nat) : Bool :=
  match x.pauseTo with
  | none => false
  | some u => decide (u ≤ now) || x.evPending.getLsbD 3

/-- R411. -/
def execPauseEnd (ctx : Nat) (s : State) : Res :=
  let x := s.ctx ctx
  .next (if x.pauseOver s.cycle then s.setCtx ctx { x with pauseTo := none } else s)

/-- R315: the launch fails with REASON 2, the address next to issue and the kind of wait. -/
def execWatchdogExpiry (ctx : Nat) (s : State) : Res :=
  let x := s.ctx ctx
  .next (if x.isLive && decide (x.wdLimit < x.watchdog) then s.failTask ctx 2 0 x.pc.toNat (s.holdNow ctx).kind else s)

/-- R290, R368: 0x282 at the next boundary, or at once in a context that is blocked. -/
def execDrainLimitExceeded (ctx : Nat) (s : State) : Res :=
  let x := s.ctx ctx
  .next (if !x.atBoundary || decide (x.drainCount ≤ x.limit.toNat) then s
    else if x.ending.isSome then s.failTask ctx 1 0x282 x.pc.toNat 0
    else s.deliver ctx 0x282 0 10 x.pc)

/-! ### The ends of tasks (R40, R41, R367) -/

/-- Step 3 of END holds. -/
def Ctx.endReady (x : Ctx) : Bool :=
  x.isLive && x.ending.isSome && x.quiet && x.recs.isEmpty && x.cells.isEmpty && x.drains.isEmpty && x.engFaults.isEmpty
    && !x.colls.any (fun r => r.st == CollState.pending) && !x.gathers.any (fun g => g.results.isNone)

/-- R367, R40, R41, R66: the task ends, and with the last task of its region the launch completes. -/
def execTaskEnd (ctx : Nat) (s : State) : Res :=
  let x := s.ctx ctx
  let s := if !x.endReady then s
    else
      let failed := match x.ending with
        | some e => decide (e.1 ≠ 0)
        | none => false
      (s.setCtx ctx { x with life := if failed then .failed else .ended, wait := .none, pauseTo := none, ending := none
                             gathers := [], colls := [] }).freeOwner ctx
  .next (s.completeLaunch x.launch)

/-- Another task of the launch failed before this cycle (R41). A task whose END has retired goes on to its end. -/
def State.stopDue (s : State) (c : Nat) : Bool :=
  let x := s.ctx c
  x.isLive && x.ending.isNone && (match mfind s.launches x.launch with
    | some l => l.failing && (match l.failure with
      | some f => decide (f.cycle < s.cycle)
      | none => false)
    | none => false)

/-- R41: the task stops. -/
def execLaunchFailureStop (ctx : Nat) (s : State) : Res :=
  let x := s.ctx ctx
  .next (if !s.stopDue ctx then s
    else
      ((s.setCtx ctx { x.releaseAll with life := .stopped, wait := .none, pauseTo := none, syncWait := false
                                         rollback := none }).freeOwner ctx).completeLaunch x.launch)

end Sys2Proof.Machine
end

