-- ==== Sys2Proof/Machine/Scalar.lean ====
section
/-! DEFINITION. The scalar words of SA and SB (R98): arithmetic, logic, shifts, comparison and selection. Each reads
its operands on the issue cycle and its result lands at the latency of R89. -/

namespace Sys2Proof.Machine

/-- R345. -/
def execAdd (d a b : SReg) (s : State) : Res := .next (s.writeS 1 d (s.rs a + s.rs b))

/-- R345. -/
def execAddi (d a : SReg) (imm : BitVec 12) (s : State) : Res := .next (s.writeS 1 d (s.rs a + simm imm))

/-- R350. -/
def execAnd (d a b : SReg) (s : State) : Res := .next (s.writeS 1 d (s.rs a &&& s.rs b))

/-- R350. -/
def execAndi (d a : SReg) (imm : BitVec 12) (s : State) : Res := .next (s.writeS 1 d (s.rs a &&& zimm imm))

/-- R410. -/
def execOr (d a b : SReg) (s : State) : Res := .next (s.writeS 1 d (s.rs a ||| s.rs b))

/-- R410. -/
def execOri (d a : SReg) (imm : BitVec 12) (s : State) : Res := .next (s.writeS 1 d (s.rs a ||| zimm imm))

/-- R464. -/
def execXor (d a b : SReg) (s : State) : Res := .next (s.writeS 1 d (s.rs a ^^^ s.rs b))

/-- R464. -/
def execXori (d a : SReg) (imm : BitVec 12) (s : State) : Res := .next (s.writeS 1 d (s.rs a ^^^ zimm imm))

/-- R420. -/
def execSub (d a b : SReg) (s : State) : Res := .next (s.writeS 1 d (s.rs a - s.rs b))

/-- Leading zeros of a word; 64 for zero (R356). -/
def clz64 (x : Word) : Word := BitVec.ofNat 64 (64 - bitLen x.toNat)

/-- Trailing zeros of a word; 64 for zero (R356). -/
def ctz64 (x : Word) : Word :=
  match (List.range 64).find? (fun i => x.getLsbD i) with
  | some i => BitVec.ofNat 64 i
  | none => 64#64

/-- Set bits of a word (R413). -/
def popc64 (x : Word) : Word := BitVec.ofNat 64 ((List.range 64).filter (fun i => x.getLsbD i)).length

/-- R356. -/
def execClz (d a : SReg) (s : State) : Res := .next (s.writeS 1 d (clz64 (s.rs a)))

/-- R356. -/
def execCtz (d a : SReg) (s : State) : Res := .next (s.writeS 1 d (ctz64 (s.rs a)))

/-- R413. -/
def execPopc (d a : SReg) (s : State) : Res := .next (s.writeS 1 d (popc64 (s.rs a)))

/-- R99, R357. -/
def execCmp (d : QReg) (a : SReg) (b : Src) (c : Cond) (s : State) : Res :=
  .next (s.writeQ 1 d (condTrue c (s.rs a) (s.cmpSource b)))

/-- The value of a word, signed or unsigned. -/
def wordInt (u : Bool) (x : Word) : Int := if u then (x.toNat : Int) else x.toInt

/-- The quotient of R363. -/
def divResult (u : Bool) (x y : Word) : Word :=
  if y = 0#64 then BitVec.allOnes 64 else BitVec.ofInt 64 ((wordInt u x).tdiv (wordInt u y))

/-- The remainder of R414. -/
def remResult (u : Bool) (x y : Word) : Word :=
  if y = 0#64 then x else BitVec.ofInt 64 ((wordInt u x).tmod (wordInt u y))

/-- R363. -/
def execDiv (d a b : SReg) (u : Bool) (s : State) : Res := .next (s.writeS 20 d (divResult u (s.rs a) (s.rs b)))

/-- R414. -/
def execRem (d a b : SReg) (u : Bool) (s : State) : Res := .next (s.writeS 20 d (remResult u (s.rs a) (s.rs b)))

/-- R406. -/
def execMul (d a b : SReg) (s : State) : Res := .next (s.writeS 3 d (s.rs a * s.rs b))

/-- Bits [127:64] of the product (R406). -/
def mulHigh (u : Bool) (x y : Word) : Word := BitVec.ofInt 64 (wordInt u x * wordInt u y / 2 ^ 64)

/-- R406. -/
def execMulh (d a b : SReg) (u : Bool) (s : State) : Res := .next (s.writeS 3 d (mulHigh u (s.rs a) (s.rs b)))

/-- R394. -/
def execMin (d a b : SReg) (u : Bool) (s : State) : Res :=
  .next (s.writeS 1 d (if wordInt u (s.rs b) < wordInt u (s.rs a) then s.rs b else s.rs a))

/-- R394. -/
def execMax (d a b : SReg) (u : Bool) (s : State) : Res :=
  .next (s.writeS 1 d (if wordInt u (s.rs a) < wordInt u (s.rs b) then s.rs b else s.rs a))

/-- R416. -/
def execShl (d a : SReg) (b : Src) (s : State) : Res := .next (s.writeS 1 d (s.rs a <<< s.shiftCount b))

/-- R416. -/
def execShr (d a : SReg) (b : Src) (s : State) : Res := .next (s.writeS 1 d (s.rs a >>> s.shiftCount b))

/-- R416. -/
def execSra (d a : SReg) (b : Src) (s : State) : Res := .next (s.writeS 1 d ((s.rs a).sshiftRight (s.shiftCount b)))

/-- R416. -/
def execRotl (d a : SReg) (b : Src) (s : State) : Res := .next (s.writeS 1 d ((s.rs a).rotateLeft (s.shiftCount b)))

/-- R417. -/
def execSel (d a b : SReg) (qn : Bool) (q : QReg) (s : State) : Res :=
  .next (s.writeS 1 d (if s.rq q != qn then s.rs a else s.rs b))

/-- The value LIMM builds (R387). -/
def limmValue (p : LPos) (old : Word) (imm : BitVec 18) : Word :=
  match p with
  | .p0 => imm.signExtend 64
  | .p18 => BitVec.ofNat 64 (blend (ones 18 * 2 ^ 18) old.toNat (imm.toNat * 2 ^ 18))
  | .p36 => BitVec.ofNat 64 (blend (ones 18 * 2 ^ 36) old.toNat (imm.toNat * 2 ^ 36))
  | .p54 => BitVec.ofNat 64 (blend (ones 10 * 2 ^ 54) old.toNat (imm.toNat % 1024 * 2 ^ 54))

/-- R387. -/
def execLimm (p : LPos) (d : SReg) (imm : BitVec 18) (s : State) : Res :=
  .next (s.writeS 1 d (limmValue p (s.rs d) imm))

end Sys2Proof.Machine
end

