-- ==== Sys2Proof/Machine/System.lean ====
section
/-! DEFINITION. Reading and writing control registers (R86, R399, R400). -/

namespace Sys2Proof.Machine

/-- FRAMEC as an MFC that issues now returns it (R54). -/
def State.framec (s : State) (x : Ctx) : Word :=
  let fcyc := if x.strict then s.frameCycle % 2 ^ 14 else min 16383 (s.cycle - x.fcycFrom)
  BitVec.ofNat 64 (x.fcount.toNat * 2 ^ 16 + fcyc)

/-- EVENT (R276). -/
def Ctx.eventWord (x : Ctx) : Word :=
  BitVec.ofNat 64 (x.sigval.toNat * 2 ^ 32 + x.evEnable.toNat * 2 ^ 8 + x.evPending.toNat)

/-- The value of a control register as it stands; none for a number R86 does not assign. -/
def State.creg (s : State) (c num : Nat) : Option Word :=
  let x := s.ctx c
  match num with
  | 0x000 => some (BitVec.ofNat 64 (planeOf c))
  | 0x001 => some (x.region.zeroExtend 64)
  | 0x002 => some (s.framec x)
  | 0x003 => some (x.cadence.zeroExtend 64)
  | 0x004 => some (BitVec.ofNat 64 x.cadlock.toNat)
  | 0x005 => some (x.ashape.zeroExtend 64)
  | 0x006 => some (x.dmr.zeroExtend 64)
  | 0x007 => some (x.accBase.zeroExtend 64)
  | 0x008 => some (x.accCnt.zeroExtend 64)
  | 0x010 => some (x.epc.zeroExtend 64)
  | 0x011 => some (x.ecause.zeroExtend 64)
  | 0x012 => some x.eaddr
  | 0x013 => some (x.eslot.zeroExtend 64)
  | 0x014 => some x.etgt
  | 0x015 => some (x.edly.zeroExtend 64)
  | 0x016 => some x.eventWord
  | 0x020 => some x.loopc0
  | 0x021 => some x.loopc1
  | 0x022 => some (x.hintdrop.zeroExtend 64)
  | 0x023 => some x.srseed
  | 0x024 => some (x.vstat.zeroExtend 64)
  | 0x030 => some (x.wtab.zeroExtend 64)
  | 0x031 => some (x.segtab.zeroExtend 64)
  | 0x032 => some (x.limit.zeroExtend 64)
  | 0x033 => some (BitVec.ofNat 64 s.cal.mcal)
  | _ => none

/-- Registers that only the device writes (R86). -/
def crReadOnly (num : Nat) : Bool :=
  decide (num ≤ 0x004 ∨ num = 0x007 ∨ num = 0x008 ∨ (0x030 ≤ num ∧ num ≤ 0x033))

/-- Registers written only in service code (R86). -/
def crService (num : Nat) : Bool := decide (0x010 ≤ num ∧ num ≤ 0x016)

/-- R399: the value lands on t + 2. -/
def execMfc (d : SReg) (num : BitVec 12) (s : State) : Res :=
  .next (match s.creg s.issue.ctx num.toNat with
    | none => s.raise 0x080 0
    | some v => s.writeS 2 d v)

/-- A write of a control register, with the faults of R399 and R400 in order; the write lands on t + 2. Outside service
mode the registers of R279 take an undo entry. -/
def State.writeCr (s : State) (num : Nat) (v : Word) : State :=
  if (s.creg s.issue.ctx num).isNone then s.raise 0x080 0
  else if crReadOnly num then s.raise 0x081 0
  else if crService num && !s.cx.svcMode then s.raise 0x082 0
  else if num = 0x005 ∧ v.toNat % 16 = 0 then s.raise 0x088 0
  else
    let s := if s.cx.svcMode then s
      else match (Dst.cr num).key with
        | some key => s.needUndo key
        | none => s
    s.pend 2 (.cr num) (ones 64) v.toNat

/-- R399, R400. -/
def execMtc (num : BitVec 12) (a : SReg) (s : State) : Res := .next (s.writeCr num.toNat (s.rs a))
/-- R276, R400: ENABLE is written and the pending bits that are 1 in the value are cleared. -/
def execMtcEvent (a : SReg) (s : State) : Res := .next (s.writeCr 0x016 (s.rs a))
/-- R60, R400: membership changes on the landing cycle. -/
def execMtcDmr (a : SReg) (s : State) : Res := .next (s.writeCr 0x006 (s.rs a))
/-- R231, R400: BANDS is written; zero BANDS raises 0x088. -/
def execMtcAshape (a : SReg) (s : State) : Res := .next (s.writeCr 0x005 (s.rs a))

end Sys2Proof.Machine
end

