-- ==== Sys2Proof/Machine/Words.lean ====
section
/-! DEFINITION. The meaning of a slot word inside a bundle: the same meanings that the dispatcher calls. A step of the part
is no slot word and does nothing in a bundle. -/

namespace Sys2Proof.Machine

/-- What a slot word does to the state in the course of its bundle. -/
def wordMeaning (i : Instr) (s : State) : Res :=
  match i with
  | .aadd d a b w col => execAadd d a b w col s
  | .amin d a b w u col => execAmin d a b w u col s
  | .amax d a b w u col => execAmax d a b w u col s
  | .aand d a b w col => execAand d a b w col s
  | .aor d a b w col => execAor d a b w col s
  | .axor d a b w col => execAxor d a b w col s
  | .aswap d a b w col => execAswap d a b w col s
  | .acas d a b w col => execAcas d a b w col s
  | .add d a b => execAdd d a b s
  | .addi d a imm => execAddi d a imm s
  | .amog a k op w col ch => execAmog a k op w col ch s
  | .and d a b => execAnd d a b s
  | .andi d a imm => execAndi d a imm s
  | .bkpt => execBkpt s
  | .br q qn disp => execBr q qn disp s
  | .brn q qn disp => execBrn q qn disp s
  | .call disp => execCall disp s
  | .clz d a => execClz d a s
  | .ctz d a => execCtz d a s
  | .cmp d a b c => execCmp d a b c s
  | .coll a col => execColl a col s
  | .cpop v d => execCpop v d s
  | .div d a b u => execDiv d a b u s
  | .drain sc mask => execDrain sc mask s
  | .endTask status => execEndTask status s
  | .eret => execEret s
  | .fence mask => execFence mask s
  | .fexp2 d a t k => execFexp2 d a t k s
  | .flog2 d a t k => execFlog2 d a t k s
  | .frcp d a t k => execFrcp d a t k s
  | .frsq d a t k => execFrsq d a t k s
  | .ftanh d a t k => execFtanh d a t k s
  | .fsig d a t k => execFsig d a t k s
  | .fsin d a t k => execFsin d a t k s
  | .fcos d a t k => execFcos d a t k s
  | .gpop v d => execGpop v d s
  | .gthr v b w => execGthr v b w s
  | .jmp disp => execJmp disp s
  | .jmpr a => execJmpr a s
  | .kand d a b => execKand d a b s
  | .kor d a b => execKor d a b s
  | .kxor d a b => execKxor d a b s
  | .knot d a => execKnot d a s
  | .kpopc d a => execKpopc d a s
  | .kfirst d a => execKfirst d a s
  | .ladd v i p col => execLadd v i p col s
  | .ld t d b off => execLd t d b off s
  | .limm p d imm => execLimm p d imm s
  | .linit a n col => execLinit a n col s
  | .loop c1 disp => execLoop c1 disp s
  | .lraw a b n => execLraw a b n s
  | .maccd acc a b clamp quarters => execMaccd acc a b clamp quarters s
  | .min d a b u => execMin d a b u s
  | .max d a b u => execMax d a b u s
  | .mcfg a b => execMcfg a b s
  | .mdrn acc a b clamp quarters => execMdrn acc a b clamp quarters s
  | .mfc d num => execMfc d num s
  | .mtc num a => execMtc num a s
  | .mtcEvent a => execMtcEvent a s
  | .mtcDmr a => execMtcDmr a s
  | .mtcAshape a => execMtcAshape a s
  | .mldw a b bands => execMldw a b bands s
  | .mmul acc a b aip bands => execMmul acc a b aip bands s
  | .mswap => execMswap s
  | .mul d a b => execMul d a b s
  | .mulh d a b u => execMulh d a b u s
  | .mvec acc a b aip bands => execMvec acc a b aip bands s
  | .mzero acc quarters => execMzero acc quarters s
  | .or d a b => execOr d a b s
  | .ori d a imm => execOri d a imm s
  | .pause n => execPause n s
  | .pfh a b kind => execPfh a b kind s
  | .popc d a => execPopc d a s
  | .rem d a b u => execRem d a b u s
  | .ret a => execRet a s
  | .shl d a b => execShl d a b s
  | .shr d a b => execShr d a b s
  | .sra d a b => execSra d a b s
  | .rotl d a b => execRotl d a b s
  | .sel d a b qn q => execSel d a b qn q s
  | .st w d b off col => execSt w d b off col s
  | .sub d a b => execSub d a b s
  | .sync level mask => execSync level mask s
  | .trap n => execTrap n s
  | .vadd d a b t k => execVadd d a b t k s
  | .vsub d a b t k => execVsub d a b t k s
  | .vmul d a b t k => execVmul d a b t k s
  | .vfma d a b t k => execVfma d a b t k s
  | .vmin d a b t k => execVmin d a b t k s
  | .vmax d a b t k => execVmax d a b t k s
  | .vabs d a t k => execVabs d a t k s
  | .vneg d a t k => execVneg d a t k s
  | .vand d a b t k => execVand d a b t k s
  | .vor d a b t k => execVor d a b t k s
  | .vxor d a b t k => execVxor d a b t k s
  | .vshl d a b t k => execVshl d a b t k s
  | .vshr d a b t k => execVshr d a b t k s
  | .vsra d a b t k => execVsra d a b t k s
  | .vsel d a b t k => execVsel d a b t k s
  | .vclamp d a b t k => execVclamp d a b t k s
  | .vdot d a b t k => execVdot d a b t k s
  | .vred d a op t k => execVred d a op t k s
  | .vscan d a op t k => execVscan d a op t k s
  | .vperm d a b t k => execVperm d a b t k s
  | .vsplat d a t k => execVsplat d a t k s
  | .vmov d a t k => execVmov d a t k s
  | .vget d a b t k => execVget d a b t k s
  | .vput d a b t k => execVput d a b t k s
  | .vxch d a dist t k => execVxch d a dist t k s
  | .vcvt m d a iov ts t k => execVcvt m d a iov ts t k s
  | .vqnt m d a kind atype t k => execVqnt m d a kind atype t k s
  | .vdqnt d a kind code t k => execVdqnt d a kind code t k s
  | .vcmp c d a b t k => execVcmp c d a b t k s
  | .vcsq d a b t k => execVcsq d a b t k s
  | .vld d b off => execVld d b off s
  | .vldb d b off => execVldb d b off s
  | .vlds w d b off => execVlds w d b off s
  | .vstK0 d b off col => execVstK0 d b off col s
  | .vstK1 d b off col => execVstK1 d b off col s
  | .vstK2 d b off col => execVstK2 d b off col s
  | .vstK3 d b off col => execVstK3 d b off col s
  | .vsts w d b off col => execVsts w d b off col s
  | .xfer a col ch => execXfer a col ch s
  | .xor d a b => execXor d a b s
  | .xori d a imm => execXori d a imm s
  | .xptr d ch => execXptr d ch s
  | .xwait a ch => execXwait a ch s
  | .yield => execYield s
  | _ => .next s

end Sys2Proof.Machine
end

