-- ==== Sys2Proof/Machine/Bundle.lean ====
section
/-! DEFINITION. The issue of one bundle on a tile (R39, R42 to R57, R78 to R80, R92 to R95, R194, R268, R271, R278, R288 to
R290, R340, R351, R411, R468). -/

namespace Sys2Proof.Machine

/-! ### Checks of a bundle that is about to issue -/

def hasSync (b : Bundle) : Bool := b.words.any (fun p => match p.2 with
  | .sync _ _ => true
  | _ => false)

/-- A strict frame start lacks F or STAMP 0 (R37, R50, R369). -/
def Ctx.frameFault (x : Ctx) (h : Header) : Option Nat :=
  if x.frame.isNone && !h.f then some (if x.eretTest then 0x288 else 0x280)
  else if h.f && decide (h.stamp ≠ 0) then some 0x280
  else none

/-- A strict bundle's stamp does not fit its frame or its due cycle has passed (R51). -/
def Ctx.stampFault (x : Ctx) (now : Nat) (h : Header) : Bool :=
  match x.frame with
  | none => false
  | some (f, prev) =>
    !x.awaitsFrame && (decide (8192 ≤ h.stamp) || decide (f + h.stamp < now) || (match prev with
      | some p => decide (h.stamp ≤ p)
      | none => false))

/-- The faults of the flags and of the schedule that stand before the words are looked at, with ESLOT (R50, R369). An
annulled bundle raises none (R92, log 58). -/
def Ctx.headFault (x : Ctx) (h : Header) : Option (Nat × Nat) :=
  if x.strictNow && x.annul == 0 then (x.frameFault h).map (fun c => (c, 10)) else none

/-- The faults of stamp, flags and scoreboard (R51, R278, R289); none of an annulled bundle (R92, log 58). -/
def State.flagFault (s : State) (c : Nat) (b : Bundle) : Option (Nat × Nat) :=
  let x := s.ctx c
  let h := b.hdr
  if x.svcMode || x.annul != 0 then none
  else if x.strict && x.stampFault s.cycle h then some (0x281, 10)
  else if x.strict && h.k && !h.f then some (0x287, 10)
  else if x.strict && h.d && !h.f && !hasSync b then some (0x285, 10)
  else if h.d && x.resultsInFlight then some (0x285, 10)
  else if x.strict && s.xHold c (x.performs b) then some (0x281, 8)
  else none

/-! ### Flags (R53, R54, R79, R268, R278, R290) -/

/-- The context at the boundary before its bundle, with the flags in effect and the bundle counted as issued. -/
def Ctx.open' (x : Ctx) (now : Nat) (b : Bundle) : Ctx :=
  let h := b.hdr
  let flags := !x.svcMode
  let x := match x.segOf x.pc.toNat with
    | some n => { x with cur := n }
    | none => x
  let x := if flags && h.d && x.drained && (!x.strict || h.f) then { x with drainCount := 0 } else x
  let x := if flags && h.k then x.mark else x
  let x := if flags && h.b then x.boundaryCopy else x
  let x := if flags && h.f then { x with fcount := x.fcount + 1, fcycFrom := now } else x
  let frame := if !x.strictNow then x.frame
    else if x.awaitsFrame then some (now, some h.stamp)
    else match x.frame with
      | some (f, _) => some (f, some h.stamp)
      | none => none
  { x with frame := frame, frameFrom := now, eretTest := false, last := some (now, h.stamp), first := false
           noEvent := false, syncWait := false, watchdog := 0, readyFrom := now, trapEdge := false
           engFaults := if x.trapEdge then x.engFaults.map (fun f => { f with later := true }) else x.engFaults
           holdD := if flags && x.annul == 0 && h.d && hasSync b then some x.pc else none }

/-! ### The words -/

/-- TRAP delivers after the other words have performed (R272, R426). -/
def inOrder : List (Slot × Instr) → List (Slot × Instr)
  | (.sa, .trap n) :: rest => rest ++ [(.sa, .trap n)]
  | ws => ws

/-- One word performs. -/
def State.word (s : State) (p : Slot × Instr) : State :=
  let s := { s with issue := { s.issue with slot := p.1 } }
  match wordMeaning p.2 s with
  | .next s' => s'
  | _ => s

/-- The bundle in hand. -/
def State.take (s : State) (c : Nat) (b : Bundle) (len : Nat) (pc : PAddr) (ws : List (Slot × Instr)) : State :=
  let t := s.tile (tileOf c)
  let s := { s with issue := ⟨c, .sa, b.hdr.cmask, b.hdr.prof, pc, len, t.sp, t.bad, (s.ctx c).seq, [], none, false, false⟩ }
  match wordAt ws .mb with
  | some i => { s with issue := { s.issue with mbBanks := s.touchedBanks i } }
  | none => s

/-! ### After the words -/

/-- A context halts at this boundary; a strict one abandons its frame (R336, R351). -/
def Ctx.halt (x : Ctx) (now : Nat) : Ctx :=
  let x := { x with halted := true, haltNext := false, stepOnce := false }
  if x.strict then { x with frame := none, frameFrom := now, eretTest := !x.svcMode } else x

/-- The next address, the releases of END, the halt, and what YIELD asks of the selector. -/
def State.close (s : State) (annulled : Bool) : State :=
  let x := s.cx
  let x := if s.issue.advanced then x
    else if annulled then x.advanceAnnulled s.issue.pc s.issue.len
    else x.advance s.issue.pc s.issue.len none false
  let x := if x.ending.isSome || !x.isLive then x.releaseAll else x
  let x := if x.haltNext || x.stepOnce then x.halt s.cycle else x
  let t := s.tl
  let gives := s.issue.giveUp && decide (t.holder = some (planeOf s.issue.ctx))
  let s := (s.setCx x).setTl (if gives then { t with yielded := true } else t)
  { s with issue := .none }

/-- A bundle that raises a fault has used its cycle and performs nothing (R271, R340). -/
def State.issueFault (s : State) (c : Nat) (r : Raise) : State :=
  let x := s.ctx c
  let x := { x with first := false, frameFrom := s.cycle, colls := if r.pop then x.colls.drop 1 else x.colls }
  let x := if r.eslot = 11 then x.freshSegment else x
  (s.setCtx c x).takeFault c r.code r.eaddr r.eslot true

/-- The state after the words of a bundle, with what they raise. -/
def State.ran (s : State) (c : Nat) (b : Bundle) (len : Nat) : State :=
  let x := s.ctx c
  let ws := x.performs b
  (inOrder ws).foldl State.word ((s.setCtx c (x.open' s.cycle b)).take c b len x.pc ws)

/-- The fault of a strict bundle that pushes to a page in transit, which stands before the faults of its stamp (R51). -/
def State.transitFault (s : State) (c : Nat) (b : Bundle) (len : Nat) : Option Raise :=
  if (s.ctx c).strictNow then (s.ran c b len).issue.raised.filter (fun r => r.code == 0x183) else none

/-- A bundle that passes its checks performs, or raises what its words raise. -/
def State.issueBundle (s : State) (c : Nat) (b : Bundle) (len : Nat) : State :=
  let x := s.ctx c
  let s1 := s.ran c b len
  match x.headFault b.hdr with
  | some f => s.issueFault c ⟨f.1, 0, f.2, false⟩
  | none =>
    match s.transitFault c b len with
    | some r => s.issueFault c r
    | none =>
      match s.flagFault c b with
      | some f => s.issueFault c ⟨f.1, 0, f.2, false⟩
      | none =>
        match s1.issue.raised with
        | some r => s.issueFault c r
        | none => s1.close (decide (x.annul ≠ 0))

/-! ### What the monitors see (R339) -/

/-- The next bundle of a strict context is not ready on this cycle: a wait, the scoreboard, a segment or a page in transit holds it
(R51, R339). -/
def State.unready (s : State) (c : Nat) (x : Ctx) : Bool :=
  s.holdOf c != Hold.free || (match x.fetch with
    | .bundle b len => (s.transitFault c b len).isSome
    | _ => false)

/-- A block of a context is over: its cycles are sampled. -/
def State.endBlock (s : State) (c cycles : Nat) : State :=
  (s.setCtx c { s.ctx c with blockedFrom := none }).sample c 0 cycles

/-- What stands in the way of a context where bundles issue on this cycle: the first cycle of its block, whose length is sampled on
the first cycle that does not find it blocked, and the last cycle on which a strict bundle was not ready. -/
def State.watch (s : State) (c : Nat) : State :=
  let x := s.ctx c
  if !x.isLive then s
  else
    let y := if x.strict && s.unready c x then { x with readyFrom := s.cycle } else x
    match x.blockedFrom with
    | none => s.setCtx c (if s.inBlock c then { y with blockedFrom := some s.cycle } else y)
    | some t => if s.inBlock c then s.setCtx c y else (s.setCtx c y).endBlock c (s.cycle - t)

def State.watchTile (s : State) (t : Nat) : State := (planesOf t).foldl State.watch s

/-- The slack of a strict bundle that issues: the cycles from its readiness to its due cycle. -/
def State.issueSamples (s : State) (c : Nat) : State :=
  let x := s.ctx c
  if x.strictNow then s.sample c 2 (s.cycle - max x.frameFrom x.readyFrom - 1) else s

/-- The context that was chosen issues its next bundle. An annulled strict bundle in a segment that is not resident raises 0x284 as any
other does, where R92 lets it raise only encoding faults: the model's choice (log 58). -/
def State.issueCtx (s : State) (c : Nat) : State :=
  let s := s.issueSamples c
  match (s.ctx c).fetch with
  | .bundle b len => s.issueBundle c b len
  | .bad code ea sl => s.issueFault c ⟨code, ea, sl, false⟩
  | .absent n => (s.setCtx c ((s.ctx c).needSegment n)).issueFault c ⟨0x284, 0, 10, false⟩

/-- R42: at most one bundle of one context issues on the tile on this cycle, whose issue width a tenant holds (R301). -/
def execBundleIssue (tile : Nat) (s : State) : Res :=
  .next (if s.issued.contains tile then s
    else
      let s := { (s.pollTile tile).watchTile tile with issued := tile :: s.issued }
      let ch := s.choose tile
      let t := s.tile tile
      let strictTook := if ch.strict then ch.ctx.map planeOf else t.strictTook
      let s := s.setTile tile { t with
        holder := ch.holder, quantum := if ch.restart then 0 else t.quantum, expired := ch.expired, yielded := ch.yielded
        strictTook := strictTook
        width := ((strictTook <|> ch.holder).map (fun p => s.ctx (144 * p + tile))).bind (fun x => if x.isLive then some x.tenant else none) }
      match ch.ctx with
      | none => s
      | some c => s.issueCtx c)

end Sys2Proof.Machine
end

