-- ==== Sys2Proof/Machine/Launch.lean ====
section
/-! DEFINITION. Launches: the tables that the launch unit checks (R177, R267, R291, R330), placement (R31, R32, R55, R57,
R297 to R300), the state at L (R38) and the start (R37, R39, R307, R312). -/

namespace Sys2Proof.Machine

/-- A little-endian 64-bit word of device memory. -/
def State.devWord (s : State) (a : Nat) : Nat := s.devLE a 8

/-! ### The window table (R176, R177) -/

/-- A table entry maps a device page at a base. -/
def entAt (e base lsize : Nat) : Bool :=
  entState e != 0 && entRoute e == 0 && entPframe e == base && entLsize e == lsize

/-- An entry with another STATE (R176). -/
def entSetState (e st : Nat) : Nat := e - entState e * 2 ^ 9 + st * 2 ^ 9

def State.wordsAt (s : State) (a n : Nat) : List Nat := (List.range n).map (fun i => s.devWord (a + 8 * i))

/-- The 256 entries of a table image. -/
def State.tableImage (s : State) (a : Nat) : List (Nat × Nat) :=
  (List.range 256).map (fun i => (i, s.devLE (a + 16 * i) 16))

/-- Entries with STATE 1, 2 or 3; an entry with STATE 0 is ignored. -/
def usedEntries (es : List (Nat × Nat)) : List (Nat × Nat) := es.filter (fun p => decide (entState p.2 ≠ 0))

/-- One entry refuses the table. -/
def State.entBad (s : State) (fn e : Nat) : Bool :=
  let size := 2 ^ entSize e
  decide (bits e 109 19 ≠ 0) || decide (entState e = 3) || decide (entRoute e = 3) || decide (entPolicy e = 3)
    || decide (1 ≤ entLsize e ∧ entLsize e ≤ 15)
    || decide (entVbase e % size ≠ 0) || decide (entPframe e % size ≠ 0)
    || (entRoute e != 0 && (entKey e != 0 || bits e 100 9 != 0 || entPolicy e != 0))
    || ((entType e == 1 || entType e == 3) && entRoute e != 0)
    || (entType e != 1 && bits e 100 9 != 0)
    || (entX e && entType e != 2)
    || (entRoute e == 0 && mfind s.keys (entKey e) != some fn)
    || (entRoute e != 0 && !(s.linkUp && s.linkRate == 64000))

/-- Two entries overlap. -/
def entsOverlap (a b : Nat) : Bool :=
  decide (entVbase a < entVbase b + 2 ^ entSize b ∧ entVbase b < entVbase a + 2 ^ entSize a)

def anyOverlap : List Nat → Bool
  | [] => false
  | e :: es => es.any (entsOverlap e) || anyOverlap es

/-- R177, R317. -/
def State.tableBad (s : State) (fn : Nat) (es : List (Nat × Nat)) : Bool :=
  es.any (fun p => s.entBad fn p.2) || anyOverlap (es.map (·.2))

/-! ### The segment table (R265, R267) -/

/-- Entries that follow the header. -/
def segEntries (w0 : Nat) : Nat := if tbit w0 48 then bits w0 40 8 + 2 else 1

/-- The entries as address and size. -/
def State.segList (s : State) (a : Nat) : List (Nat × Nat) :=
  (List.range (segEntries (s.devWord a))).map (fun i =>
    (bits (s.devWord (a + 16 + 16 * i)) 0 56, bits (s.devWord (a + 24 + 16 * i)) 0 18))

/-- R267: the header, the entries and the service entry. -/
def State.segBad (s : State) (a : Nat) : Bool :=
  let w0 := s.devWord a
  let segd := tbit w0 48
  let rsize := 256 * bits w0 32 8
  let svc := 4 * bits w0 2 30
  let n := segEntries w0
  let size0 := bits (s.devWord (a + 24)) 0 18
  decide (bits w0 49 15 ≠ 0 ∨ tbit w0 1 ∨ s.devWord (a + 8) ≠ 0)
    || (List.range n).any (fun i =>
      let e0 := s.devWord (a + 16 + 16 * i)
      let e1 := s.devWord (a + 24 + 16 * i)
      let top := if !segd then 0x20000 else if i = 0 then rsize else 0x10000 - rsize
      decide (bits e0 56 8 ≠ 0 ∨ bits e1 18 46 ≠ 0 ∨ e0 % 64 ≠ 0 ∨ top < bits e1 0 18))
    || (tbit w0 0 && (if segd then !decide (2 ^ 24 ≤ svc ∧ svc < 2 ^ 24 + rsize) else decide (size0 ≤ svc)))

/-- An image that the launch unit loads lies off an executable program page, or cannot be read under its key (R183); a page
in transit is no refusal. -/
def State.imageBad (s : State) (x : Ctx) (im : Nat × Nat) : Bool :=
  match pickFault (x.rangeFaults .fetch im.1 im.2 0 1) with
  | some f => f.code != 0x183
  | none => (s.rangeNeed x true false im.1 im.2).fault.isSome

/-! ### The drain-map table (R291) -/

def State.mapCount (s : State) (a : Nat) : Nat := bits (s.devWord a) 0 8

/-- Drain map `i` as a 512-bit value. -/
def State.drainMap (s : State) (a i : Nat) : Nat := s.devLE (a + 64 * (i + 1)) 64

def mapWord (m i : Nat) : Nat := bits m (64 * i) 64
def mapStart (m : Nat) : Nat := bits (mapWord m 2) 32 32

/-- The eight scratchpad ranges of a map in bytes. -/
def mapRanges (m : Nat) : List (Nat × Nat) :=
  (List.range 8).map (fun i =>
    let w := mapWord m (4 + i / 2) / 2 ^ (32 * (i % 2))
    (64 * bits w 0 16, 64 * bits w 16 16))

def rising : List Nat → Bool
  | a :: b :: rest => decide (a < b) && rising (b :: rest)
  | _ => true

def mapBad (m : Nat) : Bool :=
  decide (bits (mapWord m 3) 2 62 ≠ 0) || (mapRanges m).any (fun r => decide (r.2 ≠ 0 ∧ Config.spBytes < r.1 + r.2))

/-- The maps of a table; address 0 names none. -/
def State.drainMapList (s : State) (a : Nat) : List Nat :=
  if a = 0 then [] else (List.range (s.mapCount a)).map (s.drainMap a)

/-- R291. -/
def State.drainBad (s : State) (a : Nat) : Bool :=
  a != 0 &&
    (decide (s.mapCount a < 1 ∨ 64 < s.mapCount a) || decide (bits (s.devWord a) 8 56 ≠ 0)
      || (List.range 7).any (fun i => decide (s.devWord (a + 8 + 8 * i) ≠ 0))
      || (s.drainMapList a).any mapBad || !rising ((s.drainMapList a).map mapStart))

/-! ### The sp-image list (R330) -/

/-- Entries: source, scratchpad address, bytes. -/
def State.spList (s : State) (a : Nat) : List (Nat × Nat × Nat) :=
  if a = 0 then []
  else (List.range (bits (s.devWord a) 0 16)).map (fun i =>
    let w1 := s.devWord (a + 72 + 16 * i)
    (s.devWord (a + 64 + 16 * i), bits w1 32 22, bits w1 0 22))

def spOverlap : List (Nat × Nat × Nat) → Bool
  | [] => false
  | e :: es => es.any (fun f => decide (e.2.1 < f.2.1 + f.2.2 ∧ f.2.1 < e.2.1 + e.2.2)) || spOverlap es

/-- R330. -/
def State.spBadList (s : State) (fn lo hi a : Nat) : Bool :=
  a != 0 &&
    (let n := bits (s.devWord a) 0 16
     decide (n < 1 ∨ 64 < n) || decide (bits (s.devWord a) 16 48 ≠ 0)
      || (List.range 7).any (fun i => decide (s.devWord (a + 8 + 8 * i) ≠ 0))
      || (List.range n).any (fun i =>
        let w1 := s.devWord (a + 72 + 16 * i)
        decide (bits w1 54 10 ≠ 0 ∨ bits w1 22 10 ≠ 0))
      || (s.spList a).any (fun e =>
        decide (e.1 % 64 ≠ 0 ∨ e.2.1 % 64 ≠ 0 ∨ e.2.2 % 64 ≠ 0 ∨ e.2.2 < 64 ∨ e.2.1 < lo ∨ hi < e.2.1 + e.2.2)
          || !s.inWindow fn e.1 e.2.2)
      || spOverlap (s.spList a))

/-! ### Placement (R31, R32, R55, R297 to R300) -/

/-- The tiles of a region. -/
def regionTiles (rows cols y0 x0 : Nat) : List Nat :=
  (List.range rows).flatMap (fun i => (List.range cols).map (fun j => 12 * ((y0 + i) % 12) + (x0 + j) % 12))

/-- A launch that holds a region. -/
def LaunchSt.placed' : LaunchSt → Bool
  | .placed _ | .running | .evicting _ | .resuming _ => true
  | .queued | .evicted | .over => false

/-- The launches that hold a tile. -/
def State.holdersOf (s : State) (t : Nat) : List Launch :=
  (s.launches.filter (fun p => p.2.st.placed' && (regionTiles p.2.rows p.2.cols p.2.y0 p.2.x0).contains t)).map (·.2)

/-- Two ranges are apart. -/
def apart (a n b m : Nat) : Bool := decide (n = 0 ∨ m = 0 ∨ a + n ≤ b ∨ b + m ≤ a)

/-- A launch and another one can share a tile. -/
def Launch.shares (l q : Launch) (plane : Nat) (t : Tenant) : Bool :=
  q.plane != plane && apart t.accBase t.accCnt q.accBase q.accCnt
    && (q.fn == l.fn || apart t.spBase t.spSize q.spBase q.spSize)

/-- The engines of a context have nothing left of an earlier task. -/
def Ctx.enginesEmpty (x : Ctx) : Bool := x.recs.isEmpty && x.cells.isEmpty && x.drains.isEmpty && x.quiet

/-- The plane, the origin and the region allow the launch. A strict one waits for tiles free of any strict task, which owns
its tile's matrix engine from acceptance until it ends (R55, R57). -/
def State.canPlace (s : State) (l : Launch) (plane y0 x0 : Nat) : Bool :=
  decide (plane < 4 ∧ y0 < 12 ∧ x0 < 12) && (l.planeReq == 0xF || l.planeReq == plane)
    && !((l.wrapY || l.wrapX) && !s.unavailable.isEmpty)
    && (regionTiles l.rows l.cols y0 x0).all (fun t =>
      !s.unavailable.contains t && !(s.ctx (144 * plane + t)).isLive && (s.ctx (144 * plane + t)).enginesEmpty
        && !(l.strict && (s.tile t).owner.isSome)
        && (s.holdersOf t).all (fun q => l.shares q plane (s.tenant l.fn)))

/-- The launch fits somewhere on a plane. -/
def State.fits (s : State) (l : Launch) (plane : Nat) : Bool :=
  (List.range 144).any (fun o => s.canPlace l plane (o / 12) (o % 12))

/-- Every VF has written PAUSED (R334). -/
def State.allPaused (s : State) : Bool := (List.range 96).all (fun i => (s.tenant (i + 1)).paused.isSome)

/-- Activation quiesces a function from its PAUSED on, and the PF once every VF has paused: its launches are held and its
background regions evicted (R334, log 32). -/
def State.quietens (s : State) (fn : Nat) : Bool :=
  s.activation == Activation.prepared && (if fn = 0 then s.allPaused else (s.tenant fn).paused.isSome)

def Activation.restarts : Activation → Bool
  | .restarting _ => true
  | _ => false

/-- Launch units take no new launch now: its function is quiesced, the firmware that places launches restarts (R297), the device has
tripped, or shedding withholds the class (R314, R334). -/
def State.withheld (s : State) (l : Launch) : Bool :=
  s.tripped || s.power != Power.d0 || (l.cls == 2 && decide (1 ≤ s.shedStep)) || s.activation.restarts || s.quietens l.fn

/-- A launch waits for a plane and fits there now. -/
def State.ready (s : State) (l : Launch) (plane : Nat) : Bool := l.st == LaunchSt.queued && !s.withheld l && s.fits l plane

/-- The tenants of a class with a launch that can be placed on a plane. -/
def State.readyTenants (s : State) (plane cls : Nat) : List Nat :=
  (List.range 97).filter (fun f => s.launches.any (fun p => p.2.cls == cls && p.2.fn == f && s.ready p.2 plane))

/-- The tenant whose turn it is (R298): the one served last while its turn lasts and it has a launch, else the next one after
it, in cyclic order, that has one (log 62). -/
def State.turn (s : State) (plane cls : Nat) : Option Nat :=
  let fs := s.readyTenants plane cls
  let r := mgetD s.rotor (3 * plane + cls) (96, 0)
  if r.2 ≠ 0 && fs.contains r.1 then some r.1
  else
    match fs.find? (fun f => decide (r.1 < f)) with
    | some f => some f
    | none => fs.head?

/-- A turn is used: the tenant keeps it for as many launches as its weight says. -/
def State.takeTurn (s : State) (plane cls fn : Nat) : State :=
  let k := 3 * plane + cls
  let r := mgetD s.rotor k (96, 0)
  { s with rotor := mput s.rotor k (fn, if r.1 = fn ∧ r.2 ≠ 0 then r.2 - 1 else (s.tenant fn).weight - 1) }

/-- It is a launch's turn on a plane (R298): no launch of a higher class can be placed there, the rotation has come to its
tenant, and no earlier launch of the tenant and class can be placed. -/
def State.itsTurn (s : State) (n : Nat) (l : Launch) (plane : Nat) : Bool :=
  (s.launches.all (fun p => !((decide (p.2.cls < l.cls) || (p.2.cls == l.cls && p.2.fn == l.fn && decide (p.1 < n)))
      && s.ready p.2 plane)))
    && s.turn plane l.cls == some l.fn

/-! ### CADENCE (R311, R312) -/

def cmin (vote : Nat) : Nat := if vote = 1 then 4 else if vote = 2 then 2 else 1

def Launch.cfloor (l : Launch) : Nat := (List.range 4).foldl (fun m b => max m (cmin (l.vote b))) l.cbase

def Launch.locked (l : Launch) : Bool := l.strict || l.cadlock

/-- SHED of a class: background contexts are evicted, not slowed. -/
def State.shedOf (s : State) (cls : Nat) : Nat := if cls = 0 then s.shedInt else if cls = 1 then s.shedStd else 0

def State.cadenceOf (s : State) (l : Launch) : Nat := if l.locked then l.cfloor else min 16 (l.cfloor + s.shedOf l.cls)

/-! ### The state of a task (R35, R38) -/

/-- REGION of the tile at a relative place (R35). -/
def Launch.regionReg (l : Launch) (ry rx : Nat) : BitVec 19 :=
  BitVec.ofNat 19 (ry + 2 ^ 4 * rx + 2 ^ 8 * (l.rows - 1) + 2 ^ 12 * (l.cols - 1) + 2 ^ 16 * l.wrapY.toNat
    + 2 ^ 17 * l.wrapX.toNat + 2 ^ 18 * l.strict.toNat)

/-- LIMIT of a launch (R290). -/
def State.limitOf (s : State) (l : Launch) : Nat :=
  let v := if l.limit = 0 then (s.tenant l.fn).limit else l.limit
  if l.strict then max v 10240 else v

/-- An entry as a launch unit loads it: one that maps a page whose migration has been marked is in transit, as every loaded entry that
maps it is (R188, R213, R322; log 36). -/
def State.loadedEntry (s : State) (e : Nat) : Nat :=
  if s.migrations.any (fun m => m.marked && entAt e m.old m.lsize) then entSetState e 2 else e

/-- A context with the tables of its launch, before L. Its first bundle is the first one of the resident code (R127, R266,
log 63). -/
def State.prepare (s : State) (n : Nat) (l : Launch) (ry rx : Nat) : Ctx :=
  let es := usedEntries (s.tableImage l.wtabAddr)
  let w0 := s.devWord l.segAddr
  { Ctx.reset with
    region := l.regionReg ry rx
    cadlock := l.locked
    accBase := BitVec.ofNat 4 l.accBase
    accCnt := BitVec.ofNat 5 l.accCnt
    srseed := l.srseed
    ashape := 0xF#4
    wtab := BitVec.ofNat 41 (l.tid + 2 ^ 32 * es.length)
    segtab := BitVec.ofNat 49 w0
    limit := BitVec.ofNat 16 (s.limitOf l)
    window := es.map (fun p => (p.1, BitVec.ofNat 128 (s.loadedEntry p.2)))
    segs := s.segList l.segAddr
    drainMapAt := l.dmAddr
    drainStarts := (s.drainMapList l.dmAddr).map mapStart
    pc := if tbit w0 48 ∧ bits w0 32 8 ≠ 0 then 0x01000000#32 else 0#32
    launch := n, tenant := l.fn, cls := l.cls, wdLimit := (s.tenant l.fn).wdLimit
    spLo := l.spBase, spHi := l.spBase + l.spSize }

/-- An image of code as the launch unit reads it. -/
def State.imageBytes (s : State) (x : Ctx) (im : Nat × Nat) : List Byte := (List.range im.2).map (fun i => s.vread x (im.1 + i))

/-- Instruction memory with the resident code and the segments that the halves hold (R267). -/
def State.loadCode (s : State) (x : Ctx) (h0 h1 : Option Nat) : Ctx :=
  let res := s.imageBytes x (x.segImage 0)
  if !x.segd then { x with imem := writeBytes [] 0 res }
  else
    let x := { x with imem := writeBytes (writeBytes [] 0 res) 0x10000 res, half0 := h0, half1 := h1 }
    let fill := fun (x : Ctx) (half : Nat) (h : Option Nat) => match h with
      | some n => x.fillHalf half (s.imageBytes x (x.segImage (n + 1)))
      | none => x
    fill (fill x 0 h0) 1 h1

/-- Argument words into s1 to s8. -/
def argRegs (args : List Word) : AMap Word :=
  ((List.range 8).zip args).foldl (fun m p => mput m (p.1 + 1) p.2) []

/-- The task goes live on L with a restart mark (R38, R39, R278). -/
def Ctx.goLive (x : Ctx) (now : Nat) (cadence : Nat) (dbg : Bool) : Ctx :=
  { x with life := .live, cadence := BitVec.ofNat 5 cadence, dbg := dbg, first := !x.strict, fcycFrom := now
           frameFrom := now - 1, last := none, drainCount := 0, watchdog := 0 }.mark

/-- The scratchpad assignment is zeroed and takes the sp images (R300, R330), a poisoned sector's bytes as they stand (log 31). -/
def State.loadSp (s : State) (t lo size : Nat) (ims : List (Nat × Nat × Nat)) : State :=
  let tl := s.tile t
  let sp := ims.foldl (fun m e => writeBytes m e.2.1 (readBytes (s.text e.1 e.2.2) e.1 e.2.2)) (clearRange tl.sp lo size)
  s.setTile t { tl with sp := sp, bad := tl.bad.filter (fun w => !decide (lo ≤ 8 * w ∧ 8 * w < lo + size)) }

/-- The rows of the accumulator window read zero (R38). -/
def State.clearAcc (s : State) (t base cnt : Nat) : State :=
  let tl := s.tile t
  s.setTile t { tl with acc := tl.acc.filter (fun p => !decide (128 * base ≤ p.1 ∧ p.1 < 128 * (base + cnt))) }

/-- Debug enables of other tenants on the tile are cleared (R336). -/
def State.clearDebug (s : State) (t fn : Nat) : State :=
  (planesOf t).foldl (fun (s : State) c =>
    let x := s.ctx c
    if x.isLive && x.tenant != fn then
      s.setCtx c { x with dbg := false, halted := false, haltNext := false, stepOnce := false }
    else s) s

/-- A debug consent of the tenant for the launch's TID is in force (R336). -/
def State.consented (s : State) (l : Launch) : Bool :=
  s.consents.any (fun c => c.tenant == l.fn && c.tid == l.tid && decide (s.cal.mfn ≤ c.expiry))

/-! ### The two phases of LAUNCH_START -/

/-- The launch with its place and the tenant's settings. -/
def State.settle (s : State) (l : Launch) (plane y0 x0 : Nat) : Launch :=
  let t := s.tenant l.fn
  { l with plane := plane, y0 := y0, x0 := x0, accBase := t.accBase, accCnt := t.accCnt, spBase := t.spBase, spSize := t.spSize
           limit := s.limitOf l, cellarBase := t.cellarBase, cellarSlot := t.cellarSlot, spLoads := s.spList l.spImages }

/-- The tables that the launch unit reads: window table, segment table, drain maps, sp images. -/
def State.tables (s : State) (l : Launch) : List (Nat × Nat) :=
  [(l.wtabAddr, 4096), (l.segAddr, 16 + 16 * segEntries (s.devWord l.segAddr))]
    ++ (if l.dmAddr = 0 then [] else [(l.dmAddr, 64 * (s.mapCount l.dmAddr + 1))])
    ++ (if l.spImages = 0 then [] else [(l.spImages, 64 + 16 * bits (s.devWord l.spImages) 0 16)])

/-- Relative places with the context of each. -/
def Launch.spots (l : Launch) : List (Nat × Nat × Nat) :=
  (List.range l.rows).flatMap (fun i => (List.range l.cols).map (fun j => (i, j, ctxId l.plane (l.y0 + i) (l.x0 + j))))

/-- A segment table or a drain-map table runs past the window of its function, which its packet asks only its start to lie in
(R267, R291; log 31). -/
def State.tablesOut (s : State) (l : Launch) : Bool :=
  !s.inWindow l.fn l.segAddr (16 + 16 * segEntries (s.devWord l.segAddr))
    || (l.dmAddr != 0 && !s.inWindow l.fn l.dmAddr (64 * (s.mapCount l.dmAddr + 1)))

/-- The list of sp images does so (R330, log 31). -/
def State.spOut (s : State) (l : Launch) : Bool :=
  l.spImages != 0 && !s.inWindow l.fn l.spImages (64 + 16 * bits (s.devWord l.spImages) 0 16)

/-- Why the launch unit refuses, as a REASON (R331). -/
def State.refusal (s : State) (n : Nat) (l : Launch) : Option Nat :=
  let x := s.prepare n l 0 0
  if !s.inWindow l.fn l.wtabAddr 4096 || s.tableBad l.fn (usedEntries (s.tableImage l.wtabAddr)) then some 6
  else if s.tablesOut l || s.segBad l.segAddr || s.imageBad x (x.segImage 0) || (x.segd && s.imageBad x (x.segImage 1))
      || s.drainBad l.dmAddr then some 7
  else if s.spOut l || s.spBadList l.fn l.spBase (l.spBase + l.spSize) l.spImages then some 14
  else none

/-- The launch is over with a record of KIND 2. -/
def State.refuseLaunch (s : State) (n : Nat) (l : Launch) (reason : Nat) : State :=
  { s.record l.fn 2 reason l.tag 0 0 0 0 with launches := mput s.launches n { l with st := .over } }

/-- A strict launch takes the matrix engine of the tiles that get a task, from its acceptance (R57). -/
def State.takeEngines (s : State) (l : Launch) (tasks : List Nat) : State :=
  if l.strict then
    tasks.foldl (fun (s : State) c =>
      let t := s.tile (tileOf c)
      s.setTile (tileOf c) { t with owner := some l.plane }) s
  else s

/-- The context of a launch's first tile, under which the launch unit reads its code (R190). -/
def Launch.firstCtx (l : Launch) : Nat := ctxId l.plane l.y0 l.x0

/-- The code that the launch unit reads for a context: the resident image and the segments that the halves will hold; and ranges
of device memory beside it. -/
def State.codeNeed (s : State) (x : Ctx) (segs : List Nat) (rs : List (Nat × Nat)) : Need :=
  Need.join (Need.all (((if x.segd then 0 :: segs.map (· + 1) else [0]).map x.segImage).map (fun im =>
    s.rangeNeed x true false im.1 im.2))) { s.homeNeed rs with touches := s.physTouches x false rs }

/-- The sources of the sp images of a launch. -/
def Launch.imageReads (l : Launch) : List (Nat × Nat) := l.spLoads.map (fun e => (e.1, e.2.2))

/-- What the launch unit reads at L. -/
def State.startNeed (s : State) (l : Launch) : Need := s.codeNeed (s.ctx l.firstCtx) [0] l.imageReads

/-- The contexts of a launch take its tables; the sequence numbers of their pushes go on. -/
def State.prepareAll (s : State) (n : Nat) (l : Launch) : State :=
  l.spots.foldl (fun (s : State) p => s.setCtx p.2.2 { s.prepare n l p.1 p.2.1 with seq := (s.ctx p.2.2).seq }) s

/-- Acceptance: tables are checked and loaded, the region is taken, the votes are cast, and the requests for the code join the
queues at the ports. -/
def State.acceptLaunch (s : State) (n : Nat) (l : Launch) : State :=
  match s.refusal n l with
  | some r => s.refuseLaunch n l r
  | none =>
    let s := { s with launches := mput s.launches n { l with st := .placed s.cycle } }.prepareAll n l
    (((s.takeEngines l l.ctxs).takeTurn l.plane l.cls l.fn).enqueue l.firstCtx none (s.startNeed l)).followVotes

/-- Every rail of the region has settled (R307). -/
def State.railsSettled (s : State) (l : Launch) : Bool :=
  l.rails.all (fun r => (mgetD s.rails r ⟨0, []⟩).rising.isEmpty)

/-- No matrix result of another context is in flight on the tiles (R55). -/
def State.enginesFree (s : State) (l : Launch) : Bool := l.spots.all (fun p => (s.tileOps (tileOf p.2.2)).isEmpty)

/-- This cycle is L for a launch accepted on a cycle (R37, R55, R307). -/
def State.isL (s : State) (l : Launch) (accept : Nat) : Bool :=
  s.railsSettled l &&
    (if l.strict then s.cal.start == s.cycle && decide (accept < s.cycle) && s.enginesFree l
     else decide (accept + 64 ≤ s.cycle))

/-- A page of the code is in transit: the launch unit waits as the overlay engine does (R270, log 31). -/
def State.codeInTransit (s : State) (l : Launch) : Bool :=
  let x := s.ctx l.firstCtx
  x.segs.any (fun im => (x.rangeFaults .fetch im.1 im.2 0 1).any (fun f => f.code == 0x183))

/-- A launch that waits for L leaves its tiles and its rails, whichever way it ends. -/
def State.leaveL (s : State) (l : Launch) (k : State → State) : State :=
  (k ((l.ctxs.foldl State.freeOwner s).dropTicket l.firstCtx none)).followVotes

/-- A launch that waits for L goes on once its code can be read: a fault refuses it as its table would have been, data that the launch
unit does not reach ends it in its own way, what has to come home is asked for, and its requests are admitted (R183, R190, R319,
log 31). -/
def State.atL (s : State) (n : Nat) (l : Launch) (nd : Need) (away : Option (State → State)) (k : State → State) : State :=
  if nd.fault.isSome then s.leaveL l (fun s => s.refuseLaunch n l 7)
  else if let some f := away then s.leaveL l f
  else if s.codeInTransit l then s
  else if nd.holds true || !s.admitted l.firstCtx none nd then (s.ask l.fn nd).enqueue l.firstCtx none nd
  else k ((s.fillAll l.fn nd).dropTicket l.firstCtx none)

/-- One tile at L. -/
def State.startTile (s : State) (l : Launch) (c : Nat) : State :=
  let x := s.ctx c
  let s := (s.loadSp (tileOf c) l.spBase l.spSize l.spLoads).clearAcc (tileOf c) l.accBase l.accCnt
  let s := s.clearDebug (tileOf c) l.fn
  let x := { s.loadCode x (some 0) none with s := argRegs l.args, evEnable := l.enable }
  s.setCtx c (x.goLive s.cycle (s.cadenceOf l) (s.consented l))

/-- Doorbell to L in reference ticks (R301): whole ticks of 14 cycles of each launch's own wait, which is the model's choice (log 64). -/
def State.countStart (s : State) (l : Launch) : State :=
  let w := (s.cycle - l.bell) / Config.tickCycles
  let s := (s.count l.fn (ctrStarted l.cls) 48 1).count l.fn (ctrWait l.cls) 64 w
  let t := s.tenant l.fn
  let m := min (ones 32) (max w (mgetD t.counters (ctrWmax l.cls) 0))
  s.setTenant l.fn { t with counters := mput t.counters (ctrWmax l.cls) m }

/-- How a launch ends whose images the launch unit does not reach at L: refused as its list would have been (R183, R330, log 31). -/
def State.imagesAway (s : State) (n : Nat) (l : Launch) : Option (State → State) :=
  (s.outOfReach l.fn l.imageReads).map (fun _ s => s.refuseLaunch n l 14)

/-- L: every task of the launch starts. -/
def State.startLaunch (s : State) (n : Nat) (l : Launch) : State :=
  let s := l.spots.foldl (fun (s : State) p => s.startTile l p.2.2) s
  { s.countStart l with launches := mput s.launches n { l with st := .running } }

/-- R37 to R39, R57, R297, R298, R307: a queued launch is placed and accepted; a placed one starts on L. -/
def execLaunchStart (n plane y0 x0 : Nat) (s : State) : Res :=
  .next (match mfind s.launches n with
    | none => s
    | some l =>
      match l.st with
      | .queued =>
        if s.withheld l || !s.canPlace l plane y0 x0 || !s.itsTurn n l plane then s
        else s.withHome (s.tables l) fun s => s.acceptLaunch n (s.settle l plane y0 x0)
      | .placed accept => if s.isL l accept then s.atL n l (s.startNeed l) (s.imagesAway n l) fun s => s.startLaunch n l else s
      | _ => s)

end Sys2Proof.Machine
end

