-- ==== Sys2Proof/Machine/Cellar.lean ====
section
/-! DEFINITION. Eviction and resume: drain maps in force, the cellar record, the stop, the release of the fences and the
restore (R68, R214, R288, R291 to R296, R484). -/

namespace Sys2Proof.Machine

/-! ### The map in force (R291) -/

/-- The position of the map in force at an address, by the STARTs that the context holds. -/
def mapInForce (starts : List Nat) (pa : Nat) : Option Nat :=
  (((List.range starts.length).zip starts).filter (fun p => decide (p.2 ≤ pa))).getLast?.map (·.1)

/-- The registers that a mask names among the first `n`. -/
def named (mask n : Nat) : List Nat := setBits n mask

/-! ### The saved items (R293, R484) -/

/-- Bytes padded to a multiple of 64. -/
def pad64 (bs : List Byte) : List Byte := bs ++ List.replicate (roundUp bs.length 64 - bs.length) 0#8

def vBytes (x : Ctx) (n : Nat) : List Byte := (List.range 8).flatMap (fun c => leBytes 256 (x.rv n c).toNat)
def kBytes (x : Ctx) (n : Nat) : List Byte := (List.range 8).flatMap (fun c => leBytes 32 (x.rk n c).toNat)

/-- An accumulator tile, row after row. -/
def accBytes (t : Tile) (phys : Nat) : List Byte :=
  (List.range 128).flatMap (fun r => leBytes 512 (mgetD t.acc (128 * phys + r) 0#4096).toNat)

def bandBytes (f : Nat) (b : Band) : List Byte := leBytes (bandCode f) b.codes ++ (if fmtBlock f then leBytes 128 b.scales else [])

/-- A weight plane: descriptor, band images, route tables. -/
def planeBytes (p : Plane) : List Byte :=
  match p.fmt with
  | none => leBytes 64 0
  | some f =>
    leBytes 64 (f + 32 * p.sparse.toNat + 64) ++ [p.b0, p.b1, p.b2, p.b3].flatMap (bandBytes f)
      ++ (if p.sparse then [p.b0, p.b1, p.b2, p.b3].flatMap (fun b => leBytes 1024 b.routes) else [])

/-- The bytes of a scratchpad range inside the assignment; a byte outside it saves as zero. -/
def spRangeBytes (x : Ctx) (t : Tile) (r : Nat × Nat) : List Byte :=
  (List.range r.2).map (fun i => if x.spLo ≤ r.1 + i ∧ r.1 + i < x.spHi then mread t.sp (r.1 + i) else 0#8)

def mapS (m : Nat) : List Nat := (named (mapWord m 0) 64).filter (fun n => decide (n ≠ 0))
def mapV (m : Nat) : List Nat := named (mapWord m 1) 64
def mapA (x : Ctx) (m : Nat) : List Nat := (named (bits (mapWord m 2) 16 16) 16).filter (fun n => decide (n < x.accCnt.toNat))
def mapK (m : Nat) : List Nat := named (bits (mapWord m 2) 8 8) 8
def mapQ (m : Nat) : Nat := bits (mapWord m 2) 0 8 &&& 0xFE
def mapWA (m : Nat) : Bool := tbit (mapWord m 3) 0
def mapWS (m : Nat) : Bool := tbit (mapWord m 3) 1

/-- The items from offset 0x400 on. -/
def savedItems (x : Ctx) (t : Tile) (m : Nat) : List Byte :=
  pad64 ((mapS m).flatMap (fun n => leBytes 8 (x.rs n).toNat))
    ++ pad64 (if mapQ m = 0 then [] else leBytes 1 (x.q.toNat &&& mapQ m))
    ++ pad64 ((mapV m).flatMap (vBytes x))
    ++ pad64 ((mapK m).flatMap (kBytes x))
    ++ (mapA x m).flatMap (fun n => accBytes t (x.accBase.toNat + n))
    ++ (if mapWA m then planeBytes x.activePlane else [])
    ++ (if mapWS m then planeBytes x.shadowPlane else [])
    ++ (mapRanges m).flatMap (spRangeBytes x t)

/-- EVENT without the request that this stop answers (log 12). -/
def Ctx.savedEvent (x : Ctx) : Nat := x.sigval.toNat * 2 ^ 32 + x.evEnable.toNat * 2 ^ 8 + (x.evPending &&& 0x37#6).toNat

/-- The fixed part, 0x400 bytes. -/
def fixedPart (x : Ctx) (live mapIdx : Nat) : List Byte :=
  let hold := match x.wait with
    | .hold a => (1, a.level * 256 + a.mask)
    | _ => (0, 0)
  let pair := match x.pair with
    | none => 0
    | some (a, w) => a + 32 * w + 1024
  let half := fun (h : Option Nat) => match h with
    | none => 0
    | some n => n + 256
  let w8 := leBytes 8
  w8 (live + 2 ^ 32 * mapIdx + 2 ^ 40 * hold.1) ++ w8 hold.2
    ++ w8 x.pc.toNat ++ w8 (etgtOf x.pend).toNat ++ w8 (edlyOf x.pend x.annul).toNat ++ w8 x.ecause.toNat
    ++ w8 x.eaddr.toNat ++ w8 x.eslot.toNat ++ w8 x.savedEvent
    ++ w8 x.loopc0.toNat ++ w8 x.loopc1.toNat ++ w8 x.hintdrop.toNat ++ w8 x.srseed.toNat ++ w8 x.vstat.toNat
    ++ w8 x.dmr.toNat ++ w8 x.ashape.toNat
    ++ w8 (pair + 2048 * x.sel.toNat) ++ w8 (half x.half0 + 2 ^ 16 * half x.half1 + 2 ^ 32 * x.cur)
    ++ leBytes 48 0
    ++ (List.range 8).flatMap (fun ch => w8 (mgetD x.done ch 0))
    ++ leBytes 768 0

/-- The map in force where a context stops, which the tile reads from the table as it stops (R291, R292). -/
def State.stopMap (s : State) (x : Ctx) : Option (Nat × Nat) :=
  (mapInForce x.drainStarts (x.holdD.getD x.pc).toNat).map (fun i => (i, s.drainMap x.drainMapAt i))

/-- The record of a context that stops at a drain point under a map (R293). -/
def Ctx.cellarRecord (x : Ctx) (t : Tile) (m : Option (Nat × Nat)) : List Byte :=
  let items := match m with
    | none => []
    | some p => savedItems x t p.2
  fixedPart x (0x400 + items.length) ((m.map (·.1)).getD 0xFF) ++ items

/-- A word with an uncorrectable error lies in a scratchpad range that the record takes (R173). -/
def Ctx.savedBad (x : Ctx) (t : Tile) (m : Option (Nat × Nat)) : Option Nat :=
  match m with
  | none => none
  | some p => t.bad.find? (fun w => (mapRanges p.2).any (fun r =>
      decide (r.1 < 8 * w + 8 ∧ 8 * w < r.1 + r.2 ∧ x.spLo ≤ 8 * w ∧ 8 * w < x.spHi)))

/-- Where the record of a tile lies, by what firmware holds with the region (R293). -/
def Launch.cellarAt (l : Launch) (ry rx : Nat) : Nat := l.cellarBase + (ry * l.cols + rx) * l.cellarSlot

/-- Device memory takes the bytes of a record; sectors written whole lose their poison. -/
def State.cellarWrite (s : State) (a : Nat) (bs : List Byte) : State := (s.fwBytes a bs).cure a bs.length

/-! ### The request and the stop (R292) -/

/-- R292: EVQ is set in every live context of the region. -/
def State.requestEviction (s : State) (n : Nat) : State :=
  match mfind s.launches n with
  | none => s
  | some l =>
    if l.st != LaunchSt.running || l.failing then s
    else
      let s := { s with launches := mput s.launches n { l with st := .evicting s.cycle, saved := [] } }
      l.ctxs.foldl (fun (s : State) c => if (s.ctx c).isLive && (s.ctx c).launch == n then s.setCtx c ((s.ctx c).setEvent 3) else s) s

/-- R292, R299: firmware evicts background regions only. -/
def execEvictionRequest (l : Nat) (s : State) : Res :=
  .next (match mfind s.launches l with
    | some la => if la.cls = 2 then s.requestEviction l else s
    | none => s)

/-- A context of a region under eviction stops on this cycle. -/
def State.stopPoint (s : State) (c : Nat) : Bool :=
  let x := s.ctx c
  s.evicting c && x.atBoundary && x.ending.isNone && x.drained && x.drainBoundary && !s.releaseDue c
    && (match mfind s.launches x.launch with
      | some l => !l.failing
      | none => false)

/-- The requests of a context's overlay copy leave the ports. -/
def State.dropCopy (s : State) (c : Nat) : State :=
  match (s.ctx c).ovCopy with
  | some cp => s.dropTicket c (some cp.seq)
  | none => s

/-- A write of a region's cellar fails: it does not fit its slot, or its tile does not reach the place (R183, R292, R332). -/
def State.cellarBad (s : State) (l : Launch) (a n : Nat) : Bool := l.cellarSlot < n || !s.reaches l.fn a n

/-- A context stops: flags and hint counts still on their way land, an overlay copy in progress is given up, and its tile writes the
cellar record, whose requests join the queues at the ports; one that does not fit its slot or its page fails the launch with 0x189.
The requests are queued as interactive ones, which wait for no token, since R294 bounds the writes (log 55). -/
def State.stopWith (s : State) (c : Nat) (l : Launch) (m : Option (Nat × Nat)) : State :=
  let x := (s.ctx c).landEvery
  let bs := x.cellarRecord (s.tile (tileOf c)) m
  let a := l.cellarAt x.ry x.rx
  if s.cellarBad l a bs.length then (s.failTask c 4 0x189 x.pc.toNat 0).completeLaunch x.launch
  else
    let s := ((s.dropCopy c).cellarWrite a bs).setCtx c { x with life := .evicted, wait := .none, holdD := none, ovCopy := none }
    { ((s.freeOwner c).dropTicket c none).enqueueAs c none 0 (sectorsOf a bs.length) with
      launches := mmodify s.launches x.launch (fun l => { l with saved := l.saved ++ [(x.place, bs.length)] }) }

/-- R68, R214, R292, R293: the context stops at its drain point. A drain-map table that its tile no longer reaches is a key alias
instead (R183, log 37), and an uncorrectable error among what it saves an engine fault (R173). -/
def execEvictionStop (ctx : Nat) (s : State) : Res :=
  let x := s.ctx ctx
  .next (if !s.stopPoint ctx then s
    else
      match mfind s.launches x.launch with
      | none => s
      | some l =>
        s.withHome x.mapTable fun s =>
          if let some a := s.outOfReach x.tenant x.mapTable then s.deliver ctx 0x184 a 12 x.pc
          else match x.savedBad (s.tile (tileOf ctx)) (s.stopMap x) with
          | some w => s.deliver ctx 0x103 (spEaddr (8 * w)) 12 x.pc
          | none => s.stopWith ctx l (s.stopMap x))

/-- The bytes of a launch's records that still wait for the host (R319). -/
def State.recordsPend (s : State) (l : Launch) : Bool :=
  s.fwPend.any (fun p => decide (l.cellarBase ≤ p.1 ∧ p.1 < l.cellarBase + l.rows * l.cols * l.cellarSlot))

/-- The tiles of a region whose task has ended, with the place of their records. -/
def State.endedSpots (s : State) (l : Launch) : List (Nat × Nat × Nat) := l.spots.filter (fun p => (s.ctx p.2.2).life != Life.evicted)

/-- The bytes of the record of a tile: of a task that has ended, its first word. -/
def State.recordLen (s : State) (l : Launch) (c : Nat) : Nat :=
  if (s.ctx c).life = Life.evicted then ((l.saved.find? (fun q => q.1 == (s.ctx c).place)).map (·.2)).getD 8 else 8

/-- The sectors that the record of a tile writes. -/
def State.recordTouches (s : State) (l : Launch) (p : Nat × Nat × Nat) : List Touch :=
  s.physTouches (s.ctx p.2.2) true [(l.cellarAt p.1 p.2.1, s.recordLen l p.2.2)]

/-- Every request of the records has been admitted. -/
def State.recordsIn (s : State) (l : Launch) : Bool :=
  l.spots.all (fun p => match s.ticketOf p.2.2 none with
    | some k => k.reqs.isEmpty
    | none => true)

/-- The records are in the SLC, and their requests are done. -/
def State.recordsDone (s : State) (l : Launch) : State :=
  l.spots.foldl (fun (s : State) p =>
    ((s.recordTouches l p).foldl (fun (s : State) t => s.fill l.fn t) s).dropTicket p.2.2 none) s

/-- The region is free: tiles of ended tasks have written LIVE 0, stopped tasks leave their contexts, the votes leave. -/
def State.freeRegion (s : State) (n : Nat) (l : Launch) : State :=
  let s := ((s.endedSpots l).foldl (fun (s : State) p => s.cellarWrite (l.cellarAt p.1 p.2.1) (leBytes 8 0)) s).recordsDone l
  let s := l.ctxs.foldl (fun (s : State) c =>
    let x := s.ctx c
    if x.life == Life.evicted then s.setCtx c { x with life := .none } else s) s
  { s with launches := mput s.launches n { l with st := .evicted } }.followVotes

/-- R190, R292, R294: every tile has written its record and the ports have admitted it; tiles of ended tasks write LIVE 0, and the
region is free. Such a write that fails ends the launch as failed with 0x189 and REASON 4. -/
def execEvictionComplete (n : Nat) (s : State) : Res :=
  .next (match mfind s.launches n with
    | none => s
    | some l =>
      match l.st with
      | .evicting _ =>
        if s.someLive n l || !s.someEvicted n l || l.failing || s.recordsPend l || !s.recordsIn l then s
        else
          match (s.endedSpots l).find? (fun p => s.cellarBad l (l.cellarAt p.1 p.2.1) 8) with
          | some p =>
            let x := s.ctx p.2.2
            (s.recordFailure n ⟨s.cycle, x.place, 4, 0x189, x.pc.toNat, 0⟩).completeLaunch n
          | none =>
            let ended := s.endedSpots l
            if ended.any (fun p => (s.ticketOf p.2.2 none).isNone) then
              ended.foldl (fun (s : State) p => s.enqueueAs p.2.2 none 0 (sectorsOf (l.cellarAt p.1 p.2.1) 8)) s
            else s.freeRegion n l
      | _ => s)

/-! ### Restoring a record (R295, R296) -/

/-- Register groups from a record: a list of names and bytes each, and the address after the group's padding. -/
def groupEnd (a count size : Nat) : Nat := a + roundUp (count * size) 64

def restoreS (dev : Memory) (a : Nat) (ns : List Nat) : AMap Word :=
  ((List.range ns.length).zip ns).foldl (fun m p => mput m p.2 (BitVec.ofNat 64 (readLE dev (a + 8 * p.1) 8))) []

def restoreV (dev : Memory) (a : Nat) (ns : List Nat) : AMap (BitVec 2048) :=
  ((List.range ns.length).zip ns).foldl (fun m p => (List.range 8).foldl (fun m c =>
    mput m (8 * p.2 + c) (BitVec.ofNat 2048 (readLE dev (a + 2048 * p.1 + 256 * c) 256))) m) []

def restoreK (dev : Memory) (a : Nat) (ns : List Nat) : AMap (BitVec 256) :=
  ((List.range ns.length).zip ns).foldl (fun m p => (List.range 8).foldl (fun m c =>
    mput m (8 * p.2 + c) (BitVec.ofNat 256 (readLE dev (a + 256 * p.1 + 32 * c) 32))) m) []

/-- A plane and the address after it. -/
def restorePlane (dev : Memory) (a : Nat) : Plane × Nat :=
  let d := readLE dev a 8
  if !tbit d 6 then (.zero, a + 64)
  else
    let f := bits d 0 5
    let sparse := tbit d 5
    let img := fun i => a + 64 + i * bandImage f
    let routes := img 4
    let band := fun i => bandFrom dev dev f (img i) (routes + 1024 * i) sparse
    (⟨some f, sparse, band 0, band 1, band 2, band 3⟩, routes + if sparse then 4096 else 0)

/-- Where each group of a map begins: s, q, v, k, accumulators, WA. -/
structure Groups where
  sAt : Nat
  qAt : Nat
  vAt : Nat
  kAt : Nat
  aAt : Nat
  wAt : Nat
  deriving DecidableEq, Repr

def groupsAt (x : Ctx) (m base : Nat) : Groups :=
  let sAt := base + 0x400
  let qAt := groupEnd sAt (mapS m).length 8
  let vAt := groupEnd qAt (if mapQ m = 0 then 0 else 1) 1
  let kAt := groupEnd vAt (mapV m).length 2048
  let aAt := groupEnd kAt (mapK m).length 256
  ⟨sAt, qAt, vAt, kAt, aAt, aAt + 65536 * (mapA x m).length⟩

/-- The saved items come back: registers and planes, and the address of the scratchpad ranges. -/
def Ctx.restoreItems (x : Ctx) (dev : Memory) (m base : Nat) : Ctx × Nat :=
  let g := groupsAt x m base
  let wa := if mapWA m then restorePlane dev g.wAt else (.zero, g.wAt)
  let ws := if mapWS m then restorePlane dev wa.2 else (.zero, wa.2)
  let q := if mapQ m = 0 then 0 else readLE dev g.qAt 1
  let x := { x with s := restoreS dev g.sAt (mapS m), q := BitVec.ofNat 8 q
                    v := restoreV dev g.vAt (mapV m), k := restoreK dev g.kAt (mapK m) }
  ((x.setPlane x.activeId wa.1).setPlane x.shadowId ws.1, ws.2)

/-- Rows of the accumulator tiles of a map. -/
def restoreAcc (dev : Memory) (x : Ctx) (m a : Nat) (acc : AMap (BitVec 4096)) : AMap (BitVec 4096) :=
  (((List.range 16).zip (mapA x m))).foldl (fun acc p => (List.range 128).foldl (fun acc r =>
    mput acc (128 * (x.accBase.toNat + p.2) + r) (BitVec.ofNat 4096 (readLE dev (a + 65536 * p.1 + 512 * r) 512))) acc) acc

/-- Scratchpad ranges of a map, inside the assignment. -/
def restoreSp (dev : Memory) (x : Ctx) (m a : Nat) (sp : Memory) : Memory :=
  ((mapRanges m).foldl (fun (p : Memory × Nat) r =>
    ((List.range r.2).foldl (fun sp i =>
      if x.spLo ≤ r.1 + i ∧ r.1 + i < x.spHi then mwrite sp (r.1 + i) (mread dev (p.2 + i)) else sp) p.1, p.2 + r.2)) (sp, a)).1

/-- The fixed part comes back. EPC, ETGT and EDLY give the place where the task goes on (R93, R293). The record holds no count of COLLs
at a level, and a resumed context counts from 0 again, which is the model's choice (R260, log 37). -/
def Ctx.restoreFixed (x : Ctx) (dev : Memory) (base : Nat) : Ctx :=
  let w := fun o => readLE dev (base + o) 8
  let etgt := BitVec.ofNat 64 (w 0x018)
  let edly := BitVec.ofNat 8 (w 0x020)
  let pc := BitVec.ofNat 32 (w 0x010)
  let fp := w 0x080
  { x with
    epc := pc, etgt := etgt, edly := edly, pc := pc, pend := pendOf etgt edly, annul := bits edly.toNat 6 2
    ecause := BitVec.ofNat 12 (w 0x028), eaddr := BitVec.ofNat 64 (w 0x030), eslot := BitVec.ofNat 4 (w 0x038)
    sigval := BitVec.ofNat 16 (w 0x040 / 2 ^ 32), evEnable := BitVec.ofNat 6 (w 0x040 / 2 ^ 8), evPending := BitVec.ofNat 6 (w 0x040)
    loopc0 := BitVec.ofNat 64 (w 0x048), loopc1 := BitVec.ofNat 64 (w 0x050), hintdrop := BitVec.ofNat 32 (w 0x058)
    srseed := BitVec.ofNat 64 (w 0x060), vstat := BitVec.ofNat 5 (w 0x068), dmr := BitVec.ofNat 18 (w 0x070)
    ashape := BitVec.ofNat 4 (w 0x078)
    pair := if tbit fp 10 then some (bits fp 0 5, bits fp 5 5) else none
    sel := tbit fp 11
    cur := bits (w 0x088) 32 8
    done := (List.range 8).foldl (fun m ch => let v := w (0x0C0 + 8 * ch); if v = 0 then m else mput m ch v) [] }

/-- A held arrival is raised again on the cycle of the restart (R68). -/
def Ctx.restoreHold (x : Ctx) (dev : Memory) (base now : Nat) : Ctx :=
  let w0 := readLE dev base 8
  let w1 := readLE dev (base + 8) 8
  if tbit w0 40 then
    { x with wait := .hold ⟨bits w1 8 2, bits w1 0 8, x.dmr, now, 0, []⟩
             holdD := some (BitVec.ofNat 32 (x.drainStarts.getD (bits w0 32 8) 0)) }
  else x

/-- The halves that the overlay field names. -/
def savedHalf (dev : Memory) (base i : Nat) : Option Nat :=
  let w := readLE dev (base + 0x088) 8 / 2 ^ (16 * i)
  if tbit w 8 then some (bits w 0 8) else none

/-- One tile of a resumed launch at its restart. -/
def State.restoreTile (s : State) (l : Launch) (ry rx c : Nat) : State :=
  let s := ((s.loadSp (tileOf c) l.spBase l.spSize []).clearAcc (tileOf c) l.accBase l.accCnt).clearDebug (tileOf c) l.fn
  let base := l.cellarAt ry rx
  let dev := s.text base (max 0x400 l.cellarSlot)
  let w0 := readLE dev base 8
  if bits w0 0 32 = 0 then s
  else
    let x := s.loadCode ((s.ctx c).restoreFixed dev base) (savedHalf dev base 0) (savedHalf dev base 1)
    let idx := bits w0 32 8
    let m := if idx = 0xFF then 0 else s.drainMap x.drainMapAt idx
    let r := x.restoreItems dev m base
    let x := r.1.restoreHold dev base s.cycle
    let t := s.tile (tileOf c)
    let s := s.setTile (tileOf c) { t with acc := restoreAcc dev x m (groupsAt x m base).aAt t.acc
                                           sp := restoreSp dev x m r.2 t.sp }
    s.setCtx c (x.goLive s.cycle (s.cadenceOf l) (s.consented l))

/-- The settings that a resume has to find again (R295, R300). -/
def State.sameSettings (s : State) (l : Launch) : Bool :=
  let t := s.tenant l.fn
  t.accCnt == l.accCnt && t.spBase == l.spBase && t.spSize == l.spSize

/-- LIVE of the record of a tile. -/
def State.liveOf (s : State) (l : Launch) (ry rx : Nat) : Nat := bits (s.devWord (l.cellarAt ry rx)) 0 32

/-- The records that a resume reads. -/
def State.records (s : State) (l : Launch) : List (Nat × Nat) :=
  l.spots.map (fun p => (l.cellarAt p.1 p.2.1, max 8 (s.liveOf l p.1 p.2.1)))

/-- The places of the records of a launch, their first word each. -/
def Launch.recordHeads (l : Launch) : List (Nat × Nat) := l.spots.map (fun p => (l.cellarAt p.1 p.2.1, 8))

/-- What the launch unit reads as it accepts a resume: the tables, and LIVE of every record. -/
def State.resumeReads (s : State) (l : Launch) : List (Nat × Nat) :=
  s.tables l ++ l.recordHeads

/-- The contexts that get a task again: those whose record is not LIVE 0 (R295). -/
def State.resumed (s : State) (l : Launch) : List Nat :=
  (l.spots.filter (fun p => decide (s.liveOf l p.1 p.2.1 ≠ 0))).map (fun p => p.2.2)

/-- What the launch unit reads at the restart: code, records and drain maps. -/
def State.resumeNeed (s : State) (l : Launch) : Need :=
  let x := s.ctx l.firstCtx
  let halves := (l.spots.filter (fun p => decide (s.liveOf l p.1 p.2.1 ≠ 0))).flatMap (fun p => [0, 1].filterMap (savedHalf (s.text (l.cellarAt p.1 p.2.1) 0x400) (l.cellarAt p.1 p.2.1)))
  s.codeNeed x halves.eraseDups (x.mapTable ++ s.records l)

/-- The resume of a launch fails: the launch unit does not reach a record or a drain map of it, which is a key alias (R183). The launch
ends as failed with that code and the address, in the place of its first tile (log 67). -/
def State.failResume (s : State) (n : Nat) (l : Launch) (a : Nat) : State :=
  let l := { l with failing := true, failure := some ⟨s.cycle, 0, 1, 0x184, 0, a⟩, st := .over }
  (({ s with launches := mput s.launches n l }).launchRecord l).count l.fn (ctrDone l.cls) 48 1

/-- How a launch ends whose records or drain maps the launch unit does not reach at its restart. -/
def State.recordsAway (s : State) (n : Nat) (l : Launch) : Option (State → State) :=
  (s.outOfReach l.fn ((s.ctx l.firstCtx).mapTable ++ s.records l)).map (fun a s => s.failResume n l a)

/-- Acceptance of a resume: tables are loaded again, the region is taken. The plane may differ. Tables that no longer pass refuse the
launch, and the window-table image is the one at its address, whatever it holds by now (log 67). -/
def State.acceptResume (s : State) (n : Nat) (l : Launch) : State :=
  if let some a := s.outOfReach l.fn l.recordHeads then s.failResume n l a
  else if !s.inWindow l.fn l.wtabAddr 4096 || s.tableBad l.fn (usedEntries (s.tableImage l.wtabAddr)) then s.refuseLaunch n l 6
  else if s.tablesOut l || s.segBad l.segAddr || s.drainBad l.dmAddr then s.refuseLaunch n l 7
  else
    let s := { s with launches := mput s.launches n { l with st := .resuming s.cycle } }.prepareAll n l
    ((s.takeEngines l (s.resumed l)).enqueue l.firstCtx none (s.resumeNeed l)).followVotes

/-- R68, R295, R296, R299: an evicted launch is placed again, and restarts on its cycle. -/
def execResume (n plane y0 x0 : Nat) (s : State) : Res :=
  .next (match mfind s.launches n with
    | none => s
    | some l =>
      match l.st with
      | .evicted =>
        let l' := { l with planeReq := 0xF }
        if s.withheld l || !s.canPlace l' plane y0 x0 || !s.sameSettings l then s
        else s.withHome (s.resumeReads l) fun s =>
          s.acceptResume n { l with plane := plane, y0 := y0, x0 := x0, accBase := (s.tenant l.fn).accBase }
      | .resuming accept =>
        if s.isL l accept then
          s.atL n l (s.resumeNeed l) (s.recordsAway n l) fun s =>
            let s := l.spots.foldl (fun (s : State) p => s.restoreTile l p.1 p.2.1 p.2.2) s
            { s with launches := mput s.launches n { l with st := .running, saved := [] } }
        else s
      | _ => s)

end Sys2Proof.Machine
end

