-- ==== Sys2Proof/Machine/FrontEnd.lean ====
section
/-! DEFINITION. The front end: queues, doorbells, function registers and packets (R188, R215, R322, R326 to R331). A packet
step acts on the packet at the head of its queue when that packet has its type. -/

namespace Sys2Proof.Machine

/-! ### Queues (R326, R327) -/

def queueKey (fn q : Nat) : Nat := 4 * fn + q

def State.queue (s : State) (fn q : Nat) : Queue := mgetD s.queues (queueKey fn q) .reset
def State.setQueue (s : State) (fn q : Nat) (x : Queue) : State := { s with queues := mput s.queues (queueKey fn q) x }

/-- The queue halts and a halt record names the packet (R327, R331): its TAG field and its byte offset in the ring. -/
def State.haltQueue (s : State) (fn q reason tag : Nat) : State :=
  let x := s.queue fn q
  (s.setQueue fn q { x with halted := true }).record fn 3 reason tag 0 0 x.head 0

/-- R326: the host writes the new tail. A tail outside the ring or off a packet boundary is a field outside its limits
(log 14). -/
def execDoorbell (fn q tail : Nat) (s : State) : Res :=
  let x := s.queue fn q
  .next (if 3 ≤ q ∨ 97 ≤ fn ∨ s.power ≠ .d0 ∨ x.size = 0 then s
    else if x.size ≤ tail ∨ tail % 64 ≠ 0 then s.haltQueue fn q 10 0
    else s.setQueue fn q { x with tail := tail, bells := x.bells ++ [(tail, s.cycle)] })

/-- R327: the ring is emptied and the queue runs again. -/
def execQreset (fn q : Nat) (s : State) : Res :=
  let x := s.queue fn q
  .next (if 3 ≤ q ∨ 97 ≤ fn then s else s.setQueue fn q { x with head := x.tail, halted := false, barrier := none, bells := [] })

/-! ### Function registers (log 13) -/

/-- A ring size is a power of two from 4 KiB to 1 MiB. -/
def ringSizeOk (n : Nat) : Bool := ((List.range 9).map (fun i => 2 ^ (12 + i))).contains n

/-- The settings that firmware keeps for a tenant, written through the PF. -/
def State.setSetting (s : State) (reg f : Nat) (v : Nat) : State :=
  let t := s.tenant f
  match reg with
  | 0x20 => if 16 < bits v 0 4 + bits v 8 5 then s else s.setTenant f { t with accBase := bits v 0 4, accCnt := bits v 8 5 }
  | 0x21 => if 256 ≤ v ∧ v < 65536 then s.setTenant f { t with limit := v } else s
  | 0x22 => if 8192 ≤ v ∧ v ≤ 2 ^ 24 then s.setTenant f { t with wdLimit := v } else s
  | 0x23 =>
    let lo := 65536 * bits v 0 6
    let n := 65536 * bits v 8 6
    if lo + n ≤ Config.spBytes then s.setTenant f { t with spBase := lo, spSize := n } else s
  | 0x24 => s.setTenant f { t with cellarBase := v }
  | 0x25 => if v % 65536 = 0 then s.setTenant f { t with cellarSlot := v } else s
  | 0x26 => s.setTenant f { t with pinQuota := v }
  | _ => if 1 ≤ v ∧ v < 2 ^ 16 then s.setTenant f { t with weight := v } else s

/-- The management registers of the PF: keys, frames, tenant settings, completion timeout, token rates, monitors. That tokens above a
depth that is lowered stay where they are is the model's choice (log 66). -/
def State.manage (s : State) (reg : Nat) (v : Nat) : State :=
  match reg with
  | 0x10 =>
    let key := bits v 0 7
    s.bindKey key (if bits v 8 8 < 97 then some (bits v 8 8) else none)
  | 0x11 =>
    let frame := bits v 0 18
    if Config.devBytes ≤ 2 ^ 21 * frame then s
    else if bits v 24 8 < 128 then s.assignFrame frame (bits v 24 8)
    else s.unassignFrame frame
  | 0x30 => if 1 ≤ v ∧ v ≤ 64 then { s with timeout := 1400000 * v } else s
  | 0x31 =>
    let b := 12 * bits v 0 5 + bits v 8 4
    { s with rate := mput s.rate b (bits v 16 16), depth := mput s.depth b (bits v 32 12) }
  | 0x32 => { s with poolDepth := mput s.poolDepth (bits v 0 5) (bits v 16 14) }
  | 0x33 =>
    let t := bits v 0 8
    let tl := s.tile t
    let on := if bits v 16 3 < 5 then some (bits v 8 2, bits v 16 3) else none
    if 144 ≤ t then s else s.setTile t { tl with monitors := tl.monitors.set (bits v 24 2) { Monitor.reset with on := on } }
  | _ => if bits v 56 8 < 97 then s.setSetting reg (bits v 56 8) (bits v 0 56) else s

/-- A queue is placed: it is empty, and stays halted if it was (R327). -/
def State.placeQueue (s : State) (fn q base size : Nat) : State :=
  s.setQueue fn q { Queue.reset with base := base, size := size, halted := (s.queue fn q).halted }

/-- R326: the queue BAR of a function, and the PF's management registers. Registers 0 to 2 and 3 to 5 hold base and size of
the three launch queues, 6 and 7 those of the completion ring. -/
def execHostRegisterWrite (fn reg : Nat) (v : Word) (s : State) : Res :=
  let n := v.toNat
  if s.power ≠ .d0 ∨ 97 ≤ fn then .next s
  else if reg < 3 then .next (s.placeQueue fn reg n (s.queue fn reg).size)
  else if reg < 6 then
    .next (if ringSizeOk n then s.placeQueue fn (reg - 3) (s.queue fn (reg - 3)).base n else s)
  else if reg = 6 then .next { s with rings := mput s.rings fn ⟨n, (mgetD s.rings fn ⟨0, 0, 0⟩).size, 0⟩ }
  else if reg = 7 then
    .next (if ringSizeOk n then { s with rings := mput s.rings fn ⟨(mgetD s.rings fn ⟨0, 0, 0⟩).base, n, 0⟩ } else s)
  else if fn = 0 ∧ ((0x10 ≤ reg ∧ reg ≤ 0x11) ∨ (0x20 ≤ reg ∧ reg ≤ 0x27) ∨ (0x30 ≤ reg ∧ reg ≤ 0x33)) then
    .next (s.manage reg n)
  else .fault (.unknownHostRegister reg)

/-! ### Packets (R326, R327) -/

/-- The packet at the head of a queue: its address and first word. -/
structure Packet where
  at' : Nat
  w0 : Nat
  deriving DecidableEq, Repr

def Packet.type (p : Packet) : Nat := bits p.w0 56 8
def Packet.len (p : Packet) : Nat := bits p.w0 52 4
def Packet.tag (p : Packet) : Nat := bits p.w0 0 16

/-- Bytes between head and tail. -/
def Queue.filled (x : Queue) : Nat := (x.tail + x.size - x.head) % x.size

/-- LEN of each type. -/
def packetLen (type : Nat) : Nat := if type = 1 ∨ type = 4 then 2 else 1

/-- Why a packet's header halts its queue (R327), as a REASON. -/
def State.headerBad (s : State) (fn q : Nat) (p : Packet) : Option Nat :=
  let x := s.queue fn q
  if x.size < x.head + 64 * p.len then some 8
  else if 7 < p.type then some 9
  else if p.len ≠ packetLen p.type then some 10
  else none

/-- Where the packet at the head of a queue lies. A queue that is halted, empty or outside the function's window has none. The front
end runs on cores of its own and goes on while the firmware cores restart (R27, R334). -/
def State.headAt (s : State) (fn q : Nat) : Option Nat :=
  let x := s.queue fn q
  if x.halted || x.size == 0 || x.head == x.tail || s.power != Power.d0 || !s.inWindow fn x.base x.size then none
  else some (x.base + x.head)

/-- The packet at the head of a queue, once its header is home: one with a bad header, or one that has been rung whole. -/
def State.packet (s : State) (fn q : Nat) : Option Packet :=
  match s.headAt fn q with
  | none => none
  | some a =>
    let p : Packet := ⟨a, s.devWord a⟩
    if !s.isHome [(a, 64)] || ((s.headerBad fn q p).isNone && decide ((s.queue fn q).filled < 64 * p.len)) then none else some p

/-- Bytes from the head of a queue to a tail that was rung. -/
def Queue.reach (x : Queue) (tail : Nat) : Nat := (tail + x.size - x.head) % x.size

/-- The cycle of the doorbell that a packet came with: the first one that covers it (R301). -/
def State.bellOf (s : State) (fn q : Nat) (p : Packet) : Nat :=
  let x := s.queue fn q
  ((x.bells.find? (fun b => decide (64 * p.len ≤ x.reach b.1))).map (·.2)).getD s.cycle

/-- The packet leaves the queue. -/
def State.pop (s : State) (fn q : Nat) (p : Packet) : State :=
  let x := s.queue fn q
  s.setQueue fn q { x with head := (x.head + 64 * p.len) % x.size, barrier := none
                           bells := x.bells.filter (fun b => decide (64 * p.len < x.reach b.1)) }

/-- A word of a packet. -/
def State.pword (s : State) (p : Packet) (i : Nat) : Nat := s.devWord (p.at' + 8 * i)

/-- Words from `i` on are zero. -/
def State.zeroFrom (s : State) (p : Packet) (i : Nat) : Bool :=
  (List.range (8 * p.len - i)).all (fun j => s.pword p (i + j) == 0)

/-- Run a packet of a type: a bad header is left to NOP, a bad field halts the queue with REASON 10. -/
def State.runPacket (s : State) (fn q type : Nat) (bad : Packet → Bool) (k : Packet → State → State) : State :=
  match s.packet fn q with
  | none => s
  | some p =>
    if (s.headerBad fn q p).isSome || p.type != type then s
    else s.withHome [(p.at', 64 * p.len)] fun s => if bad p then s.haltQueue fn q 10 p.tag else k p s

/-- R326, R327: a NOP packet leaves the queue; a packet with a bad header halts it. A header that the host holds is called
back first (R319). -/
def execNop (fn q : Nat) (s : State) : Res :=
  .next (match s.packet fn q with
    | none => match s.headAt fn q with
      | some a => s.withHome [(a, 64)] id
      | none => s
    | some p =>
      match s.headerBad fn q p with
      | some r => s.haltQueue fn q r p.tag
      | none =>
        if p.type ≠ 0 then s
        else if bits p.w0 0 52 ≠ 0 || !s.zeroFrom p 1 then s.haltQueue fn q 10 p.tag
        else s.pop fn q p)

/-! ### LAUNCH (R31, R328) -/

/-- A field of a LAUNCH packet is outside its limits. -/
def State.launchFieldBad (s : State) (fn : Nat) (p : Packet) : Bool :=
  let w := s.pword p
  let votes := bits p.w0 36 8
  let plane := bits p.w0 32 4
  let lim := bits (w 5) 16 16
  decide (bits p.w0 50 2 = 3) || (List.range 4).any (fun b => decide (bits votes (2 * b) 2 = 0))
    || decide (4 ≤ plane ∧ plane ≤ 14)
    || decide (w 1 % 4096 ≠ 0) || !s.inWindow fn (w 1) 4096
    || decide (w 2 % 64 ≠ 0 ∨ w 2 = 0) || !s.inWindow fn (w 2) 32
    || decide (w 3 % 64 ≠ 0) || (w 3 != 0 && !s.inWindow fn (w 3) 64)
    || decide (bits (w 5) 0 16 ≠ 0) || decide (1 ≤ lim ∧ lim ≤ 255)
    || decide (w 6 % 64 ≠ 0) || (w 6 != 0 && !s.inWindow fn (w 6) 64)
    || decide (w 7 ≠ 0)

/-- The launch that a packet asks for. -/
def State.launchOf (s : State) (fn q : Nat) (p : Packet) : Launch where
  fn := fn
  cls := bits p.w0 50 2
  tag := p.tag
  strict := tbit p.w0 49
  cadlock := tbit p.w0 48
  cbase := bits p.w0 44 4 + 1
  votes := bits p.w0 36 8
  planeReq := bits p.w0 32 4
  rows := bits p.w0 28 4 + 1
  cols := bits p.w0 24 4 + 1
  wrapY := tbit p.w0 23
  wrapX := tbit p.w0 22
  enable := BitVec.ofNat 6 (bits p.w0 16 6)
  wtabAddr := s.pword p 1
  segAddr := s.pword p 2
  dmAddr := s.pword p 3
  srseed := BitVec.ofNat 64 (s.pword p 4)
  tid := bits (s.pword p 5) 32 32
  limit := bits (s.pword p 5) 16 16
  spImages := s.pword p 6
  spLoads := []
  args := (List.range 8).map (fun i => BitVec.ofNat 64 (s.pword p (8 + i)))
  bell := s.bellOf fn q p
  st := .queued
  plane := 0
  y0 := 0
  x0 := 0
  saved := []
  failure := none
  failing := false
  accBase := 0
  accCnt := 0
  spBase := 0
  spSize := 0
  cellarBase := 0
  cellarSlot := 0

/-- The shape breaks R31. -/
def Launch.shapeBad (l : Launch) : Bool :=
  decide (12 < l.rows ∨ 12 < l.cols) || (l.wrapY && l.rows != 12) || (l.wrapX && l.cols != 12)

/-- Activation holds a launch that was rung before its function paused, and refuses one rung after it (R331, R334, log 32). -/
def State.heldLaunch (s : State) (fn : Nat) (l : Launch) : Bool := match (s.tenant fn).paused with
  | some t => decide (l.bell ≤ t)
  | none => false

/-- R31, R328, R334: the launch enters its plane's launch unit, is held in its queue, or is refused. -/
def execLaunch (fn q : Nat) (s : State) : Res :=
  .next (s.runPacket fn q 1 (s.launchFieldBad fn) fun p s =>
    let l := s.launchOf fn q p
    if s.heldLaunch fn l then s
    else
      let s := s.pop fn q p
      if l.shapeBad then s.record fn 2 5 l.tag 0 0 0 0
      else if (s.tenant fn).paused.isSome then s.record fn 2 11 l.tag 0 0 0 0
      else { s with launches := mput s.launches s.nextLaunch l, nextLaunch := s.nextLaunch + 1 })

/-! ### SIGNAL, BARRIER, EVICT, TIMESTAMP, RELEASE (R329) -/

/-- Live launches of a tenant with a TAG: those that are on their tiles. -/
def State.matching (s : State) (fn tag : Nat) : List (Nat × Launch) :=
  s.launches.filter (fun p => p.2.fn == fn && p.2.tag == tag && p.2.st.onTiles)

/-- R276, R329: SIG and SIGVAL are set in every live context of every live launch whose TAG matches. -/
def execSignal (fn q : Nat) (s : State) : Res :=
  .next (s.runPacket fn q 2
    (fun p => decide (bits p.w0 16 36 ≠ 0 ∨ bits (s.pword p 1) 16 48 ≠ 0) || !s.zeroFrom p 2) fun p s =>
    let v := s.pword p 1
    let ms := s.matching fn p.tag
    let s := s.pop fn q p
    if ms.isEmpty then s.record fn 2 13 p.tag 0 0 0 0
    else
      ms.foldl (fun (s : State) m => m.2.ctxs.foldl (fun (s : State) c =>
        let x := s.ctx c
        if x.isLive && x.launch == m.1 then s.setCtx c { x.setEvent 0 with sigval := BitVec.ofNat 16 v } else s) s) s)

/-- A launch of the tenant numbered below a limit has not completed. -/
def State.launchesLeft (s : State) (fn limit : Nat) : Bool :=
  s.launches.any (fun p => p.2.fn == fn && p.2.st != LaunchSt.over && decide (p.1 < limit))

/-- The launches that a BARRIER at the head waits for are numbered below this: those that came before it. -/
def State.barrierLimit (s : State) (fn q : Nat) : Nat := (s.queue fn q).barrier.getD s.nextLaunch

/-- R326, R329: the queue waits until every earlier launch of the tenant has completed. -/
def execBarrier (fn q : Nat) (s : State) : Res :=
  .next (s.runPacket fn q 3 (fun p => decide (bits p.w0 0 52 ≠ 0) || !s.zeroFrom p 1) fun p s =>
    let n := s.barrierLimit fn q
    if s.launchesLeft fn n then s.setQueue fn q { s.queue fn q with barrier := some n } else s.pop fn q p)

/-- R292, R329. -/
def execEvict (fn q : Nat) (s : State) : Res :=
  .next (s.runPacket fn q 5 (fun p => decide (bits p.w0 16 36 ≠ 0) || !s.zeroFrom p 1) fun p s =>
    let ms := s.matching fn p.tag
    let s := s.pop fn q p
    if ms.isEmpty then s.record fn 2 13 p.tag 0 0 0 0 else ms.foldl (fun (s : State) m => s.requestEviction m.1) s)

/-- R329, R331: the reference-tick count goes into the ring. R8 gives a tick 14 cycles; that ticks are counted from cycle 0 of the
device is the model's choice (log 64). -/
def execTimestamp (fn q : Nat) (s : State) : Res :=
  .next (s.runPacket fn q 6 (fun p => decide (bits p.w0 16 36 ≠ 0) || !s.zeroFrom p 1) fun p s =>
    (s.pop fn q p).record fn 4 0 p.tag 0 0 0 (s.cycle / Config.tickCycles))

/-- No debug session holds the context any more: a halted one goes on, strict from the next frame boundary (R337, R351). -/
def Ctx.undebug (x : Ctx) (now : Nat) : Ctx :=
  { x with halted := false, haltNext := false, stepOnce := false
           frameFrom := if x.halted && x.strict then now else x.frameFrom }

/-- A consent ends: its sessions end and halted contexts resume (R337). -/
def State.endConsent (s : State) (fn tid : Nat) : State :=
  let s := { s with consents := s.consents.filter (fun c => !(c.tenant == fn && c.tid == tid)) }
  s.mapCtxs (fun x =>
    match mfind s.launches x.launch with
    | some l =>
      if l.fn = fn ∧ l.tid = tid then
        { x.undebug s.cycle with dbg := false }
      else x
    | none => x)

/-- R329, R337. -/
def execRelease (fn q : Nat) (s : State) : Res :=
  .next (s.runPacket fn q 7
    (fun p => decide (bits p.w0 0 52 ≠ 0 ∨ bits (s.pword p 1) 0 32 ≠ 0) || !s.zeroFrom p 2) fun p s =>
    let tid := bits (s.pword p 1) 32 32
    let s := s.pop fn q p
    if s.consents.any (fun c => c.tenant == fn && c.tid == tid) then s.endConsent fn tid else s.record fn 2 13 0 0 0 0 0)

/-! ### MIGRATE (R188, R322) -/

/-- Bytes of a page whose LSIZE field is `z`. -/
def pageBytes (z : Nat) : Nat := if z = 0 then 2 ^ 32 else 2 ^ z

/-- The KEYIDs of the frames of a range, when every one is assigned to one key. -/
def State.rangeKey (s : State) (a n : Nat) : Option Nat :=
  match mfind s.frameKey (a / 2 ^ 21) with
  | none => none
  | some k =>
    if (List.range ((a + n - 1) / 2 ^ 21 - a / 2 ^ 21 + 1)).all (fun i => mfind s.frameKey (a / 2 ^ 21 + i) == some k)
    then some k else none

/-- Change the loaded entries that map a page. -/
def State.mapEntries (s : State) (base lsize : Nat) (f : Nat → Nat) : State :=
  s.mapCtxs (fun x =>
    if x.window.any (fun p => entAt p.2.toNat base lsize) then
      { x with window := x.window.map (fun p => if entAt p.2.toNat base lsize then (p.1, BitVec.ofNat 128 (f p.2.toNat)) else p) }
    else x)

def entSetFrame (e base : Nat) : Nat := e - bits e 64 36 * 2 ^ 64 + base / 2 ^ 16 * 2 ^ 64

/-- A field of a MIGRATE packet is outside its limits. -/
def State.migrateFieldBad (s : State) (fn : Nat) (p : Packet) : Bool :=
  let w := s.pword p
  let z := bits p.w0 24 5
  let n := bits p.w0 16 8
  let inside := fun a => if fn = 0 then decide (a < Config.devBytes) else s.inWindow fn a 1
  decide (bits p.w0 29 23 ≠ 0 ∨ (1 ≤ z ∧ z ≤ 15) ∨ 64 < n ∨ bits (w 1) 52 12 ≠ 0 ∨ bits (w 2) 52 12 ≠ 0 ∨ w 3 % 8 ≠ 0)
    || !inside (w 1) || !inside (w 2) || !s.inWindow fn (w 3) (max 1 (8 * n)) || !s.zeroFrom p 4

/-- The listed image entries. -/
def State.migrateList (s : State) (p : Packet) : List Nat :=
  (List.range (bits p.w0 16 8)).map (fun i => s.devWord (s.pword p 3 + 8 * i))

/-- R322 refuses the packet. -/
def State.migrateRefused (s : State) (fn : Nat) (p : Packet) : Bool :=
  let z := bits p.w0 24 5
  let n := pageBytes z
  let old := s.pword p 1
  let new := s.pword p 2
  let owner := (s.rangeKey old n).bind (mfind s.keys)
  (s.rangeKey old n).isNone || s.rangeKey old n != s.rangeKey new n || (fn != 0 && owner != some fn)
    || decide (old % n ≠ 0 ∨ new % n ≠ 0)
    || (s.migrateList p).any (fun a => decide (a % 16 ≠ 0) || !entAt (s.devLE a 16) old z)

/-- What the front end reads for a MIGRATE packet: its list, and the entries that it names. -/
def State.migrateReads (s : State) (p : Packet) : List (Nat × Nat) :=
  (s.pword p 3, 8 * bits p.w0 16 8) :: (s.migrateList p).map (fun a => (a, 16))

/-- The tenant whose page a MIGRATE packet moves. -/
def State.migrateOwner (s : State) (fn : Nat) (p : Packet) : Nat :=
  ((s.rangeKey (s.pword p 1) (pageBytes (bits p.w0 24 5))).bind (mfind s.keys)).getD fn

/-- R188, R322: the migration begins; one migration of a tenant runs at a time. -/
def execMigrate (fn q : Nat) (s : State) : Res :=
  .next (s.runPacket fn q 4 (s.migrateFieldBad fn) fun p s =>
    let owner := s.migrateOwner fn p
    if s.migrations.any (fun m => m.fn == owner) then s
    else
      s.withHome (s.migrateReads p) fun s =>
        if s.migrateRefused fn p then (s.pop fn q p).record fn 2 10 p.tag 0 0 0 0
        else
          let m : Migration := ⟨owner, 4 * fn + q, p.tag, s.pword p 1, s.pword p 2, bits p.w0 24 5, s.migrateList p, false, false⟩
          { s.pop fn q p with migrations := s.migrations ++ [m] })

/-- R188: at the end of the cycle of a MIGRATE, every loaded entry that maps its page goes to transit; one that a launch unit loads
after that is loaded so. -/
def State.markMigrations (s : State) : State :=
  if s.migrations.all (·.marked) then s
  else
    let s := (s.migrations.filter (fun m => !m.marked)).foldl (fun (s : State) m => s.mapEntries m.old m.lsize (fun e => entSetState e 2)) s
    { s with migrations := s.migrations.map (fun m => { m with marked := true }) }

/-- A virtual range meets the page of an entry. -/
def meets (e : Nat) (va : Int) (n : Nat) : Bool :=
  decide (n ≠ 0 ∧ va < entVbase e + 2 ^ entSize e ∧ (entVbase e : Int) < va + n)

/-- An access that a context has translated and not completed meets the page of an entry (R188). -/
def Ctx.uses (x : Ctx) (e : Nat) : Bool :=
  x.recs.any (fun r =>
    if r.kind = 6 || r.kind = 4 then r.dloc == Loc.virt && meets e r.dst r.width
    else if r.kind = 5 then (r.sloc == Loc.virt && meets e r.src r.n0) || meets e r.dst (8 * r.n0)
    else r.rowsOf.any (fun w => (r.sloc == Loc.virt && meets e w.2.1 r.n0) || (r.dloc == Loc.virt && meets e w.2.2 r.rowLen)))
  || x.cells.any (fun r => match r.op with
    | .ladd items => items.any (fun i => meets e i.1 32)
    | .linit a n | .lraw a _ n => meets e a (32 * n))
  || x.drains.any (fun d => !engIsSp d.base && d.rows.any (fun r =>
      let va := (d.base : Int) + r.1 * d.stride
      meets e va (x.accdRow va)))
  || x.gathers.any (fun g => g.results.isNone && g.addrs.any (fun a => match a with
    | some a => meets e a g.wbytes
    | none => false))
  || (match x.ovCopy with
    | some cp => cp.clear && meets e (x.segImage (cp.seg + 1)).1 (x.segImage (cp.seg + 1)).2
    | none => false)

/-- A hint that has been translated and waits at the ports names a sector of a page. -/
def Hint.reaches (h : Hint) (base n : Nat) : Bool := h.units.any (fun u => decide (base ≤ 64 * u.sec ∧ 64 * u.sec < base + n))

/-- The access counts of the entries that map a page are zero. -/
def State.unused (s : State) (base lsize : Nat) : Bool :=
  s.hints.all (fun h => !h.reaches base (pageBytes lsize)) && s.ctxs.all (fun p => p.2.window.all (fun w => !(entAt w.2.toNat base lsize && p.2.uses w.2.toNat)))

/-- The bytes of a page move to a new frame; poison goes along. The SLC keeps the sectors of the old frame, written back, with their
pins, until they are released (R184, R322; log 36). -/
def State.movePage (s : State) (old new n : Nat) : State :=
  let img := Sys2Proof.Machine.window (s.text old n) old n
  let s := s.claimRange new n
  { s with dev := img.foldl (fun d c => mwrite d (new + c.1) c.2) (clearRange s.dev new n)
           poison := s.poison.filter (fun sec => !decide (new ≤ 64 * sec ∧ 64 * sec < new + n))
             ++ (s.poison.filter (fun sec => decide (old ≤ 64 * sec ∧ 64 * sec < old + n))).map (fun sec => sec - old / 64 + new / 64)
           slc := s.slc.map (fun (p : Nat × Sector) => if old ≤ 64 * p.1 ∧ 64 * p.1 < old + n then (p.1, { p.2 with dirty := false }) else p) }

/-- R322, steps 2 to 4. -/
def execMigrationCopy (tenant : Nat) (s : State) : Res :=
  .next (match s.migrations.find? (fun m => m.fn == tenant && m.marked && !m.copied) with
    | none => s
    | some m =>
      let n := pageBytes m.lsize
      if !s.unused m.old m.lsize then s
      else
        let hs := s.hostCopies m.old n ++ s.hostCopies m.new n
        if !hs.isEmpty then hs.foldl (fun (s : State) h => s.askBack (h, true)) s
        else { s.movePage m.old m.new n with
               migrations := s.migrations.map (fun q => if q = m then { m with copied := true } else q) })

/-- What has to come home before the listed image entries are written on one cycle: every host copy of their sectors, and the writes
of firmware that still wait there (R319, R322). -/
def State.entryNeed (s : State) (entries : List Nat) : Need :=
  let rs := entries.map (fun a => (a, 16))
  let secs : List Nat := (s.snoop.filter (fun p => within rs p.1)).map (·.1)
    ++ (s.fwPend.filter (fun p => within rs (p.1 / 64))).map (fun p => p.1 / 64)
  { Need.none with snoops := secs.eraseDups.map (fun u => (u, true)) }

/-- R188, R322, steps 5 and 6: the loaded and the listed entries change together. -/
def execMigrationCommit (tenant : Nat) (s : State) : Res :=
  .next (match s.migrations.find? (fun m => m.fn == tenant && m.copied) with
    | none => s
    | some m =>
      let nd := s.entryNeed m.entries
      if !nd.snoops.isEmpty then s.ask 0 nd
      else
        let f := fun e => entSetState (entSetFrame e m.new) 1
        let s := s.mapEntries m.old m.lsize f
        let s := m.entries.foldl (fun (s : State) a =>
          let s := s.claimRange a 16
          { s with dev := writeLE s.dev a 16 (f (readLE s.dev a 16)) }) s
        { s with migrations := s.migrations.filter (fun q => q != m) }.record (m.q / 4) 0 0 m.tag 0 0 0 0)

end Sys2Proof.Machine
end

