-- ==== Sys2Proof/Machine/HostMem.lean ====
section
/-! DEFINITION. Host accesses to device memory (R183, R215, R318, R319, R332) and the link (R286, R317). -/

namespace Sys2Proof.Machine

/-- Why a host access to HDM does not reach memory. -/
inductive HostBar where
  | noCxl | outside | carveOut
  deriving DecidableEq, Repr

/-- The check of a host access (R317, R318, R332). A sector that the SLC holds under another key than its frame's is barred too
(R183, log 31). -/
def State.hostBar (s : State) (fn addr : Nat) : Option HostBar :=
  let sec := addr / 64
  if !s.cxlUp || s.power != Power.d0 then some .noCxl
  else if s.inCarveOut sec then some .carveOut
  else if !s.inWindow fn (64 * sec) 64 then some .outside
  else
    match mfind s.frameKey (64 * sec / 2 ^ 21) with
    | some k => if (mfind s.slc sec).isNone || s.tagFits k sec then none else some .outside
    | none => some .outside

/-- Kinds of health records. -/
def healthHostRead : Nat := 1
def healthHostWrite : Nat := 2
def healthExtension : Nat := 3
def healthSpare : Nat := 4
def healthSparesOut : Nat := 5

/-- A read that is barred. -/
def State.barredRead (s : State) (fn addr : Nat) (b : HostBar) : State :=
  match b with
  | .noCxl => s.tell (.unsupported fn addr)
  | .outside => (s.health' healthHostRead addr).tell (.readData fn addr 0 true)
  | .carveOut => (s.health' healthHostRead addr).tell (.readData fn addr (ones 512) false)

/-- The filter has no entry left for a sector: an entry is called back (R319). -/
def State.filterFull (s : State) (sec : Nat) : Bool :=
  (mfind s.snoop sec).isNone && decide (Config.filterMax ≤ s.snoop.length)

/-- The entry that a capacity eviction takes, unless one is already on its way. -/
def State.evictFilter (s : State) : State :=
  if !s.backInv.isEmpty then s
  else
    match (s.snoop.map (·.1))[Config.filterVictim s.free % s.snoop.length]? with
    | some sec => { s.askBack (sec, true) with free := s.free + 1 }
    | none => s

/-- A host read that allocates a filter entry. While the filter is full it waits at the home, and an entry is called back. -/
def State.hostRead (s : State) (fn addr : Nat) (excl : Bool) : State :=
  match s.hostBar fn addr with
  | some b => s.barredRead fn addr b
  | none =>
    let sec := addr / 64
    if s.filterFull sec then { s.evictFilter with hostReads := s.hostReads ++ [(fn, addr, excl)] }
    else
      { s with snoop := mput s.snoop sec excl }.tell
        (.readData fn (64 * sec) (s.devLE (64 * sec) 64) (s.poison.contains sec))

/-- The host reads that wait are tried again, the oldest first. -/
def State.serveReads (s : State) : State :=
  s.hostReads.foldl (fun (s : State) r => s.hostRead r.1 r.2.1 r.2.2) { s with hostReads := [] }

/-- R319. -/
def execHostReadShared (fn addr : Nat) (s : State) : Res := .next (s.hostRead fn addr false)
/-- R319. -/
def execHostReadOwn (fn addr : Nat) (s : State) : Res := .next (s.hostRead fn addr true)

/-- R319: the host gives a sector back; what it held exclusive or modified is written into the SLC. Host reads
that wait for an entry of the filter go on where one is free. -/
def execBackInvalidateResponse (sector : Nat) (data : BitVec 512) (s : State) : Res :=
  .next (match mfind s.backInv sector with
    | none => s
    | some b =>
      let s := if mgetD s.snoop sector false then s.hostData sector data else s
      let s := { s with backInv := merase s.backInv sector
                        snoop := if b.invalidate then merase s.snoop sector else mput s.snoop sector false }
      (if b.invalidate then s.landPend sector else s).serveReads)

/-- R215, R318, R332: the enabled bytes reach the home; a write of a whole sector clears its poison. -/
def execHostMemWrite (fn addr : Nat) (enables : BitVec 64) (data : BitVec 512) (s : State) : Res :=
  .next (match s.hostBar fn addr with
    | some .noCxl => s.tell (.unsupported fn addr)
    | some _ => s.health' healthHostWrite addr
    | none =>
      let a := 64 * (addr / 64)
      let s := s.claim (addr / 64)
      let s := { s with dev := writeMasked s.dev a 64 enables.toNat data.toNat }
      if enables = BitVec.allOnes 64 then s.cure a 64 else s)

/-! ### The link -/

/-- R317: the link comes up at a width and a rate it supports. -/
def execLinkTraining (lanes rate : Nat) (s : State) : Res :=
  .next (if [16, 8, 4, 2, 1].contains lanes && [64000, 32000, 16000, 8000, 5000, 2500].contains rate then
      { s with linkLanes := lanes, linkRate := rate, linkUp := true }
    else s)

/-- Requests of a context that the host will not answer: records meet the link down when they next try to perform, reads
behind host-io writes fail here. -/
def Ctx.losePosted (x : Ctx) : Ctx :=
  x.posted.foldl (fun (x : Ctx) p => x.addFault 0x304 p.addr false none p.seq p.colour) { x with posted := [] }

/-- R286: the link goes down and host accesses in progress fail with 0x304. Host reads that wait at the home have no way back. -/
def execLinkDown (s : State) : Res :=
  .next ({ s with linkUp := false, atticReq := [], hostReads := [] }.mapCtxs Ctx.losePosted)

end Sys2Proof.Machine
end

