-- ==== Sys2Proof/Machine/Firmware.lean ====
section
/-! DEFINITION. Tenant reset, firmware images and their activation, SPDM (R321, R332 to R335). -/

namespace Sys2Proof.Machine

/-! ### Tenant reset (R335) -/

/-- The tasks of a launch stop and it completes as failed; its record names, of the tasks that fail, the one lowest in (RY, RX) order, with
its address (R41, R485). That what they have pushed is discarded at once is the model's reading (log 41), and that a launch which was
failing before keeps its earlier failure at a thermal trip is the model's choice (log 70). -/
def State.killLaunch (s : State) (n reason : Nat) : State :=
  match mfind s.launches n with
  | none => s
  | some l =>
    if l.st = .over then s
    else
      let cs := if l.st.placed' then l.ctxs.filter (fun c => (s.ctx c).launch == n) else []
      let f : Failure := match l.failure, cs.find? (fun c => (s.ctx c).isLive) with
        | some f, _ => f
        | none, some c => ⟨s.cycle, (s.ctx c).place, reason, 0, (s.ctx c).pc.toNat, 0⟩
        | none, none => ⟨s.cycle, 0, reason, 0, 0, 0⟩
      let s := cs.foldl (fun (s : State) c =>
        let x := s.ctx c
        (s.setCtx c { x with life := if x.isLive then .stopped else x.life, wait := .none, pauseTo := none, ending := none
                             syncWait := false, rollback := none, halted := false
                             recs := [], cells := [], drains := [], gathers := [], colls := [], posted := []
                             engFaults := [], ovCopy := none }).freeOwner c) s
      let s := { s with tickets := s.tickets.filter (fun k => !cs.contains k.ctx), hints := s.hints.filter (fun h => !cs.contains h.ctx) }
      let l := { l with failing := true, failure := some f, st := .over }
      (({ s with launches := mput s.launches n l }.launchRecord l).count l.fn (ctrDone l.cls) 48 1).followVotes

def State.killWhere (s : State) (p : Launch → Bool) (reason : Nat) : State :=
  (s.launches.filter (fun q => p q.2)).foldl (fun (s : State) q => s.killLaunch q.1 reason) s

/-- The attic writes back and invalidates lines (R321). -/
def State.dropLines (s : State) (p : Line → Bool) : State :=
  (s.attic.filter (fun q => p q.2)).foldl (fun (s : State) q => s.dropLine q.1) s

/-- A frame of a key that goes is unassigned: its bytes stand under a key that nothing has any more (R25). What the host holds of it is
called back. -/
def State.loseFrame (s : State) (frame : Nat) : State :=
  let a := frame * 2 ^ 21
  let s := s.unassignFrame frame
  { s.voidCopies a (2 ^ 21) with
           slc := s.slc.filter (fun q => !decide (a ≤ 64 * q.1 ∧ 64 * q.1 < a + 2 ^ 21))
           fwPend := s.fwPend.filter (fun q => !decide (a ≤ q.1 ∧ q.1 < a + 2 ^ 21)) }

/-- The keys of a tenant are destroyed and its frames marked unassigned. -/
def State.loseKeys (s : State) (fn : Nat) : State :=
  let mine := (s.keys.filter (fun k => k.2 == fn)).map (·.1)
  let s := (s.framesUnder mine.contains).foldl State.loseFrame s
  { s with keys := s.keys.filter (fun k => k.2 != fn)
           keyGen := mine.foldl (fun m k => mput m k (mgetD m k 0 + 1)) s.keyGen }

/-- Every debug session of a tenant ends. -/
def State.endSessions (s : State) (fn : Nat) : State :=
  (s.consents.filter (fun c => c.tenant == fn)).foldl (fun (s : State) c => s.endConsent fn c.tid) s

/-- R321, R335. -/
def State.resetTenant (s : State) (fn : Nat) : State :=
  let s := s.killWhere (fun l => l.fn == fn) 0
  let s := s.dropLines (fun l => l.tenants.contains fn)
  let s := (s.loseKeys fn).endSessions fn
  let t := s.tenant fn
  let s := s.setTenant fn { t with degraded := false, counters := [] }
  { s with slc := s.slc.map (fun q => if q.2.pinned = some fn then (q.1, { q.2 with pinned := none }) else q)
           hints := s.hints.filter (fun h => h.fn != fn)
           migrations := s.migrations.filter (fun m => m.fn != fn) }

/-- R335: the PF resets a tenant. -/
def execTenantReset (tenant : Nat) (s : State) : Res := .next (s.resetTenant tenant)

/-- R335: a function's reset resets its tenant and its queue registers. -/
def execFunctionLevelReset (fn : Nat) (s : State) : Res :=
  let s := s.resetTenant fn
  .next { s with queues := s.queues.filter (fun q => q.1 / 4 != fn), rings := merase s.rings fn }

/-! ### Firmware (R332 to R334) -/

/-- FWSTATUS: an image that passed its check, and one that failed. -/
def fwVerified : Nat := 1
def fwFailed : Nat := 2

/-- R332: the first write since reset sets the carve-out, and the boot ROM checks the image. -/
def execFwrangeWrite (lo hi : Nat) (s : State) : Res :=
  .next (match s.fwrange with
    | some _ => s
    | none =>
      { s with fwrange := some (lo, hi)
               fwstatus := if Config.imageOk (window (s.text lo (hi - lo)) lo (hi - lo)) then fwVerified else fwFailed })

/-- A message on a vector of every VF. -/
def State.tellVfs (s : State) (vec : Nat) : State :=
  { s with hostOut := s.hostOut ++ (List.range 96).map (fun i => .msix (i + 1) vec) }

/-- R334, step 1: with a verified image, every VF gets a pause event. Debug sessions are suspended: halted contexts go on
(R337). -/
def execPrepare (s : State) : Res :=
  .next (if s.fwstatus ≠ fwVerified || s.activation != Activation.none then s
    else { s.tellVfs 1 with activation := .prepared }.mapCtxs (fun x => x.undebug s.cycle))

/-- R334, step 3: the background regions of the functions that are quiesced are evicted. -/
def State.evictQuiet (s : State) : State :=
  (s.launches.filter (fun p => p.2.cls == 2 && s.quietens p.2.fn)).foldl (fun (s : State) p => s.requestEviction p.1) s

/-- R334, steps 2 and 3. -/
def execPaused (fn : Nat) (s : State) : Res :=
  .next (if s.activation = .prepared ∧ 1 ≤ fn ∧ fn ≤ 96 ∧ (s.tenant fn).paused = none then
      let t := s.tenant fn
      (s.setTenant fn { t with paused := some s.cycle }).evictQuiet
    else s)

/-- Every VF has paused and nothing runs. -/
def State.quiesced (s : State) : Bool := s.allPaused && s.launches.all (fun p => !p.2.st.placed')

/-- R334, step 4: the firmware cores restart. -/
def execActivate (s : State) : Res :=
  .next (if s.activation = .prepared && s.quiesced then { s with activation := .restarting s.cycle } else s)

/-- The image that the carve-out holds. -/
def State.carveOut (s : State) : Memory :=
  match s.fwrange with
  | none => []
  | some (lo, hi) => window (s.text lo (hi - lo)) lo (hi - lo)

/-- R334, step 5: the new image runs and every VF gets a resume event. -/
def execFirmwareRestart (s : State) : Res :=
  .next (match s.activation with
    | .restarting _ =>
      { s.tellVfs 2 with activation := .none, firmware := s.firmware + 1, image := s.carveOut
                         tenants := s.tenants.map (fun p => (p.1, { p.2 with paused := none })) }
    | _ => s)

/-- The measured value: boot ROM, the firmware that runs, fuse settings, sparing map (R333). -/
def State.measured (s : State) : Nat := Config.measurement Config.bootRom s.image Config.fuses s.cskip

/-- R333. -/
def execSpdmRequest (nonce : Nat) (s : State) : Res :=
  .next (s.tell (.spdm s.measured (Config.spdmSignature nonce s.measured)))

end Sys2Proof.Machine
end

