-- ==== Sys2Proof/Machine/Debug.lean ====
section
/-! DEFINITION. The debugger (R336, R337, R351). -/

namespace Sys2Proof.Machine

/-- R336: a consent token signed by the tenant enables debugging of its launches with the TID. -/
def execDebugConsent (tenant tid expiry : Nat) (signatureOk : Bool) (s : State) : Res :=
  .next (if !signatureOk then s
    else
      let rest := s.consents.filter (fun c => !(c.tenant == tenant && c.tid == tid))
      let s : State := { s with consents := rest ++ [⟨tenant, tid, expiry⟩] }
      s.mapCtxs (fun x =>
        match mfind s.launches x.launch with
        | some l => if x.isLive && l.fn == tenant && l.tid == tid then { x with dbg := true } else x
        | none => x))

/-- R336: with consent, a context halts at a boundary. -/
def execDebugHalt (ctx : Nat) (s : State) : Res :=
  let x := s.ctx ctx
  .next (if s.debugged x && x.atBoundary then s.setCtx ctx (x.halt s.cycle) else s)

/-- The accumulator row and the 64-bit word of it that a register number from 0x30000 on names: accumulator tile, row, word. -/
def accReg (reg : Nat) : Nat × Nat × Nat := ((reg - 0x30000) / 8192, (reg - 0x30000) / 64 % 128, (reg - 0x30000) % 64)

/-! The weight planes (R83, R230) from register number 0x50000 on, in 64-bit words: 0x10000 for each plane, the active one first,
0x4000 for each band, and in it 0x1000 each for code bytes, scale bytes, route tables and the descriptor of R293, which counts in
band 0 alone. -/

/-- The plane, band, part and word that such a register number names. -/
def planeReg (reg : Nat) : Nat × Nat × Nat × Nat :=
  ((reg - 0x50000) / 0x10000, (reg - 0x50000) / 0x4000 % 4, (reg - 0x50000) / 0x1000 % 4, (reg - 0x50000) % 0x1000)

/-- The descriptor of a plane (R293): its format and whether it is sparse; 0 of a plane that nothing has loaded. -/
def Plane.desc (p : Plane) : Nat :=
  match p.fmt with
  | none => 0
  | some f => f + 32 * p.sparse.toNat + 64

/-- The bytes that a part of a band holds in a plane of its format. -/
def Plane.partBytes (p : Plane) (part : Nat) : Nat :=
  match p.fmt with
  | none => 0
  | some f =>
    match part with
    | 0 => bandCode f
    | 1 => if fmtBlock f then 128 else 0
    | _ => if p.sparse then 1024 else 0

def Band.part (b : Band) : Nat → Nat
  | 0 => b.codes
  | 1 => b.scales
  | _ => b.routes

def Band.setPart (b : Band) (part v : Nat) : Band :=
  match part with
  | 0 => { b with codes := v }
  | 1 => { b with scales := v }
  | _ => { b with routes := v }

/-- A word of a plane as a debugger reads it. -/
def Plane.debugRead (p : Plane) (band part word : Nat) : Nat :=
  if part = 3 then (if band = 0 ∧ word = 0 then p.desc else 0) else ((p.band band).part part) / 2 ^ (64 * word)

/-- A debugger's write of a word of a plane. One of the descriptor gives the plane a format and zero weights; a word that the format
has no bytes for keeps its value. -/
def Plane.debugWrite (p : Plane) (band part word v : Nat) : Plane :=
  if part = 3 then
    (if band ≠ 0 ∨ word ≠ 0 ∨ v = p.desc ∨ 17 < bits v 0 5 then p
     else if tbit v 6 then { Plane.zero with fmt := some (bits v 0 5), sparse := tbit v 5 } else .zero)
  else if p.partBytes part ≤ 8 * word then p
  else
    let b := p.band band
    p.setBand band (b.setPart part (blend (ones 64 * 2 ^ (64 * word)) (b.part part) (v * 2 ^ (64 * word))))

/-- The plane that a debugger's number names: 0 the active, 1 the shadow plane. -/
def Ctx.planeId (x : Ctx) (n : Nat) : Nat := if n = 0 then x.activeId else x.shadowId
def Ctx.planeOfId (x : Ctx) (id : Nat) : Plane := if id = 0 then x.plane0 else x.plane1

/-- The registers by number (log 15): s at 0, q at 64, the address next to issue at 72, the pending-branch state in the forms of
ETGT and EDLY at 73 and 74 (R93), control registers at 0x1000, v, k and the accumulator tiles of the window in 64-bit words at
0x10000, 0x20000 and 0x30000, the weight planes at 0x50000; any other number reads zero. -/
def State.debugRead (s : State) (c reg : Nat) : Word :=
  let x := s.ctx c
  if reg < 64 then x.rs reg
  else if reg < 72 then BitVec.ofNat 64 (x.rq (reg - 64)).toNat
  else if reg = 72 then x.pc.zeroExtend 64
  else if reg = 73 then etgtOf x.pend
  else if reg = 74 then (edlyOf x.pend x.annul).zeroExtend 64
  else if reg < 0x1000 then 0#64
  else if reg < 0x10000 then (s.creg c (reg - 0x1000)).getD 0#64
  else if reg < 0x20000 then
    let n := (reg - 0x10000) / 256
    let w := (reg - 0x10000) % 256
    BitVec.ofNat 64 ((x.rv n (w / 32)).toNat / 2 ^ (64 * (w % 32)))
  else if reg < 0x30000 then
    let n := (reg - 0x20000) / 32 % 8
    let w := (reg - 0x20000) % 32
    BitVec.ofNat 64 ((x.rk n (w / 4)).toNat / 2 ^ (64 * (w % 4)))
  else if 0x50000 ≤ reg then
    let r := planeReg reg
    if 2 ≤ r.1 then 0#64 else BitVec.ofNat 64 ((x.planeOfId (x.planeId r.1)).debugRead r.2.1 r.2.2.1 r.2.2.2)
  else
    let r := accReg reg
    if x.accCnt.toNat ≤ r.1 then 0#64
    else BitVec.ofNat 64 ((mgetD (s.tile (tileOf c)).acc (128 * (x.accBase.toNat + r.1) + r.2.1) 0#4096).toNat / 2 ^ (64 * r.2.2))

/-- A debugger's write of the pending-branch state: of the targets, which keep their counts, or of the counts, where ERET would take
them (R93). -/
def Ctx.debugPend (x : Ctx) (reg : Nat) (v : Word) : Ctx :=
  if reg = 73 then { x with pend := pendOf v (edlyOf x.pend x.annul) }
  else
    let e := BitVec.ofNat 8 v.toNat
    if edlyOk e then { x with pend := pendOf (etgtOf x.pend) e, annul := bits e.toNat 6 2 } else x

/-- A debugger's write; s0, q0, k0, the registers that only the device writes and numbers that name none keep their values. -/
def Ctx.debugWrite (x : Ctx) (reg : Nat) (v : Word) : Ctx :=
  if reg < 64 then (if reg = 0 then x else { x with s := mput x.s reg v })
  else if reg < 72 then (if reg = 64 then x else { x with q := setQ x.q (reg - 64) (v.toNat % 2 == 1) })
  else if reg = 72 then { x with pc := BitVec.ofNat 32 v.toNat }
  else if reg = 73 ∨ reg = 74 then x.debugPend reg v
  else if reg < 0x1000 then x
  else if reg < 0x10000 then x.setCr (reg - 0x1000) v.toNat
  else if reg < 0x20000 then
    let n := (reg - 0x10000) / 256
    let w := (reg - 0x10000) % 256
    x.setDst (.v n (w / 32)) (ones 64 * 2 ^ (64 * (w % 32))) (v.toNat * 2 ^ (64 * (w % 32)))
  else
    let n := (reg - 0x20000) / 32 % 8
    let w := (reg - 0x20000) % 32
    if n = 0 then x else x.setDst (.k n (w / 4)) (ones 64 * 2 ^ (64 * (w % 4))) (v.toNat * 2 ^ (64 * (w % 4)))

/-- A debugger's write of a word of a weight plane. -/
def Ctx.debugPlane (x : Ctx) (reg : Nat) (v : Word) : Ctx :=
  let r := planeReg reg
  if 2 ≤ r.1 then x else x.setPlane (x.planeId r.1) ((x.planeOfId (x.planeId r.1)).debugWrite r.2.1 r.2.2.1 r.2.2.2 v.toNat)

/-- A debugger's write of any register of a context: one of an accumulator tile goes to the tile's storage. -/
def State.debugSet (s : State) (c reg : Nat) (v : Word) : State :=
  let x := s.ctx c
  if reg < 0x30000 then s.setCtx c (x.debugWrite reg v)
  else if 0x50000 ≤ reg then s.setCtx c (x.debugPlane reg v)
  else
    let r := accReg reg
    if x.accCnt.toNat ≤ r.1 then s
    else
      let t := s.tile (tileOf c)
      let k := 128 * (x.accBase.toNat + r.1) + r.2.1
      let old := (mgetD t.acc k 0#4096).toNat
      let row := BitVec.ofNat 4096 (blend (ones 64 * 2 ^ (64 * r.2.2)) old (v.toNat * 2 ^ (64 * r.2.2)))
      s.setTile (tileOf c) { t with acc := mput t.acc k row }

/-- R336: registers of a halted context. -/
def execDebugRegisterAccess (ctx : Nat) (write : Bool) (reg : Nat) (v : Word) (s : State) : Res :=
  let x := s.ctx ctx
  .next (if !x.halted || !s.debugged x then s
    else if write then s.debugSet ctx reg v
    else s.tell (.debugValue (s.debugRead ctx reg)))

/-- A halted context runs again; a strict one waits for the next frame boundary (R351). -/
def Ctx.unhalt (x : Ctx) (now : Nat) (once : Bool) : Ctx :=
  { x with halted := false, stepOnce := once, frameFrom := if x.strict then now else x.frameFrom }

/-- R336. -/
def execDebugSingleStep (ctx : Nat) (s : State) : Res :=
  let x := s.ctx ctx
  .next (if x.halted && s.debugged x then s.setCtx ctx (x.unhalt s.cycle true) else s)

/-- R351. -/
def execDebugResume (ctx : Nat) (s : State) : Res :=
  let x := s.ctx ctx
  .next (if x.halted && s.debugged x then s.setCtx ctx (x.unhalt s.cycle false) else s)

/-- R337: a consent whose expiry has passed ends. -/
def execConsentExpiry (tenant tid : Nat) (s : State) : Res :=
  .next (if s.consents.any (fun c => c.tenant == tenant && c.tid == tid && decide (c.expiry < s.cal.mfn)) then
      s.endConsent tenant tid
    else s)

end Sys2Proof.Machine
end

