-- ==== Sys2Proof/Machine/Maintenance.lean ====
section
/-! DEFINITION. Maintenance frames, shedding, spares, rails, CADENCE, token buckets and power states (R16, R17, R190, R191,
R305 to R314, R337, R338). -/

namespace Sys2Proof.Machine

/-! ### The calendar (R305 to R310) -/

/-- R305, R306, R309: the next frame begins, and an announcement whose frame has passed is gone. -/
def execMaintenanceFrameBoundary (s : State) : Res :=
  let c := s.cal
  .next (if s.cycle < c.next then s
    else { s with cal := ⟨c.mfn + 1, s.cycle, if c.ext = some c.mfn then none else c.ext, 0, 0, false, false⟩ })

/-- R306. -/
def execGuardBandStart (s : State) : Res :=
  .next (if s.guarded then { s with cal := { s.cal with guard := true } } else s)

/-- R305. -/
def execMaintenanceSlotStart (s : State) : Res :=
  .next (if Config.slotStart ≤ s.frameCycle then { s with cal := { s.cal with slot := true } } else s)

/-- R309: an extended frame at least 4,096 frames ahead; one announcement at a time. -/
def execExtendedFrameAnnounce (ahead : Nat) (s : State) : Res :=
  .next (if ahead < 4096 || s.cal.ext.isSome then s
    else { s with cal := { s.cal with ext := some (s.cal.mfn + ahead) } }.mapCtxs (fun x => if x.isLive then x.setEvent 1 else x))

/-- A strict context whose frame start waits for the planned boundary (R310). -/
def State.waitsBoundary (s : State) (c : Nat) : Bool :=
  let x := s.ctx c
  x.atBoundary && x.strictNow && x.waitHold == Hold.free && x.awaitsWith (s.nextHeader c)

/-- What a frame start that is held by the slot raises: 0x283, unless a condition that stands before it applies (R51, R310). -/
def State.overrunRaise (s : State) (c : Nat) : Raise :=
  match (s.ctx c).fetch with
  | .bad code ea sl => ⟨code, ea, sl, false⟩
  | .absent _ => ⟨0x284, 0, 10, false⟩
  | .bundle b len => (s.transitFault c b len).getD ⟨0x283, 0, 10, false⟩

/-- A strict context takes the issue slot of its tile on this cycle (R42, R45, R271). -/
def State.takeSlot (s : State) (c : Nat) : State :=
  let s := s.watchTile (tileOf c)
  let t := s.tile (tileOf c)
  { s.setTile (tileOf c) { t with strictTook := some (planeOf c), width := some (s.ctx c).tenant } with issued := tileOf c :: s.issued }

/-- What the planned boundary finds when the slot goes on (R310). -/
def State.overrun (s : State) (c : Nat) : State :=
  let x := s.ctx c
  if !x.isLive then s
  else if !x.strict then s.setCtx c (x.setEvent 4)
  else if !s.waitsBoundary c then s
  else
    let r := s.overrunRaise c
    let s := match x.fetch with
      | .absent n => s.setCtx c (x.needSegment n)
      | _ => s
    (s.takeSlot c).issueFault c r

/-- R310: the slot is lengthened by a multiple of 64 cycles, at most 4,096, and every extension is counted with its length as it is
reported. One reported before the planned boundary takes effect there, with zero further cycles or beside another. -/
def execUnannouncedExtension (cycles : Nat) (s : State) : Res :=
  let c := s.cal
  let total := c.slip + c.slipNext + cycles
  .next (if cycles % 64 ≠ 0 ∨ 4096 < total then s
    else
      let s' := if cycles = 0 then s else s.health' healthExtension cycles
      if s.cycle < c.planned then { s' with cal := { c with slipNext := c.slipNext + cycles } }
      else if total = c.slip then s
      else
        let s' := { s' with cal := { c with slip := total, slipNext := 0 } }
        if s.cycle = c.planned then (s'.ctxs.map (·.1)).foldl State.overrun s' else s')

/-! ### Shedding (R312, R314) -/

/-- Power control gives the unlocked contexts of a class their CADENCE anew (R312). -/
def State.recadence (s : State) : State :=
  s.mapCtxs (fun x =>
    match mfind s.launches x.launch with
    | some l =>
      let v := BitVec.ofNat 5 (s.cadenceOf l)
      if x.isLive && !x.cadlock && x.cadence != v then { x with newCadence := some v } else { x with newCadence := none }
    | none => x)

/-- Some standard context that can be slowed is live. -/
def State.standardLive (s : State) : Bool := s.ctxs.any (fun p => p.2.isLive && p.2.cls == 1 && !p.2.cadlock)

/-- A sweep that finds temperature or power high advances one step; step 4 begins once step 3 can slow no context further. -/
def State.shedMore (s : State) : State :=
  match s.shedStep with
  | 0 => { s with shedStep := 1 }
  | 1 => (s.launches.filter (fun p => p.2.cls == 2)).foldl (fun (s : State) p => s.requestEviction p.1) { s with shedStep := 2 }
  | 2 => { s with shedStep := 3 }
  | 3 => if s.shedStd = 15 || !s.standardLive then { s with shedStep := 4 } else s
  | _ => s

/-- Each sweep raises SHED by 1, of standard contexts in steps 3 and 4 and of interactive ones in step 4. -/
def State.shedRaise (s : State) : State :=
  { s with shedStd := if 3 ≤ s.shedStep then min 15 (s.shedStd + 1) else s.shedStd
           shedInt := if 4 ≤ s.shedStep then min 15 (s.shedInt + 1) else s.shedInt }

/-- One step back: undoing step 3 or 4 sets SHED of its class to 0 in the one sweep, which is the model's choice (log 18). -/
def State.shedLess (s : State) : State :=
  match s.shedStep with
  | 0 => s
  | 3 => { s with shedStep := 2, shedStd := 0 }
  | 4 => { s with shedStep := 3, shedInt := 0 }
  | n + 1 => { s with shedStep := n }

/-- R314, R337: every launch fails with a thermal-trip record, the caches are written back, host copies are back-invalidated and debug
sessions end. A dirty line of the attic leaves as it is written back (R320); the SLC keeps its sectors, clean, with their pins
(R184). -/
def State.trip (s : State) : State :=
  let s := s.killWhere (fun l => l.st.placed') 3
  let s := s.killWhere (fun _ => true) 3
  let s := s.dropLines (fun l => l.st == LineSt.m)
  let s := s.snoop.foldl (fun (s : State) p => s.askBack (p.1, true)) s
  let s := s.consents.foldl (fun (s : State) c => s.endConsent c.tenant c.tid) s
  { s with slc := s.slc.map (fun p => (p.1, { p.2 with dirty := false })), tripped := true }

/-- Rail levels in millivolts (R311), sampled at a sweep (R339). -/
def railMv (level : Nat) : Nat := match level with | 0 => 0 | 1 => 600 | 2 => 660 | _ => 720

def State.sampleRails (s : State) : State :=
  (s.tiles.map (·.1)).foldl (fun (s : State) t =>
    (List.range 4).foldl (fun (s : State) b =>
      (List.range 4).foldl (fun (s : State) p => s.sample (144 * p + t) 4 (railMv (mgetD s.rails (4 * (t % 12) + b) ⟨0, []⟩).level)) s) s) s

/-- R314: a sweep in the slot of every sixteenth frame, with the hottest junction and the power averaged over 16 frames. -/
def execSensorSweep (junction watts : Nat) (s : State) : Res :=
  .next (if s.cal.mfn % 16 ≠ 0 || !s.cal.slot || s.power != Power.d0 then s
    else
      let s := s.sampleRails
      if Config.threshold 4 ≤ junction then s.trip
      else if Config.threshold 1 ≤ junction ∨ 700 < watts then { s.shedMore with calm := 0 }.shedRaise.recadence
      else if junction + 5 < Config.threshold 1 ∧ watts < 680 then
        (if s.calm + 1 = 4 then { s.shedLess with calm := 0 } else { s with calm := s.calm + 1 }).shedRaise.recadence
      else { s with calm := 0 }.shedRaise.recadence)

/-- R312: the new CADENCE takes effect at a boundary and sets CAD. -/
def execCadenceChange (ctx : Nat) (s : State) : Res :=
  let x := s.ctx ctx
  .next (match x.newCadence with
    | none => s
    | some v =>
      if !x.isLive then s
      else (s.setCtx ctx { x.setEvent 2 with cadence := v, newCadence := none }).sample ctx 3 v.toNat)

/-- R307: a rail that rises has settled on the next level. -/
def execRailSettled (rail : Nat) (s : State) : Res :=
  .next (match mfind s.rails rail with
    | some ⟨_, (level, _) :: rest⟩ => { s with rails := mput s.rails rail ⟨level, rest⟩ }
    | _ => s)

/-! ### Spares (R16, R17, R338) -/

/-- A scratchpad row whose data is lost takes free values. -/
def State.loseRow (s : State) (t bank row : Nat) : State :=
  let a := 4096 * row + 64 * bank
  let tl := s.tile t
  let sp := (List.range 64).foldl (fun m i => mwrite m (a + i) (Config.freeByte (s.free + i))) tl.sp
  { s.setTile t { tl with sp := sp, bad := tl.bad.filter (fun w => !decide (a ≤ 8 * w ∧ 8 * w < a + 64)) } with free := s.free + 64 }

/-- A tile is retired: the row's spare serves it, or its logical tile becomes unavailable. A spare column that fails while it is
not in use serves no tile later. -/
def State.retire (s : State) (row col : Nat) : State :=
  let k := mgetD s.cskip row 12
  let dead := s.spares.colDead.contains row
  if col = k then (if k = 12 ∧ !dead then { s with spares := { s.spares with colDead := s.spares.colDead ++ [row] } } else s)
  else if k = 12 ∧ !dead then { s with cskip := mput s.cskip row col }
  else
    let t := 12 * row + (if col < k then col else col - 1)
    { s with unavailable := if s.unavailable.contains t then s.unavailable else s.unavailable ++ [t] }.health' healthSparesOut t

/-- The roles after a core has failed its self-check: its role moves to the spare, and a spare that fails serves no core later. None
where the core has failed before, or where no spare is left (R27, R338). -/
def Spares.moveCore (u : Spares) (n : Nat) : Option (List CoreRole) :=
  match u.cores[n]? with
  | none | some .failed => none
  | some .spare => some (u.cores.set n .failed)
  | some r => (u.cores.findIdx? (· == CoreRole.spare)).map (fun i => (u.cores.set i r).set n .failed)

/-- R338: in a slot, with a health record. A spare that is used up is not brought in: two rows a bank, one bank a tile, one DQ
lane for each of the 64 sub-channels, one core beside the eight that are active, which takes the role of the one that fails and
its queues with it (R23, R27). -/
def execSpareBringIn (sp : Spare) (s : State) : Res :=
  let u := s.spares
  .next (if !s.cal.slot then s
    else
      match sp with
      | .tile row col => if row < 12 ∧ col < 13 then (s.retire row col).health' healthSpare (16 * row + col) else s
      | .bankRow t bank row =>
        let k := 64 * t + bank
        if t < 144 ∧ bank < 64 ∧ row < 768 ∧ mgetD u.rows k 0 < 2 then
          { s.loseRow t bank row with spares := { u with rows := mput u.rows k (mgetD u.rows k 0 + 1) } }.health' healthSpare t
        else s
      | .bank t bank =>
        if t < 144 ∧ bank < 64 ∧ !u.banks.contains t then
          { (List.range 768).foldl (fun (s : State) r => s.loseRow t bank r) s with spares := { u with banks := u.banks ++ [t] } }.health'
            healthSpare t
        else s
      | .dqLane n =>
        if n < 64 ∧ !u.lanes.contains n then { s with spares := { u with lanes := u.lanes ++ [n] } }.health' healthSpare n else s
      | .core n =>
        match u.moveCore n with
        | some cores => { s with spares := { u with cores := cores } }.health' healthSpare n
        | none => s)

/-! ### Bandwidth shares (R190, R191) -/

/-- Tokens, depth and rate of a bucket, and tokens and depth of a pool; what is not listed stands at its reset value (log 3). -/
def State.bucket (s : State) (k : Nat) : Int := mgetD s.tokens k Config.bucketDepth
def State.bucketTop (s : State) (k : Nat) : Nat := mgetD s.depth k Config.bucketDepth
def State.bucketRate (s : State) (k : Nat) : Nat := mgetD s.rate k Config.refillRate
def State.poolOf (s : State) (slice : Nat) : Nat := mgetD s.pool slice Config.poolDepth
def State.poolTop (s : State) (slice : Nat) : Nat := mgetD s.poolDepth slice Config.poolDepth

/-- Tokens that a bucket gets on a cycle: those of 1,024 cycles are spread evenly (log 3). -/
def tokensOn (rate cycle : Nat) : Nat := (cycle + 1) * rate / 1024 - cycle * rate / 1024

/-- Slices with room for a token in a bucket or in the pool. -/
def State.shortSlices (s : State) : List Nat :=
  let buckets := s.tokens.filter (fun (p : Nat × Int) => decide (p.2 < (s.bucketTop p.1 : Int)))
  let pools := s.pool.filter (fun p => decide (p.2 < s.poolTop p.1))
  let slices := buckets.map (fun p => p.1 / 12)
  (slices ++ pools.map (fun p => p.1)).eraseDups

/-- The tokens that the buckets of those slices get on a cycle: one token is one refill. -/
def State.owed (s : State) (cycle : Nat) : List (Nat × Nat) :=
  s.shortSlices.flatMap (fun sl => (List.range 12).flatMap (fun b =>
    List.replicate (tokensOn (s.bucketRate (12 * sl + b)) cycle) (sl, b)))

/-- R190: a token that is owed enters its bucket, or the pool when the bucket is full, or is lost. -/
def execTokenRefill (slice bucket : Nat) (s : State) : Res :=
  let k := 12 * slice + bucket
  .next (if !s.refills.contains (slice, bucket) then s
    else
      let s := { s with refills := s.refills.erase (slice, bucket) }
      if s.bucket k < s.bucketTop k then { s with tokens := mput s.tokens k (s.bucket k + 1) }
      else if s.poolOf slice < s.poolTop slice then { s with pool := mput s.pool slice (s.poolOf slice + 1) }
      else s)

/-- A launch is being evicted. -/
def State.evictingLaunch (s : State) (n : Nat) : Bool :=
  match mfind s.launches n with
  | some l => (match l.st with
    | .evicting _ => true
    | _ => false)
  | none => false

/-- A request may be sent now. One with a sector that the SLC does not hold is a request to device memory, which waits from the
guard band to the end of the slot, a cellar record's like any other (R306). -/
def State.mayGo (s : State) (q : PortReq) : Bool := !s.guarded || q.secs.all (fun u => (mfind s.slc u).isSome)

/-- The request of a ticket that waits at a slice and may be sent. -/
def State.at' (s : State) (k : Ticket) (slice : Nat) : Option PortReq := k.reqs.find? (fun q => q.slice == slice && s.mayGo q)

/-- The oldest ticket of a plane and a class that waits at a slice, with its request. -/
def State.waiting (s : State) (slice plane cls : Nat) : Option (Ticket × PortReq) :=
  s.tickets.findSome? (fun k => if planeOf k.ctx = plane ∧ k.cls = cls then (s.at' k slice).map (fun q => (k, q)) else none)

/-- A request can take its tokens: an interactive one always, another one when bucket and pool hold them all. That a request of two
sectors waits while they hold one token is the model's reading (log 66). -/
def State.canPay (s : State) (slice plane cls sectors : Nat) : Bool :=
  cls == 0 || decide (sectors ≤ (s.bucket (12 * slice + 3 * plane + cls)).toNat + s.poolOf slice)

/-- The planes in rotation after the one that a class was last admitted from. -/
def State.portPlanes (s : State) (slice cls : Nat) : List Nat :=
  let p := mgetD s.portTurn (3 * slice + cls) 3
  (List.range 4).map (fun i => (p + 1 + i) % 4)

/-- The request that a port admits on this cycle: plane, class, sectors (R191). -/
def State.portChoice (s : State) (slice : Nat) : Option (Nat × Nat × Nat) :=
  if s.portUsed.contains slice then none
  else
    (List.range 3).findSome? (fun cls => (s.portPlanes slice cls).findSome? (fun p =>
      match s.waiting slice p cls with
      | some (_, q) => if s.canPay slice p cls q.secs.length then some (p, cls, q.secs.length) else none
      | none => none))

/-- One token of an interactive request: bucket, pool, debt, or the excess beyond the floor, which its tenant's DEBT counts. -/
def State.payInteractive (s : State) (slice plane fn : Nat) : State :=
  let k := 12 * slice + 3 * plane
  let t := s.bucket k
  if 0 < t then { s with tokens := mput s.tokens k (t - 1) }
  else if 0 < s.poolOf slice then { s with pool := mput s.pool slice (s.poolOf slice - 1) }
  else if -4096 < t then { s with tokens := mput s.tokens k (t - 1) }
  else s.count fn ctrDebt 32 1

/-- One token of a standard or background request, from the bucket before the pool. -/
def State.payToken (s : State) (slice k : Nat) : State :=
  let t := s.bucket k
  if 0 < t then { s with tokens := mput s.tokens k (t - 1) } else { s with pool := mput s.pool slice (s.poolOf slice - 1) }

/-- A request pays a token for each sector. -/
def State.payRequest (s : State) (slice plane cls sectors fn : Nat) : State :=
  (List.range sectors).foldl (fun (s : State) _ =>
    if cls = 0 then s.payInteractive slice plane fn else s.payToken slice (12 * slice + 3 * plane + cls)) s

/-- The tenant of a ticket: of a hint the one that issued it, whatever task its context holds by now (R301, log 16). -/
def State.payer (s : State) (k : Ticket) : Nat :=
  match s.hints.find? (fun h => h.ctx == k.ctx && some h.seq == k.seq) with
  | some h => h.fn
  | none => (s.ctx k.ctx).tenant

/-- R191: the port of a slice admits the request whose turn it is; one a cycle. A hint's sectors are then filled, pinned or released
(R185). -/
def execSlcRequestAdmit (slice plane cls sectors : Nat) (s : State) : Res :=
  .next (if s.portChoice slice ≠ some (plane, cls, sectors) then s
    else
      match s.waiting slice plane cls with
      | none => s
      | some (k, r) =>
        { s.payRequest slice plane cls r.secs.length (s.payer k) with
          tickets := s.tickets.map (fun q => if q = k then { q with reqs := q.reqs.erase r } else q)
          portUsed := slice :: s.portUsed, portTurn := mput s.portTurn (3 * slice + cls) plane }.hintAdmit k.ctx k.seq r.secs)

/-! ### Power (R337) -/

/-- R337: with no live task, no host copy left and no transfer under way, caches are written back and gated; tile state is
lost, lines asked for are not taken, and debug sessions end. Host copies are called back first. -/
def execD3hotEntry (s : State) : Res :=
  .next (if s.power != Power.d0 || s.launches.any (fun p => p.2.st.placed') || !s.liveCtxs.isEmpty then s
    else if !s.snoop.isEmpty then s.snoop.foldl (fun (s : State) p => s.askBack (p.1, true)) s
    else
      let s := s.dropLines (fun _ => true)
      { s with slc := [], tiles := [], ctxs := [], consents := [], tickets := [], hints := [], atticReq := [], hostReads := [], power := .d3hot })

/-- R337. -/
def execD3hotExit (s : State) : Res := .next (if s.power = .d3hot then { s with power := .d0 } else s)

/-- What outlives power: host memory, what was sent to the host, the sparing map, and the model's own fields. -/
def State.afterPower (s : State) (p : Power) : State :=
  { State.reset with
    cycle := s.cycle, cal := { Calendar.reset with start := s.cycle }, hostMem := s.hostMem, hostOut := s.hostOut
    cskip := s.cskip, spares := s.spares, unavailable := s.unavailable, agenda := s.agenda, inputs := s.inputs
    free := s.free, power := p }

/-- R337: D3cold or power loss. Keys, device memory and every other state of the part are lost. -/
def execPowerLoss (s : State) : Res := .next (s.afterPower .off)

/-- R305, R332: power returns, and the part is as it stands after reset. -/
def execReset (s : State) : Res := .next (if s.power = .off then s.afterPower .d0 else s)

end Sys2Proof.Machine
end

