-- ==== Sys2Proof/Machine/Tick.lean ====
section
/-! DEFINITION. The end of a cycle: what counts cycles counts (R45, R290, R301, R313, R315, R339), domains that have become
whole are noted (R63, R66), and the matrix reads of the next cycle are taken (R196, R242). -/

namespace Sys2Proof.Machine

/-! ### Contexts -/

/-- The context pauses: from the cycle after its PAUSE on (R411). -/
def Ctx.pausing (x : Ctx) (now : Nat) : Bool := x.pauseTo.isSome && decide (x.frameFrom < now)

/-- The drain counter counts this cycle (R290, R323, R411). -/
def State.countsDrain (s : State) (c : Nat) (x : Ctx) : Bool :=
  let holds := (s.tile (tileOf c)).holder == some (planeOf c)
  !x.pausing s.cycle
    && (match x.wait with
      | .transit _ => x.waitOver
      | _ => true)
    && (x.strict || holds || s.status c == Status.blocked)

/-- The drain counter after this cycle; it is zero at a usable drain point (R290). -/
def State.drainAfter (s : State) (c : Nat) (x : Ctx) : Nat :=
  if x.drained && x.drainBoundary then 0 else if s.countsDrain c x then x.drainCount + 1 else x.drainCount

/-- The watchdog counts reference ticks without a retired bundle (R315). A tick is 14 cycles (R8); that ticks end with the cycles
13, 27 and so on of the device is the model's choice (log 64). -/
def Ctx.watchdogAfter (x : Ctx) (now : Nat) : Nat :=
  if (now + 1) % Config.tickCycles = 0 && !x.pausing now && !x.halted then x.watchdog + 1 else x.watchdog

/-- An arrival in force notes the members of its domain, and the cycle on which one of them has left (R66). -/
def State.arrivalAfter (s : State) (c : Nat) (a : Arrival) : Arrival :=
  let ms := s.domainOf c a.dmr a.level
  { a with members := ms, left := if a.members.all ms.contains then a.left else s.cycle }

/-- One context at the end of the cycle. -/
def State.tickCtx (s : State) (c : Nat) (x : Ctx) : Ctx :=
  if !x.isLive then x
  else
    let wait := match x.wait with
      | .hold a => .hold (s.arrivalAfter c a)
      | w => w
    { x with wait := wait, drainCount := s.drainAfter c x, watchdog := x.watchdogAfter s.cycle }

/-- A block that has ended with its task is sampled: up to this cycle where the bundles of the tile had found the context blocked
(R339). -/
def State.sampleBlocks (s : State) : State :=
  (s.ctxs.filter (fun p => p.2.blockedFrom.isSome && !p.2.isLive)).foldl (fun (s : State) p =>
    let now := if s.issued.contains (tileOf p.1) then s.cycle + 1 else s.cycle
    s.endBlock p.1 (now - p.2.blockedFrom.getD now)) s

/-! ### Tiles -/

/-- A holder whose task has ended leaves the issue width; the rotation goes on from its plane (R43, R44). -/
def State.leaveWidth (s : State) (t : Nat) (x : Tile) : Tile :=
  match x.holder with
  | some n => if (s.ctx (144 * n + t)).isLive then x
    else { x with holder := none, lastPlane := some n, quantum := 0, expired := false, yielded := false }
  | none => x

/-- One tile at the end of the cycle: the quantum runs but for cycles that a strict bundle takes, and starts anew after a
pause of the holder; old reservations go (R45, R244, R263, R411). -/
def State.tickTile (s : State) (t : Nat) (x : Tile) : Tile :=
  let x := s.leaveWidth t x
  let pauses := match x.holder with
    | some n => (s.ctx (144 * n + t)).pausing s.cycle
    | none => false
  { x with quantum := if pauses then 0 else if x.holder.isSome && x.strictTook.isNone then x.quantum + 1 else x.quantum
           expired := x.expired && !pauses
           strictTook := none
           width := none
           resv := x.resv.filter (fun r => decide (s.cycle < r.2))
           accRead := x.accRead.filter (fun r => decide (s.cycle + 1 < r.2)) }

/-- ISSUE of the tenants that hold the width on this cycle (R301). -/
def State.countIssue (s : State) : State :=
  s.tiles.foldl (fun (s : State) p => match p.2.width with
    | some f => s.count f ctrIssue 64 1
    | none => s) s

/-! ### Energy (R313) -/

/-- ENERGY counts whole µJ in 64 bits and saturates (R301); `n` and the part below 1 µJ are in 2^-20 µJ (log 16). -/
def State.countEnergy (s : State) (fn n : Nat) : State :=
  let part := mgetD (s.tenant fn).counters ctrEnergyPart 0 + n
  let s := s.count fn ctrEnergy 64 (part / 2 ^ 20)
  let t := s.tenant fn
  s.setTenant fn { t with counters := mput t.counters ctrEnergyPart (part % 2 ^ 20) }

/-- Energy of one operation of a band: the tenant pays at its own vote, the PF what a higher rail adds (R313). -/
def State.payBand (s : State) (c : Nat) (l : Launch) (b : Nat) : State :=
  let own := Config.bandEnergy (l.vote b)
  let rail := Config.bandEnergy (mgetD s.rails (4 * (tileOf c % 12) + b) ⟨0, []⟩).level
  (s.countEnergy l.fn own).countEnergy 0 (rail - own)

/-- The bands of every matrix operation that takes in a row or a step on this cycle. -/
def State.payEnergy (s : State) : State :=
  (s.ctxs.filter (fun p => !p.2.matOps.isEmpty)).foldl (fun (s : State) p =>
    match mfind s.launches p.2.launch with
    | none => s
    | some l =>
      p.2.matOps.foldl (fun (s : State) op =>
        if op.streams s.cycle then op.bands.foldl (fun (s : State) b => s.payBand p.1 l b) s else s) s) s

/-! ### What comes from outside (log 53) -/

/-- Health record of a corrected error (R173, R181, R338). -/
def healthCorrected : Nat := 7

/-- A function reads a monitor unit: the PF any, a tenant those of a plane that it owns on the tile (R339). -/
def State.readUnit (s : State) (fn t u : Nat) : State :=
  match (s.tile t).monitors[u]? with
  | none => s
  | some m =>
    let mine := match m.on with
      | some (p, _) => (s.ctx (144 * p + t)).isLive && (s.ctx (144 * p + t)).tenant == fn
      | none => false
    if fn = 0 || mine then s.tell (.monitorValue fn t u m.min m.max m.bins) else s

/-- One input takes its effect. -/
def State.input (s : State) : Input → State
  | .hostStore a n v => (List.range n).foldl (fun (s : State) i => s.hostSet (a + i) (BitVec.ofNat 8 (v / 2 ^ (8 * i)))) s
  | .spError t w fatal =>
    if 144 ≤ t ∨ Config.spBytes ≤ 8 * w then s
    else if fatal then s.setTile t { s.tile t with bad := withMember (s.tile t).bad w }
    else s.health' healthCorrected t
  | .devError sec fatal =>
    if Config.devBytes ≤ 64 * sec then s
    else if fatal then { s with poison := withMember s.poison sec }
    else s.health' healthCorrected sec
  | .readMonitor fn t u => s.readUnit fn t u
  | .readCounter fn n => if n ≤ ctrEnergy then s.tell (.counterValue 0 fn n (mgetD (s.tenant fn).counters n 0)) else s
  | .readFwstatus => s.tell (.fwstatusValue s.fwstatus)
  | .readHealth i => s.tell (.healthValue i s.health[i]?)

/-- The inputs of this cycle. -/
def State.takeInputs (s : State) : State :=
  (s.inputs.filter (fun p => decide (p.1 ≤ s.cycle))).foldl (fun (s : State) p => s.input p.2)
    { s with inputs := s.inputs.filter (fun p => decide (s.cycle < p.1)) }

/-! ### Requests (R190, R191, R319) -/

/-- The launch of a context waits for L. -/
def State.waitsForL (s : State) (c : Nat) : Bool :=
  match mfind s.launches (s.ctx c).launch with
  | some l => (match l.st with
    | .placed _ | .resuming _ => true
    | _ => false)
  | none => false

/-- The record, the hint, the overlay copy, the code at L or the cellar record that a ticket belongs to is still there. -/
def State.ticketLive (s : State) (k : Ticket) : Bool :=
  let x := s.ctx k.ctx
  match k.seq with
  | none => s.waitsForL k.ctx || s.evictingLaunch x.launch
  | some n => (match x.ovCopy with
      | some cp => cp.seq == n
      | none => false)
    || s.hints.any (fun h => h.ctx == k.ctx && h.seq == n) || x.recs.any (fun r => r.seq == n) || x.cells.any (fun r => r.seq == n) || x.drains.any (fun r => r.seq == n)
    || x.gathers.any (fun g => g.seq == n && g.results.isNone)

/-- Requests whose record is gone leave the ports, and the ports are free again. -/
def State.tickPorts (s : State) : State := { s with tickets := s.tickets.filter s.ticketLive, portUsed := [] }

/-- Sectors that the host has not given back in time are given up, once every record that waits for one has failed, and host reads that
wait for an entry of the filter are tried again (R319). -/
def State.tickLate (s : State) : State :=
  ((s.backInv.filter (fun p => s.late p.2.since)).foldl (fun (s : State) p => s.loseSector p.1) s).serveReads

/-! ### The cycle -/

/-- The first word with an uncorrectable error that a matrix operation reads on a cycle (R173). -/
def MatOp.meetsBad (op : MatOp) (bad : List Nat) (now : Nat) : Option Nat :=
  if bad.isEmpty || op.bad then none
  else
    match op.reads now with
    | none => none
    | some r => bad.find? (fun w => (r.codes ++ r.extra ++ r.routes).any (fun q => decide (q.1 < 8 * w + 8 ∧ 8 * w < q.1 + q.2)))

/-- The matrix operations of a context take the bytes that they read on a cycle; an uncorrectable error is met once by an
operation and is an engine fault (R173, log 60). -/
def Ctx.takeReads (x : Ctx) (t : Tile) (now : Nat) : Ctx :=
  let met := x.matOps.filterMap (fun op => (op.meetsBad t.bad now).map (fun w => (w, op.post)))
  let ops := x.matOps.map (fun op => { op.take t.sp now with bad := op.bad || (op.meetsBad t.bad now).isSome })
  met.foldl (fun (x : Ctx) p => x.addFault 0x103 (spEaddr (8 * p.1 : Nat)) p.2 none (2 ^ 64) 0) { x with matOps := ops }

/-- The matrix engine takes the bytes it reads on this cycle, before any bundle of the cycle. -/
def State.takeReads (s : State) : State :=
  { s with ctxs := s.ctxs.map (fun p =>
      if p.2.matOps.isEmpty then p else (p.1, p.2.takeReads (s.tile (tileOf p.1)) s.cycle)) }

/-- What counts the cycle that ends. -/
def State.count1 (s : State) : State :=
  let s := (s.countIssue.payEnergy).sampleBlocks
  { s with ctxs := s.ctxs.map (fun p => (p.1, s.tickCtx p.1 p.2)), tiles := s.tiles.map (fun p => (p.1, s.tickTile p.1 p.2)) }

/-- What else ends with the cycle: migrations take their pages, ports and late host copies are cleared, inputs arrive. -/
def State.tidy (s : State) : State := (s.markMigrations.tickPorts.tickLate).takeInputs

/-- The next cycle begins, with the tokens that its buckets get. While power is off only time passes. -/
def State.tick (s : State) : State :=
  if s.power = .off then { s with cycle := s.cycle + 1, issued := [] }
  else
    let s' := s.count1.tidy
    { s' with cycle := s'.cycle + 1, issued := [], refills := s'.owed (s'.cycle + 1) }.takeReads

end Sys2Proof.Machine
end

