-- ==== Sys2Proof/Machine/Agenda.lean ====
section
/-! DEFINITION. Which step of the part comes next (log 4). Landings come first, then what the agenda holds for this cycle,
then what is due by the clock, then what is due at a boundary (R277 orders those of one context), then the bundles of the
cycle, then engines, front end and launch units at their own pace, and last the end of the cycle. What the agenda holds for an
engine waits for the bundles of the cycle (R195). -/

namespace Sys2Proof.Machine

/-- The first event that a list of candidates gives. -/
def firstOf {α : Type} (xs : List α) (f : α → Option Instr) : Option Instr := xs.findSome? f

/-! ### Landings (R87, R90, R238) -/

/-- A result of a context is due. -/
def landingOf (now : Nat) (c : Nat) (x : Ctx) : Option Instr :=
  if x.inFlight.any (fun w => decide (w.due ≤ now)) then some (.registerWriteLands c)
  else if (x.dueOp now false).isSome then some (.matrixResultLands c)
  else if (x.dueOp now true).isSome then some (.mldwComplete c)
  else none

def State.landing (s : State) : Option Instr := firstOf s.ctxs (fun p => landingOf s.cycle p.1 p.2)

/-! ### The clock -/

/-- The calendar (R305, R306, R310). -/
def State.calendarDue (s : State) : Option Instr :=
  let c := s.cal
  if s.cycle = c.planned ∧ c.slipNext ≠ 0 then some (.unannouncedExtension 0)
  else if c.next ≤ s.cycle then some .maintenanceFrameBoundary
  else if s.guarded && !c.guard then some .guardBandStart
  else if decide (Config.slotStart ≤ s.frameCycle) && !c.slot then some .maintenanceSlotStart
  else none

/-- A host request of a context that has run out of time (R319, R325). -/
def State.timeoutDue (s : State) (c : Nat) (x : Ctx) : Option Instr :=
  let late := fun (src : EngSrc) (h : Option HostReq) =>
    (match h with
      | some h => s.hostLate h (s.headNeed x src)
      | none => false) || !(s.lateSnoops (s.headNeed x src)).isEmpty
  let one := fun (src : EngSrc) (h : Option HostReq) => if late src h then some (Instr.hostCompletionTimeout c src) else none
  match firstOf (List.finRange 8) (fun ch => match x.headRec ch.val with
    | some r => one (.chan ch) (some r.host)
    | none => none) with
  | some i => some i
  | none =>
    match x.headGather.bind (fun g => one .gather (some g.host)) with
    | some i => some i
    | none =>
      match x.headCell.bind (fun _ => one .cells none) with
      | some i => some i
      | none =>
        match (x.drains.head?).bind (fun d => if d.held then none else one .drains none) with
        | some i => some i
        | none => (x.posted.head?).bind (fun p => if s.late p.sent then some (.hostCompletionTimeout c .posted) else none)

/-- What the clock brings a context. -/
def State.clockOf (s : State) (c : Nat) (x : Ctx) : Option Instr :=
  if x.pauseOver s.cycle then some (.pauseEnd c)
  else if s.releaseDue c then some (.syncRelease c)
  else if x.isLive && decide (x.wdLimit < x.watchdog) then some (.watchdogExpiry c)
  else if x.isLive && x.newCadence.isSome then some (.cadenceChange c)
  else if x.atBoundary && decide (x.limit.toNat < x.drainCount) then some (.drainLimitExceeded c)
  else s.timeoutDue c x

/-- A need sends a request that is not out yet. -/
def State.asks (s : State) (nd : Need) : Bool :=
  nd.snoops.any (fun p => match mfind s.backInv p.1 with
    | some b => p.2 && !b.invalidate
    | none => true)
  || nd.lines.any (fun p => match mfind s.atticReq p.1 with
    | some q => p.2 && !q.own
    | none => true)

/-- A step that reads ranges of device memory goes on, or asks for them (R319). -/
def State.homeMoves (s : State) (rs : List (Nat × Nat)) : Bool := s.isHome rs || s.asks (s.homeNeed rs)

/-- A record of a context can perform, or sends a request: to the host, for a line, or to the ports of the SLC. -/
def State.moves (s : State) (c : Nat) (seq : Option Nat) (nd : Need) (answered sent : Bool) : Bool :=
  nd.fault.isSome || (!nd.holds answered && s.admitted c seq nd) || s.asks nd
    || (!nd.touches.isEmpty && (s.ticketOf c seq).isNone) || ((nd.answer || !nd.lines.isEmpty) && !sent)

/-- A launch that waits for L starts, is refused, or asks for its code. -/
def State.atLMoves (s : State) (l : Launch) (nd : Need) (away : Bool) : Bool :=
  nd.fault.isSome || away || (!s.codeInTransit l && s.moves l.firstCtx none nd true true)

/-- What the clock brings a launch. -/
def State.clockLaunch (s : State) (n : Nat) (l : Launch) : Option Instr :=
  match l.st with
  | .placed a => if s.isL l a && s.atLMoves l (s.startNeed l) (s.imagesAway n l).isSome then some (.launchStart n l.plane l.y0 l.x0) else none
  | .resuming a => if s.isL l a && s.atLMoves l (s.resumeNeed l) (s.recordsAway n l).isSome then some (.resume n l.plane l.y0 l.x0) else none
  | _ => none

/-- A token that is due, or a request that a port admits (R190, R191). -/
def State.portStep (s : State) : Option Instr :=
  match s.refills with
  | (sl, b) :: _ => some (.tokenRefill sl b)
  | [] => firstOf (s.tickets.flatMap (·.reqs)) (fun r =>
    (s.portChoice r.slice).map (fun q => .slcRequestAdmit r.slice q.1 q.2.1 q.2.2))

/-- What is due by the clock. -/
def State.clock (s : State) : Option Instr :=
  match s.calendarDue with
  | some i => some i
  | none =>
    match firstOf s.rails (fun p => match p.2.rising with
      | g :: _ => if g.2 ≤ s.cycle then some (.railSettled p.1) else none
      | [] => none) with
    | some i => some i
    | none =>
      match firstOf s.tiles (fun p =>
        if p.2.holder.isSome && decide (Config.quantum ≤ p.2.quantum) && !p.2.expired then some (.quantumExpiry p.1) else none) with
      | some i => some i
      | none =>
        match firstOf s.launches (fun p => s.clockLaunch p.1 p.2) with
        | some i => some i
        | none =>
          match firstOf s.ctxs (fun p => s.clockOf p.1 p.2) with
          | some i => some i
          | none =>
            match s.portStep with
            | some i => some i
            | none =>
              match s.activation with
              | .restarting t => if t + 70000000 ≤ s.cycle then some .firmwareRestart else none
              | _ =>
                firstOf s.consents (fun c => if c.expiry < s.cal.mfn then some (.consentExpiry c.tenant c.tid) else none)

/-! ### Boundaries (R277) -/

/-- What is due at a boundary of a context. -/
def State.boundaryOf (s : State) (c : Nat) (x : Ctx) : Option Instr :=
  if s.stopDue c then some (.launchFailureStop c)
  else if x.isLive && x.rollback.isSome && x.quiet then some (.rollback c)
  else if x.engineFaultDue then some (.engineFaultDelivery c)
  else if s.stopPoint c && s.homeMoves x.mapTable then some (.evictionStop c)
  else if x.eventDue then some (.eventTaken c)
  else if x.endReady || (!x.isLive && s.launchDone x.launch) then some (.taskEnd c)
  else none

/-- An eviction whose tiles have all written their records. -/
def State.evictionDone (s : State) (n : Nat) (l : Launch) : Option Instr :=
  match l.st with
  | .evicting _ =>
    if !s.someLive n l && s.someEvicted n l && !l.failing && !s.recordsPend l && s.recordsIn l then some (.evictionComplete n) else none
  | _ => none

def State.boundary (s : State) : Option Instr :=
  match firstOf s.ctxs (fun p => s.boundaryOf p.1 p.2) with
  | some i => some i
  | none => firstOf s.launches (fun p => s.evictionDone p.1 p.2)

/-! ### Bundles (R42) -/

/-- A tile with a live context whose issue slot of this cycle is not used. -/
def State.nextTile (s : State) : Option Instr :=
  firstOf s.liveCtxs (fun c => if s.issued.contains (tileOf c) then none else some (.bundleIssue (tileOf c)))

/-! ### Engines at their own pace -/

/-- The same for a record of a channel. -/
def State.recMoves (s : State) (c : Nat) (r : CopyRec) (nd : Need) : Bool :=
  s.moves c (some r.seq) nd r.host.isAnswered (r.host != HostReq.idle)

/-- An AMOG: at a home, sent to the host, or through the attic (R324, R325). -/
def State.amogMoves (s : State) (c : Nat) (x : Ctx) (r : CopyRec) : Bool :=
  match x.pageOf r.dst with
  | none => true
  | some e =>
    if entRoute e ≠ 1 then s.recMoves c r (s.rangeNeed x true true r.dst r.width)
    else
      match r.host with
      | .waiting _ | .answered _ => false
      | .attic _ => s.recMoves c r (s.lineNeed true r.dst (entPhys e r.dst / 64))
      | .idle | .old _ => true

/-- The next step of a copy channel. -/
def State.chanStep (s : State) (c : Nat) (x : Ctx) (ch : Chan) : Option Instr :=
  match x.headRec ch.val with
  | none => none
  | some r =>
    let free := !s.recBlocked c x r
    if r.kind = 6 then (if free && s.amogMoves c x r then some (.hostAtomicPerform c ch) else none)
    else if r.kind = 4 then
      (if free && (r.dloc != Loc.virt || s.recMoves c r (s.rangeNeed x true true r.dst r.width)) then some (.remoteAtomicPerform c ch)
       else none)
    else if r.bad.isSome || (free && s.recMoves c r (s.planNeed x r)) then some (.copyRecordPerform c ch 0)
    else none

def State.cellStep (s : State) (c : Nat) (x : Ctx) : Option Instr :=
  match x.headCell with
  | none => none
  | some r =>
    let nd := s.headNeed x .cells
    if nd.fault.isNone && (s.cellBlocked c x r || !s.moves c (some r.seq) nd false true) then none
    else some (match r.op with
      | .ladd _ => .cellAddPerform c
      | .linit _ _ => .cellInitPerform c
      | .lraw _ _ _ => .lrawPerform c)

def State.drainStep (s : State) (c : Nat) (x : Ctx) : Option Instr :=
  match x.drains with
  | [] => none
  | d :: _ =>
    if s.drainBlocked c x d || !s.moves c (some d.seq) (s.headNeed x .drains) false true then none else some (.drainPushPerform c)

def State.gatherStep (s : State) (c : Nat) (x : Ctx) : Option Instr :=
  match x.headGather with
  | none => none
  | some g =>
    if g.bad.isSome || s.moves c (some g.seq) (s.gatherNeed x g) g.host.isAnswered (g.host != HostReq.idle) then some (.gatherComplete c)
    else none

def State.collStep (s : State) (c : Nat) (x : Ctx) : Option Instr :=
  match x.colls.find? (fun r => r.st == CollState.pending) with
  | none => none
  | some r => if s.collReady c r then some (.collectiveComplete c) else none

/-- The overlay engine goes on unless its page is in transit or its fill waits (R270, R306). -/
def State.overlayStep (s : State) (c : Nat) (x : Ctx) : Option Instr :=
  match x.ovCopy with
  | none => none
  | some cp =>
    let im := x.segImage (cp.seg + 1)
    let go := !cp.clear || s.moves c (some cp.seq) (s.rangeNeed x true false im.1 im.2) true true
    match pickFault (x.rangeFaults .fetch im.1 im.2 0 1) with
    | some f => if f.code ≠ 0x183 || (cp.clear && go) then some (.segmentResident c) else none
    | none => if go then some (.segmentResident c) else none

/-- The engines of a context. -/
def State.engineOf (s : State) (c : Nat) (x : Ctx) : Option Instr :=
  match firstOf (List.finRange 8) (s.chanStep c x) with
  | some i => some i
  | none =>
    firstOf [s.cellStep c x, s.drainStep c x, s.gatherStep c x, s.collStep c x, s.overlayStep c x] id

/-! ### Front end and launch units at their own pace -/

/-- The step of the packet at the head of a queue, unless it waits. -/
def State.packetStep (s : State) (fn q : Nat) : Option Instr :=
  match s.packet fn q with
  | none =>
    match s.headAt fn q with
    | some a => if !s.isHome [(a, 64)] && s.homeMoves [(a, 64)] then some (.nop fn q) else none
    | none => none
  | some p =>
    if (s.headerBad fn q p).isSome then some (.nop fn q)
    else if !s.homeMoves [(p.at', 64 * p.len)] then none
    else
      match p.type with
      | 0 => some (.nop fn q)
      | 1 =>
        if s.isHome [(p.at', 64 * p.len)] && !s.launchFieldBad fn p && s.heldLaunch fn (s.launchOf fn q p) then none
        else some (.launch fn q)
      | 2 => some (.signal fn q)
      | 3 => if (s.queue fn q).barrier.isSome && s.launchesLeft fn (s.barrierLimit fn q) then none else some (.barrier fn q)
      | 4 =>
        if !s.migrateFieldBad fn p && (s.migrations.any (fun m => m.fn == s.migrateOwner fn p) || !s.homeMoves (s.migrateReads p))
        then none
        else some (.migrate fn q)
      | 5 => some (.evict fn q)
      | 6 => some (.timestamp fn q)
      | _ => some (.release fn q)

/-- The first place of a plane on which a launch fits. -/
def State.placeOn (s : State) (l : Launch) (p : Nat) : Option (Nat × Nat × Nat) :=
  ((List.range 144).find? (fun o => s.canPlace l p (o / 12) (o % 12))).map (fun o => (p, o / 12, o % 12))

def State.findPlace (s : State) (l : Launch) : Option (Nat × Nat × Nat) := (List.range 4).findSome? (s.placeOn l)

/-- A launch that can be placed now, and whose turn it is, is placed on the first place (R297: the choice is firmware's). -/
def State.placeStep (s : State) (n : Nat) (l : Launch) : Option Instr :=
  if l.st != LaunchSt.queued || s.withheld l || !s.homeMoves (s.tables l) then none
  else
    ((List.range 4).findSome? (fun p => (s.placeOn l p).bind (fun q => if s.itsTurn n l p then some q else none))).map
      (fun q => .launchStart n q.1 q.2.1 q.2.2)

/-- An evicted launch resumes when a region of its shape is free (R299). -/
def State.resumeStep (s : State) (n : Nat) (l : Launch) : Option Instr :=
  if l.st != LaunchSt.evicted || s.withheld l || !s.sameSettings l || !s.homeMoves (s.resumeReads l)
      || (l.cls == 2 && s.launches.any (fun p => p.2.cls == 0 && p.2.st == LaunchSt.queued && !s.withheld p.2 && (s.findPlace p.2).isSome))
  then none
  else (s.findPlace { l with planeReq := 0xF }).map (fun p => .resume n p.1 p.2.1 p.2.2)

/-- The part without a launch and its tasks, as firmware weighs an eviction. -/
def State.without (s : State) (n : Nat) (l : Launch) : State :=
  { s with launches := merase s.launches n, ctxs := l.ctxs.foldl merase s.ctxs
           tiles := s.tiles.map (fun p =>
             (p.1, if p.2.owner = some l.plane ∧ p.1 ∈ l.ctxs.map tileOf then { p.2 with owner := none } else p.2)) }

/-- Firmware evicts a background region where that makes room for an interactive launch that waits (R299, log 32). -/
def State.roomStep (s : State) (l : Launch) : Option Instr :=
  if l.cls ≠ 0 || l.st != LaunchSt.queued || s.withheld l || (s.findPlace l).isSome
      || s.launches.any (fun p => match p.2.st with
        | .evicting _ => true
        | _ => false)
  then none
  else
    firstOf s.launches (fun p =>
      if p.2.cls = 2 && p.2.st == LaunchSt.running && !p.2.failing && ((s.without p.1 p.2).findPlace l).isSome then
        some (.evictionRequest p.1)
      else none)

/-- A background region that has to leave, because its function is quiesced or shedding has reached step 2 (R314, R334). -/
def State.leaveStep (s : State) (n : Nat) (l : Launch) : Option Instr :=
  if l.cls = 2 && l.st == LaunchSt.running && !l.failing && (s.quietens l.fn || decide (2 ≤ s.shedStep)) then some (.evictionRequest n)
  else none

/-- A migration goes on (R322). -/
def State.migrateStep (s : State) (m : Migration) : Option Instr :=
  if m.copied then
    (if (s.entryNeed m.entries).snoops.isEmpty || s.asks (s.entryNeed m.entries) then some (.migrationCommit m.fn) else none)
  else if !m.marked || !s.unused m.old m.lsize then none
  else
    let n := pageBytes m.lsize
    let hs := s.hostCopies m.old n ++ s.hostCopies m.new n
    if hs.isEmpty || s.asks { Need.none with snoops := hs.map (fun h => (h, true)) } then some (.migrationCopy m.fn) else none

/-- What the engines, the front end and the launch units do by themselves. -/
def State.background (s : State) : Option Instr :=
  match firstOf s.ctxs (fun p => s.engineOf p.1 p.2) with
  | some i => some i
  | none =>
    match firstOf s.queues (fun p => s.packetStep (p.1 / 4) (p.1 % 4)) with
    | some i => some i
    | none =>
      match firstOf s.launches (fun p => s.placeStep p.1 p.2) with
      | some i => some i
      | none =>
        match firstOf s.migrations s.migrateStep with
        | some i => some i
        | none =>
          match firstOf s.launches (fun p => s.roomStep p.2) with
          | some i => some i
          | none =>
            match firstOf s.launches (fun p => s.leaveStep p.1 p.2) with
            | some i => some i
            | none => firstOf s.launches (fun p => s.resumeStep p.1 p.2)

/-! ### The choice -/

/-- What is due before the engines on this cycle: by the clock, at a boundary, or a bundle. Nothing while power is off. -/
def State.front (s : State) : Option Instr :=
  if s.power = .off then none
  else
    match s.clock with
    | some i => some i
    | none =>
      match s.boundary with
      | some i => some i
      | none => s.nextTile

/-- What the part does by itself on this cycle. -/
def State.ownStep (s : State) : Option Instr :=
  match s.front with
  | some i => some i
  | none => if s.power = .off then none else s.background

/-- The steps of the engines, whose writes come after the reads of the bundles of their cycle (R195). -/
def isEngineStep : Instr → Bool
  | .copyRecordPerform _ _ _ | .remoteAtomicPerform _ _ | .hostAtomicPerform _ _ | .hostAtomicopCompletion _ _ _
  | .cellAddPerform _ | .cellInitPerform _ | .lrawPerform _ | .gatherComplete _ | .collectiveComplete _ | .drainPushPerform _
  | .segmentResident _ => true
  | _ => false

/-- An entry of the agenda that is due: the step that comes first, and whether it is the entry's own. -/
def State.takeEntry (s : State) (i : Instr) : Option Instr × Bool :=
  match (if isEngineStep i then s.front else none) with
  | some j => (some j, false)
  | none => (if wfStep i then some i else s.ownStep, true)

/-- The next step and the state it acts on: an entry of the agenda that is due leaves it, and one that names no step of
the part is passed over. No step means that the cycle ends. -/
def State.pick (s : State) : Option Instr × State :=
  match s.landing with
  | some i => (some i, s)
  | none =>
    match s.agenda with
    | (t, i) :: rest =>
      if s.cycle < t then (s.ownStep, s)
      else
        let e := s.takeEntry i
        (e.1, if e.2 then { s with agenda := rest } else s)
    | [] => (s.ownStep, s)

end Sys2Proof.Machine
end

