-- ==== Sys2Proof/Machine/Dispatch.lean ====
section
/-! DEFINITION. The dispatcher: one arm for each constructor of the instruction type. -/

namespace Sys2Proof.Machine

/-- The meaning of an instruction: a slot word acts on the bundle in hand, a step on the part. -/
def exec (i : Instr) (s : State) : Host.Outcome State Fault Refusal :=
  match i with
  | .aadd d a b w col => Sys2Proof.Machine.execAadd d a b w col s
  | .amin d a b w u col => Sys2Proof.Machine.execAmin d a b w u col s
  | .amax d a b w u col => Sys2Proof.Machine.execAmax d a b w u col s
  | .aand d a b w col => Sys2Proof.Machine.execAand d a b w col s
  | .aor d a b w col => Sys2Proof.Machine.execAor d a b w col s
  | .axor d a b w col => Sys2Proof.Machine.execAxor d a b w col s
  | .aswap d a b w col => Sys2Proof.Machine.execAswap d a b w col s
  | .acas d a b w col => Sys2Proof.Machine.execAcas d a b w col s
  | .add d a b => Sys2Proof.Machine.execAdd d a b s
  | .addi d a imm => Sys2Proof.Machine.execAddi d a imm s
  | .amog a k op w col ch => Sys2Proof.Machine.execAmog a k op w col ch s
  | .and d a b => Sys2Proof.Machine.execAnd d a b s
  | .andi d a imm => Sys2Proof.Machine.execAndi d a imm s
  | .bkpt => Sys2Proof.Machine.execBkpt s
  | .br q qn disp => Sys2Proof.Machine.execBr q qn disp s
  | .brn q qn disp => Sys2Proof.Machine.execBrn q qn disp s
  | .call disp => Sys2Proof.Machine.execCall disp s
  | .clz d a => Sys2Proof.Machine.execClz d a s
  | .ctz d a => Sys2Proof.Machine.execCtz d a s
  | .cmp d a b c => Sys2Proof.Machine.execCmp d a b c s
  | .coll a col => Sys2Proof.Machine.execColl a col s
  | .cpop v d => Sys2Proof.Machine.execCpop v d s
  | .div d a b u => Sys2Proof.Machine.execDiv d a b u s
  | .drain sc mask => Sys2Proof.Machine.execDrain sc mask s
  | .endTask status => Sys2Proof.Machine.execEndTask status s
  | .eret => Sys2Proof.Machine.execEret s
  | .fence mask => Sys2Proof.Machine.execFence mask s
  | .fexp2 d a t k => Sys2Proof.Machine.execFexp2 d a t k s
  | .flog2 d a t k => Sys2Proof.Machine.execFlog2 d a t k s
  | .frcp d a t k => Sys2Proof.Machine.execFrcp d a t k s
  | .frsq d a t k => Sys2Proof.Machine.execFrsq d a t k s
  | .ftanh d a t k => Sys2Proof.Machine.execFtanh d a t k s
  | .fsig d a t k => Sys2Proof.Machine.execFsig d a t k s
  | .fsin d a t k => Sys2Proof.Machine.execFsin d a t k s
  | .fcos d a t k => Sys2Proof.Machine.execFcos d a t k s
  | .gpop v d => Sys2Proof.Machine.execGpop v d s
  | .gthr v b w => Sys2Proof.Machine.execGthr v b w s
  | .jmp disp => Sys2Proof.Machine.execJmp disp s
  | .jmpr a => Sys2Proof.Machine.execJmpr a s
  | .kand d a b => Sys2Proof.Machine.execKand d a b s
  | .kor d a b => Sys2Proof.Machine.execKor d a b s
  | .kxor d a b => Sys2Proof.Machine.execKxor d a b s
  | .knot d a => Sys2Proof.Machine.execKnot d a s
  | .kpopc d a => Sys2Proof.Machine.execKpopc d a s
  | .kfirst d a => Sys2Proof.Machine.execKfirst d a s
  | .ladd v ix p col => Sys2Proof.Machine.execLadd v ix p col s
  | .ld t d b off => Sys2Proof.Machine.execLd t d b off s
  | .limm p d imm => Sys2Proof.Machine.execLimm p d imm s
  | .linit a n col => Sys2Proof.Machine.execLinit a n col s
  | .loop c1 disp => Sys2Proof.Machine.execLoop c1 disp s
  | .lraw a b n => Sys2Proof.Machine.execLraw a b n s
  | .maccd acc a b clamp quarters => Sys2Proof.Machine.execMaccd acc a b clamp quarters s
  | .min d a b u => Sys2Proof.Machine.execMin d a b u s
  | .max d a b u => Sys2Proof.Machine.execMax d a b u s
  | .mcfg a b => Sys2Proof.Machine.execMcfg a b s
  | .mdrn acc a b clamp quarters => Sys2Proof.Machine.execMdrn acc a b clamp quarters s
  | .mfc d num => Sys2Proof.Machine.execMfc d num s
  | .mtc num a => Sys2Proof.Machine.execMtc num a s
  | .mtcEvent a => Sys2Proof.Machine.execMtcEvent a s
  | .mtcDmr a => Sys2Proof.Machine.execMtcDmr a s
  | .mtcAshape a => Sys2Proof.Machine.execMtcAshape a s
  | .mldw a b bands => Sys2Proof.Machine.execMldw a b bands s
  | .mmul acc a b aip bands => Sys2Proof.Machine.execMmul acc a b aip bands s
  | .mswap => Sys2Proof.Machine.execMswap s
  | .mul d a b => Sys2Proof.Machine.execMul d a b s
  | .mulh d a b u => Sys2Proof.Machine.execMulh d a b u s
  | .mvec acc a b aip bands => Sys2Proof.Machine.execMvec acc a b aip bands s
  | .mzero acc quarters => Sys2Proof.Machine.execMzero acc quarters s
  | .or d a b => Sys2Proof.Machine.execOr d a b s
  | .ori d a imm => Sys2Proof.Machine.execOri d a imm s
  | .pause n => Sys2Proof.Machine.execPause n s
  | .pfh a b kind => Sys2Proof.Machine.execPfh a b kind s
  | .popc d a => Sys2Proof.Machine.execPopc d a s
  | .rem d a b u => Sys2Proof.Machine.execRem d a b u s
  | .ret a => Sys2Proof.Machine.execRet a s
  | .shl d a b => Sys2Proof.Machine.execShl d a b s
  | .shr d a b => Sys2Proof.Machine.execShr d a b s
  | .sra d a b => Sys2Proof.Machine.execSra d a b s
  | .rotl d a b => Sys2Proof.Machine.execRotl d a b s
  | .sel d a b qn q => Sys2Proof.Machine.execSel d a b qn q s
  | .st w d b off col => Sys2Proof.Machine.execSt w d b off col s
  | .sub d a b => Sys2Proof.Machine.execSub d a b s
  | .sync level mask => Sys2Proof.Machine.execSync level mask s
  | .trap n => Sys2Proof.Machine.execTrap n s
  | .vadd d a b t k => Sys2Proof.Machine.execVadd d a b t k s
  | .vsub d a b t k => Sys2Proof.Machine.execVsub d a b t k s
  | .vmul d a b t k => Sys2Proof.Machine.execVmul d a b t k s
  | .vfma d a b t k => Sys2Proof.Machine.execVfma d a b t k s
  | .vmin d a b t k => Sys2Proof.Machine.execVmin d a b t k s
  | .vmax d a b t k => Sys2Proof.Machine.execVmax d a b t k s
  | .vabs d a t k => Sys2Proof.Machine.execVabs d a t k s
  | .vneg d a t k => Sys2Proof.Machine.execVneg d a t k s
  | .vand d a b t k => Sys2Proof.Machine.execVand d a b t k s
  | .vor d a b t k => Sys2Proof.Machine.execVor d a b t k s
  | .vxor d a b t k => Sys2Proof.Machine.execVxor d a b t k s
  | .vshl d a b t k => Sys2Proof.Machine.execVshl d a b t k s
  | .vshr d a b t k => Sys2Proof.Machine.execVshr d a b t k s
  | .vsra d a b t k => Sys2Proof.Machine.execVsra d a b t k s
  | .vsel d a b t k => Sys2Proof.Machine.execVsel d a b t k s
  | .vclamp d a b t k => Sys2Proof.Machine.execVclamp d a b t k s
  | .vdot d a b t k => Sys2Proof.Machine.execVdot d a b t k s
  | .vred d a op t k => Sys2Proof.Machine.execVred d a op t k s
  | .vscan d a op t k => Sys2Proof.Machine.execVscan d a op t k s
  | .vperm d a b t k => Sys2Proof.Machine.execVperm d a b t k s
  | .vsplat d a t k => Sys2Proof.Machine.execVsplat d a t k s
  | .vmov d a t k => Sys2Proof.Machine.execVmov d a t k s
  | .vget d a b t k => Sys2Proof.Machine.execVget d a b t k s
  | .vput d a b t k => Sys2Proof.Machine.execVput d a b t k s
  | .vxch d a dist t k => Sys2Proof.Machine.execVxch d a dist t k s
  | .vcvt m d a iov ts t k => Sys2Proof.Machine.execVcvt m d a iov ts t k s
  | .vqnt m d a kind atype t k => Sys2Proof.Machine.execVqnt m d a kind atype t k s
  | .vdqnt d a kind code t k => Sys2Proof.Machine.execVdqnt d a kind code t k s
  | .vcmp c d a b t k => Sys2Proof.Machine.execVcmp c d a b t k s
  | .vcsq d a b t k => Sys2Proof.Machine.execVcsq d a b t k s
  | .vld d b off => Sys2Proof.Machine.execVld d b off s
  | .vldb d b off => Sys2Proof.Machine.execVldb d b off s
  | .vlds w d b off => Sys2Proof.Machine.execVlds w d b off s
  | .vstK0 d b off col => Sys2Proof.Machine.execVstK0 d b off col s
  | .vstK1 d b off col => Sys2Proof.Machine.execVstK1 d b off col s
  | .vstK2 d b off col => Sys2Proof.Machine.execVstK2 d b off col s
  | .vstK3 d b off col => Sys2Proof.Machine.execVstK3 d b off col s
  | .vsts w d b off col => Sys2Proof.Machine.execVsts w d b off col s
  | .xfer a col ch => Sys2Proof.Machine.execXfer a col ch s
  | .xor d a b => Sys2Proof.Machine.execXor d a b s
  | .xori d a imm => Sys2Proof.Machine.execXori d a imm s
  | .xptr d ch => Sys2Proof.Machine.execXptr d ch s
  | .xwait a ch => Sys2Proof.Machine.execXwait a ch s
  | .yield => Sys2Proof.Machine.execYield s
  | .bundleIssue tile => Sys2Proof.Machine.execBundleIssue tile s
  | .registerWriteLands ctx => Sys2Proof.Machine.execRegisterWriteLands ctx s
  | .matrixResultLands ctx => Sys2Proof.Machine.execMatrixResultLands ctx s
  | .mldwComplete ctx => Sys2Proof.Machine.execMldwComplete ctx s
  | .segmentResident ctx => Sys2Proof.Machine.execSegmentResident ctx s
  | .copyRecordPerform ctx ch n => Sys2Proof.Machine.execCopyRecordPerform ctx ch n s
  | .remoteAtomicPerform ctx ch => Sys2Proof.Machine.execRemoteAtomicPerform ctx ch s
  | .hostAtomicPerform ctx ch => Sys2Proof.Machine.execHostAtomicPerform ctx ch s
  | .cellAddPerform ctx => Sys2Proof.Machine.execCellAddPerform ctx s
  | .cellInitPerform ctx => Sys2Proof.Machine.execCellInitPerform ctx s
  | .lrawPerform ctx => Sys2Proof.Machine.execLrawPerform ctx s
  | .gatherComplete ctx => Sys2Proof.Machine.execGatherComplete ctx s
  | .collectiveComplete ctx => Sys2Proof.Machine.execCollectiveComplete ctx s
  | .drainPushPerform ctx => Sys2Proof.Machine.execDrainPushPerform ctx s
  | .engineFaultDelivery ctx => Sys2Proof.Machine.execEngineFaultDelivery ctx s
  | .eventTaken ctx => Sys2Proof.Machine.execEventTaken ctx s
  | .rollback ctx => Sys2Proof.Machine.execRollback ctx s
  | .syncRelease ctx => Sys2Proof.Machine.execSyncRelease ctx s
  | .quantumExpiry tile => Sys2Proof.Machine.execQuantumExpiry tile s
  | .pauseEnd ctx => Sys2Proof.Machine.execPauseEnd ctx s
  | .watchdogExpiry ctx => Sys2Proof.Machine.execWatchdogExpiry ctx s
  | .drainLimitExceeded ctx => Sys2Proof.Machine.execDrainLimitExceeded ctx s
  | .taskEnd ctx => Sys2Proof.Machine.execTaskEnd ctx s
  | .launchFailureStop ctx => Sys2Proof.Machine.execLaunchFailureStop ctx s
  | .launchStart l plane y0 x0 => Sys2Proof.Machine.execLaunchStart l plane y0 x0 s
  | .evictionRequest l => Sys2Proof.Machine.execEvictionRequest l s
  | .evictionStop ctx => Sys2Proof.Machine.execEvictionStop ctx s
  | .evictionComplete l => Sys2Proof.Machine.execEvictionComplete l s
  | .resume l plane y0 x0 => Sys2Proof.Machine.execResume l plane y0 x0 s
  | .doorbell fn q tail => Sys2Proof.Machine.execDoorbell fn q tail s
  | .qreset fn q => Sys2Proof.Machine.execQreset fn q s
  | .hostRegisterWrite fn reg v => Sys2Proof.Machine.execHostRegisterWrite fn reg v s
  | .nop fn q => Sys2Proof.Machine.execNop fn q s
  | .launch fn q => Sys2Proof.Machine.execLaunch fn q s
  | .signal fn q => Sys2Proof.Machine.execSignal fn q s
  | .barrier fn q => Sys2Proof.Machine.execBarrier fn q s
  | .migrate fn q => Sys2Proof.Machine.execMigrate fn q s
  | .migrationCopy tenant => Sys2Proof.Machine.execMigrationCopy tenant s
  | .migrationCommit tenant => Sys2Proof.Machine.execMigrationCommit tenant s
  | .evict fn q => Sys2Proof.Machine.execEvict fn q s
  | .timestamp fn q => Sys2Proof.Machine.execTimestamp fn q s
  | .release fn q => Sys2Proof.Machine.execRelease fn q s
  | .hostReadShared fn addr => Sys2Proof.Machine.execHostReadShared fn addr s
  | .hostReadOwn fn addr => Sys2Proof.Machine.execHostReadOwn fn addr s
  | .hostMemWrite fn addr enables data => Sys2Proof.Machine.execHostMemWrite fn addr enables data s
  | .backInvalidateResponse sector data => Sys2Proof.Machine.execBackInvalidateResponse sector data s
  | .hostSnoop line invalidate => Sys2Proof.Machine.execHostSnoop line invalidate s
  | .atticLineFill line own => Sys2Proof.Machine.execAtticLineFill line own s
  | .hostAtomicopCompletion ctx ch st => Sys2Proof.Machine.execHostAtomicopCompletion ctx ch st s
  | .hostCompletionTimeout ctx src => Sys2Proof.Machine.execHostCompletionTimeout ctx src s
  | .linkTraining lanes rateMTs => Sys2Proof.Machine.execLinkTraining lanes rateMTs s
  | .linkDown => Sys2Proof.Machine.execLinkDown s
  | .functionLevelReset fn => Sys2Proof.Machine.execFunctionLevelReset fn s
  | .tenantReset tenant => Sys2Proof.Machine.execTenantReset tenant s
  | .fwrangeWrite lo hi => Sys2Proof.Machine.execFwrangeWrite lo hi s
  | .prepare => Sys2Proof.Machine.execPrepare s
  | .paused fn => Sys2Proof.Machine.execPaused fn s
  | .activate => Sys2Proof.Machine.execActivate s
  | .firmwareRestart => Sys2Proof.Machine.execFirmwareRestart s
  | .spdmRequest nonce => Sys2Proof.Machine.execSpdmRequest nonce s
  | .debugConsent tenant tid expiry signatureOk => Sys2Proof.Machine.execDebugConsent tenant tid expiry signatureOk s
  | .debugHalt ctx => Sys2Proof.Machine.execDebugHalt ctx s
  | .debugRegisterAccess ctx write reg v => Sys2Proof.Machine.execDebugRegisterAccess ctx write reg v s
  | .debugSingleStep ctx => Sys2Proof.Machine.execDebugSingleStep ctx s
  | .debugResume ctx => Sys2Proof.Machine.execDebugResume ctx s
  | .consentExpiry tenant tid => Sys2Proof.Machine.execConsentExpiry tenant tid s
  | .d3hotEntry => Sys2Proof.Machine.execD3hotEntry s
  | .powerLoss => Sys2Proof.Machine.execPowerLoss s
  | .maintenanceFrameBoundary => Sys2Proof.Machine.execMaintenanceFrameBoundary s
  | .guardBandStart => Sys2Proof.Machine.execGuardBandStart s
  | .maintenanceSlotStart => Sys2Proof.Machine.execMaintenanceSlotStart s
  | .sensorSweep junction watts => Sys2Proof.Machine.execSensorSweep junction watts s
  | .unannouncedExtension cycles => Sys2Proof.Machine.execUnannouncedExtension cycles s
  | .extendedFrameAnnounce ahead => Sys2Proof.Machine.execExtendedFrameAnnounce ahead s
  | .spareBringIn sp => Sys2Proof.Machine.execSpareBringIn sp s
  | .railSettled rail => Sys2Proof.Machine.execRailSettled rail s
  | .cadenceChange ctx => Sys2Proof.Machine.execCadenceChange ctx s
  | .tokenRefill slice bucket => Sys2Proof.Machine.execTokenRefill slice bucket s
  | .slcRequestAdmit slice plane cls sectors => Sys2Proof.Machine.execSlcRequestAdmit slice plane cls sectors s
  | .hostRequestCompletion ctx src st => Sys2Proof.Machine.execHostRequestCompletion ctx src st s
  | .reset => Sys2Proof.Machine.execReset s
  | .d3hotExit => Sys2Proof.Machine.execD3hotExit s

end Sys2Proof.Machine
end

