-- ==== Sys2Proof/Machine/Step.lean ====
section
/-! DEFINITION. One step of the part, and a state whose next step issues one given slot word. -/

namespace Sys2Proof.Machine

/-- One step: the event that comes next is carried out, or the cycle ends (log 4). -/
def step (s : State) : Host.Outcome State Fault Refusal :=
  match s.pick with
  | (some i, s') => exec i s'
  | (none, s') => .next s'.tick

/-- The slot that a word of the opcode table is placed in: the first one whose map reads it, SA when none does. -/
def fetchSlot (w : Nat) : Slot :=
  match firstSlot w tableSlots with
  | some p => p.1
  | none => .sa

/-- A bundle of one slot word without flags, CMASK naming cluster 0 (R72 to R76). -/
def oneWordBundle (w : Nat) : List Byte :=
  packBundle (headerVal ⟨0#10, false, false, false, false, 1#8, 0, 0⟩ (2 ^ (fetchSlot w).num)) [w]

/-- A live task of function 1 on tile 0 of plane 0: a region of one tile, elastic, with the whole scratchpad and the whole
accumulator storage, about to issue the bundle at address 0. -/
def fetchCtx (code : List Byte) (now : Nat) : Ctx :=
  { Ctx.reset with
    life := .live, launch := 0, tenant := 1, wdLimit := 100000, accCnt := 16#5, spHi := Config.spBytes
    imem := writeBytes [] 0 code, fcycFrom := now, frameFrom := now }

/-- The launch of that task. -/
def fetchLaunch : Launch :=
  ⟨1, 0, 0, false, false, 1, 0, 0, 1, 1, false, false, 0#6, 0, 0, 0, 0#64, 0, 4096, 0, [], [], 0, .running, 0, 0, 0, [], none, false,
   0, 16, 0, Config.spBytes, 0, 0⟩

/-- The part with a task whose next bundle holds one slot word: what the launch unit leaves (R38), with nothing else due on
the cycle (log 17). -/
def State.withFetchWord (s : State) (nbits w : Nat) : State :=
  { s with
    ctxs := [(0, fetchCtx (oneWordBundle (w % 2 ^ nbits % 2 ^ 32)) s.cycle)]
    tiles := [], launches := [(0, fetchLaunch)], agenda := [], issued := [], issue := .none, refills := [], tickets := [], hints := []
    cal := ⟨s.cal.mfn, s.cycle, none, 0, 0, false, false⟩
    rails := [], consents := [], activation := .none, power := .d0 }

end Sys2Proof.Machine
end

