-- ==== Sys2Proof/Safety.lean ====
section
/-! DEFINITION. What counts as a safe state, and the terms that claims use: memories in canonical form, room in the undo
log, what a bundle's word puts in flight, and what a word that writes a v register or a k register does. -/

namespace Sys2Proof.Machine

/-! ### Safe states -/

/-- The memories that software and the host see are canonical: device memory, host memory, every scratchpad. -/
def State.memOk (s : State) : Bool :=
  Memory.wf s.dev && Memory.wf s.hostMem && s.tiles.all (fun p => Memory.wf p.2.sp)

/-- The undo log and the gate of every context keep within their entries (R279, R280). -/
def Ctx.logsOk (x : Ctx) : Bool :=
  decide ((x.undo.filter (fun e => !e.key.vector)).length ≤ Config.undoScalarMax) &&
    decide ((x.undo.filter (fun e => e.key.vector)).length ≤ Config.undoVectorMax) && decide (x.gateUse ≤ Config.gateMax)

def State.logsOk (s : State) : Bool := s.ctxs.all (fun p => p.2.logsOk)

/-- A run of `n` steps that neither faults nor is refused. -/
def State.runs (s : State) : Nat → Prop
  | 0 => True
  | n + 1 => ∃ t, step s = .next t ∧ t.runs n

/-! ### Register writes of the bundle in hand -/

/-- The undo log holds the register already or has an entry left for it (R279). -/
def Ctx.undoFits (x : Ctx) (key : UKey) : Bool :=
  hasKey x.undo key || decide ((x.undo.filter (fun e => e.key.vector == key.vector)).length <
    if key.vector then Config.undoVectorMax else Config.undoScalarMax)

/-- The undo log with an entry for the register. -/
def Ctx.logged (x : Ctx) (key : UKey) : Ctx :=
  if hasKey x.undo key then x else { x with undo := x.undo ++ [⟨key, none⟩] }

/-- A register write of the bundle in hand that lands `lat` cycles on. -/
def State.write (s : State) (lat : Nat) (d : Dst) (mask val : Nat) : PendWrite := ⟨s.cycle + lat, true, d, mask, val⟩

/-- The context in hand with an undo entry for a register and writes in flight. -/
def State.sent (s : State) (key : UKey) (ws : List PendWrite) : State :=
  let x := s.cx.logged key
  s.setCx { x with inFlight := x.inFlight ++ ws }

/-- A scalar result that lands `lat` cycles on; s0 discards it (R83, R87). -/
def State.scalarResult (s : State) (lat : Nat) (d : SReg) (v : Word) : State :=
  if d.val = 0 then s else s.sent (.s d.val) [s.write lat (.s d.val) (ones 64) v.toNat]

/-- A truth value that lands in a q register on the next cycle; q0 discards it. -/
def State.qResult (s : State) (d : QReg) (b : Bool) : State :=
  if d.val = 0 then s else s.sent (.q d.val) [s.write 1 (.q d.val) 1 b.toNat]

/-- A scalar result is discarded or has its undo entry. -/
def State.scalarFits (s : State) (d : SReg) : Bool := d.val == 0 || s.cx.undoFits (.s d.val)
def State.qFits (s : State) (d : QReg) : Bool := d.val == 0 || s.cx.undoFits (.q d.val)

/-- Nothing of the machine but the context in hand has changed, and of that only the undo log and what is in flight. -/
def State.onlyFlight (s t : State) : Prop :=
  t = s ∨ t = s.setCx { s.cx with undo := t.cx.undo, inFlight := t.cx.inFlight }

/-- Writes `ws` have joined those in flight; they land on cycle `s.cycle + lat`, in register `d` of enabled clusters or as
flags. -/
def State.flies (s t : State) (lat : Nat) (dst : Nat → Dst) (ws : List PendWrite) : Prop :=
  s.onlyFlight t ∧ t.cx.inFlight = s.cx.inFlight ++ ws ∧
    ∀ w ∈ ws, w.due = s.cycle + lat ∧ w.post = true ∧ (w.dst = .flags ∨ ∃ c ∈ s.clusters, w.dst = dst c)

/-- The flags that writes set when they land (R151). -/
def flagsIn (ws : List PendWrite) : Flags :=
  ws.foldr (fun w f => (if w.dst = .flags then BitVec.ofNat 5 w.val else 0#5) ||| f) 0#5

/-- The flags of the active elements of every enabled cluster together. -/
def State.flagsOf (s : State) (n : Nat) (act : Nat → Nat → Bool) (f : Nat → Nat → Nat × Flags) : Flags :=
  s.clusters.foldr (fun c g => ((List.range n).filter (act c)).foldr (fun i h => (f c i).2 ||| h) g) 0#5

/-- No flag is set, or VSTAT has its undo entry (R279). -/
def State.flagFits (s : State) (g : Flags) : Bool := g == 0#5 || s.cx.undoFits (.cr 0x024)

/-- A vector word has performed: in every enabled cluster each active element of `d` takes the value of `f`, no write touches
an element that is not active, and the flags of the active elements are set (R84, R151, R424). -/
def State.vecDone (s t : State) (lat : Nat) (d : VReg) (w : Nat) (n : Nat) (act : Nat → Nat → Bool)
    (f : Nat → Nat → Nat × Flags) : Prop :=
  ∃ ws, s.flies t lat (fun c => .v d.val c) ws ∧ flagsIn ws = s.flagsOf n act f ∧
    ∀ c ∈ s.clusters, ∀ i < n,
      (act c i = true → ∃ p ∈ ws, p.dst = .v d.val c ∧ elem p.mask w i = ones w ∧ elem p.val w i = (f c i).1 % 2 ^ w) ∧
      (act c i = false → ∀ p ∈ ws, p.dst = .v d.val c → elem p.mask w i = 0)

/-- A word answers a next state in which it has performed, when its flags have room in the undo log. -/
def State.vecMakes (s : State) (i : Instr) (lat : Nat) (d : VReg) (w : Nat) (n : Nat) (act : Nat → Nat → Bool)
    (f : Nat → Nat → Nat × Flags) : Prop :=
  s.flagFits (s.flagsOf n act f) = true → ∃ t, exec i s = .next t ∧ s.vecDone t lat d w n act f

/-- The elements of type `t` that the mask of the word makes active. -/
def State.acts (s : State) (t : ETy) (k : KSel) (c i : Nat) : Bool := active (s.rk k.val c) t.cw i

/-- Element `i` of type `t` in cluster `c` of a register, as the bundle reads it. -/
def State.elt (s : State) (t : ETy) (r : VReg) (c i : Nat) : Nat := elem (s.rv r c) t.cw i

/-- Room in the undo log for a v register, when some cluster is enabled. -/
def State.vecFits (s : State) (d : VReg) : Bool := s.clusters.isEmpty || s.cx.undoFits (.v d.val)

/-- Room in the undo log for a k register; k0 takes no entry. -/
def State.maskFits (s : State) (d : KReg) : Bool := d.val == 0 || s.clusters.isEmpty || s.cx.undoFits (.k d.val)

/-- A word that writes a k register has performed: in every enabled cluster the `w` bits of each active element's group take
`f`, and no other bit is written; k0 discards the writes (R83, R380, R435). -/
def State.maskDone (s t : State) (lat : Nat) (d : KReg) (w : Nat) (n : Nat) (act : Nat → Nat → Bool)
    (f : Nat → Nat → Bool × Flags) : Prop :=
  ∃ ws, s.flies t lat (fun c => .k d.val c) ws ∧ (d.val = 0 → ∀ p ∈ ws, p.dst = .flags) ∧
    flagsIn ws = s.flagsOf n act (fun c i => ((f c i).1.toNat, (f c i).2)) ∧
    ∀ c ∈ s.clusters, ∀ i < n, d.val ≠ 0 →
      (act c i = true →
        ∃ p ∈ ws, p.dst = .k d.val c ∧ elem p.mask w i = ones w ∧ elem p.val w i = if (f c i).1 then ones w else 0) ∧
      (act c i = false → ∀ p ∈ ws, p.dst = .k d.val c → elem p.mask w i = 0)

/-- A word that writes a k register answers a next state in which it has performed, when its flags have room in the undo
log. -/
def State.maskMakes (s : State) (i : Instr) (lat : Nat) (d : KReg) (w : Nat) (n : Nat) (act : Nat → Nat → Bool)
    (f : Nat → Nat → Bool × Flags) : Prop :=
  s.flagFits (s.flagsOf n act (fun c i => ((f c i).1.toNat, (f c i).2))) = true →
    ∃ t, exec i s = .next t ∧ s.maskDone t lat d w n act f

/-- Words whose effect is on registers alone: the arithmetic of every slot, moves of control registers, loads. -/
def registerWord : Instr → Bool
  | .add .. | .addi .. | .sub .. | .and .. | .andi .. | .or .. | .ori .. | .xor .. | .xori .. | .shl .. | .shr .. | .sra ..
  | .rotl .. | .mul .. | .mulh .. | .div .. | .rem .. | .clz .. | .ctz .. | .popc .. | .min .. | .max .. | .sel .. | .cmp ..
  | .limm .. | .mfc .. | .mtc .. | .mtcEvent .. | .mtcDmr .. | .mtcAshape .. | .xptr .. | .ld .. | .vld .. | .vldb .. | .vlds ..
  | .vadd .. | .vsub .. | .vmul .. | .vfma .. | .vmin .. | .vmax .. | .vabs .. | .vneg .. | .vand .. | .vor .. | .vxor ..
  | .vshl .. | .vshr .. | .vsra .. | .vsel .. | .vclamp .. | .vdot .. | .vred .. | .vscan .. | .vperm .. | .vsplat .. | .vmov ..
  | .vget .. | .vput .. | .vxch .. | .vcvt .. | .vqnt .. | .vdqnt .. | .vcmp .. | .fexp2 .. | .flog2 .. | .frcp .. | .frsq ..
  | .ftanh .. | .fsig .. | .fsin .. | .fcos .. | .kand .. | .kor .. | .kxor .. | .knot .. | .kpopc .. | .kfirst .. => true
  | _ => false

/-- Words that store to this tile's scratchpad as they issue. -/
def storingWord : Instr → Bool
  | .aadd .. | .amin .. | .amax .. | .aand .. | .aor .. | .axor .. | .aswap .. | .acas .. | .st .. | .vstK0 .. | .vstK1 ..
  | .vstK2 .. | .vstK3 .. | .vsts .. | .vcsq .. => true
  | _ => false

/-! ### Local accesses of the bundle in hand -/

/-- No fault of R386 and R452 stands against an access: its ranges lie in the assignment, it is aligned, meets no bank that is
taken, and no word in error. `both` is set for a word that reserves its bank (R263). -/
def State.accessOk (s : State) (rs : List (Int × Nat)) (both aligned bank ecc : Bool) : Bool :=
  (s.cx.spBad rs).isNone && aligned && !bank && !s.collides both (rowsOfRanges (rs.map (fun r => (r.1.toNat, r.2)))) && !ecc

/-- The gate has room for the rows that a store touches (R280). -/
def State.rowsFit (s : State) (bs : List (Nat × Byte)) : Bool :=
  decide (s.cx.gateUse + ((rowsOf (bs.map (·.1))).filter (fun r => !s.cx.rows.any (fun g => g.row == r))).length ≤ Config.gateMax)

/-- No fault stands against a load: its ranges, its alignment, its banks and the errors in what it reads (R386, R452). -/
def State.loadOk (s : State) (i : Instr) (aligned : Bool) (bank : Bool) : Bool :=
  s.accessOk (s.touched i) false aligned bank (eccRead s.issue.bad0 ((s.touched i).map (fun r => (r.1.toNat, r.2))))

/-- No fault stands against a store of the bytes `bs`, gate room among them (R280, R419, R452). -/
def State.storeOk (s : State) (i : Instr) (aligned : Bool) (bank : Bool) (bs : List (Nat × Byte)) : Bool :=
  s.accessOk (s.touched i) false aligned bank
      (eccStore s.issue.bad0 (bs.map (·.1)) ((s.touched i).map (fun r => (r.1.toNat, r.2)))) && s.rowsFit bs

/-- Two contexts have the same pushed updates of this tile's scratchpad, but for the bytes that those keep from later stores, and what
each of them reads is the same (R200). -/
def State.sameUpdates (s t : State) : Prop :=
  t.cx.recs.map (fun r => { r with kept := [] }) = s.cx.recs.map (fun r => { r with kept := [] }) ∧
    t.cx.drains.map (fun d => { d with kept := [] }) = s.cx.drains.map (fun d => { d with kept := [] }) ∧
    (∀ (i : Nat) (r r' : CopyRec) (a : Nat), s.cx.recs[i]? = some r → t.cx.recs[i]? = some r' → r.updates a = true →
      keptLE t.tl.sp r'.kept a 1 = keptLE s.tl.sp r.kept a 1) ∧
    ∀ (i : Nat) (d d' : DrainRec) (a : Nat), s.cx.drains[i]? = some d → t.cx.drains[i]? = some d' → d.updates a = true →
      keptLE t.tl.sp d'.kept a 1 = keptLE s.tl.sp d.kept a 1

/-- Of the machine only this tile's scratchpad and the context in hand have changed, and of the context only the gate's
rows, the undo log, what is in flight, and the bytes that pushed updates keep. -/
def State.onlyLocal (s t : State) : Prop :=
  t = s ∨ t = (s.setCx { s.cx with undo := t.cx.undo, inFlight := t.cx.inFlight, rows := t.cx.rows
                                   recs := t.cx.recs, drains := t.cx.drains }).setTl
    { s.tl with sp := t.tl.sp, bad := t.tl.bad, resv := t.tl.resv } ∧ s.sameUpdates t

/-- A store has performed: `put` names the bytes stored, every other byte of this tile keeps its value, and nothing else of
the machine but the gate's rows has changed. -/
def State.stored (s t : State) (put : Nat → Option Byte) : Prop :=
  s.onlyLocal t ∧ t.cx.undo = s.cx.undo ∧ t.cx.inFlight = s.cx.inFlight ∧ t.tl.resv = s.tl.resv ∧
    ∀ x, mread t.tl.sp x = (put x).getD (mread s.tl.sp x)

/-- Byte `j` of a value. -/
def byteOf (v j : Nat) : Byte := BitVec.ofNat 8 (v / 2 ^ (8 * j))

/-! ### Places of bytes -/

/-- Where a byte of a side of a record lies: space 0 is device memory, 1 host memory, 2 + t the scratchpad of tile t. -/
def Ctx.placeOf (x : Ctx) (c : Nat) (loc : Loc) (a : Nat) : Option (Nat × Nat) :=
  match loc with
  | .sp => some (2 + tileOf c, a)
  | .tile t => some (2 + t, a)
  | .virt => (x.pageOf a).map (fun e => (if entRoute e = 0 then 0 else 1, entPhys e a))

/-- The generation of a key that a sector stands encrypted under: as its frame has noted, else its frame's own (R25, R182). -/
def State.standsUnder (s : State) (sec : Nat) : Option Nat :=
  match mfind s.seals (64 * sec / 2 ^ 21) with
  | some z => some (mgetD z.others sec z.base)
  | none => (mfind s.frameKey (64 * sec / 2 ^ 21)).map s.genOf

/-- The byte at a place. -/
def State.placeByte (s : State) (w : Nat × Nat) : Byte :=
  match w.1 with
  | 0 => s.devByte w.2
  | 1 => s.hostByte w.2
  | t + 2 => mread (s.tile t).sp w.2

/-- The byte that a copy record takes from an address of its source: as read at the push, or at its place. -/
def State.sourceByte (s : State) (c : Nat) (r : CopyRec) (a : Nat) : Byte :=
  if r.sloc = .sp then mread r.snap a
  else
    match (s.ctx c).placeOf c r.sloc a with
    | none => blank
    | some w => s.placeByte w

/-- A byte of the virtual space can be written at once: on a host-cache page the attic holds its line, on a host-io page it
does not. -/
def State.lineReady (s : State) (x : Ctx) (a : Nat) : Bool :=
  match x.pageOf a with
  | none => true
  | some e => entRoute e == 0 || (entRoute e == 1) == (mfind s.attic (entPhys e a / 64)).isNone

/-! ### Faults of the bundle in hand -/

/-- The word in hand raises a fault, and nothing else has changed. -/
def State.raises (s : State) (code eaddr : Nat) : State :=
  { s with issue := { s.issue with raised := some ⟨code, eaddr, s.issue.slot.num, false⟩ } }

/-! ### Branches of the bundle in hand -/

/-- The bundle in hand has chosen its next address: its context is `x`. -/
def State.turned (s : State) (x : Ctx) : State :=
  { s.setCx x with issue := { s.issue with advanced := true } }

/-- A pending-branch state that bundles can reach (R93): at most two entries, with one or two bundles left, the older first. -/
def pendLegal : List (PAddr × Nat) → Bool
  | [] => true
  | [(_, l)] => decide (l = 1 ∨ l = 2)
  | [(_, l), (_, l')] => decide (l = 1 ∧ l' = 2)
  | _ => false

end Sys2Proof.Machine
end

