-- ==== Sys2Proof/Certificates/Slice0/Obligations.lean ====
section
/-! DEFINITION. The statements for the provers. Each docstring names the rules that it formalises. -/

open Sys2Proof Sys2Proof.Machine

/-! ### Scalar words (R98, R99) -/

/-- R350, R410, R464: the bits of AND, OR, XOR and of their immediate forms, whose imm12 is zero-extended; where the words stand,
how they are encoded, and that no other word of their slots decodes to them. -/
def Obligations.ScalarLogic : Prop :=
  (∀ (s : State) (d a b : SReg) (imm : BitVec 12), s.scalarFits d = true →
    (∃ v : Word, exec (.and d a b) s = .next (s.scalarResult 1 d v) ∧
      ∀ j, v.getLsbD j = ((s.rs a).getLsbD j && (s.rs b).getLsbD j)) ∧
    (∃ v : Word, exec (.andi d a imm) s = .next (s.scalarResult 1 d v) ∧
      ∀ j, v.getLsbD j = ((s.rs a).getLsbD j && imm.getLsbD j)) ∧
    (∃ v : Word, exec (.or d a b) s = .next (s.scalarResult 1 d v) ∧
      ∀ j, v.getLsbD j = ((s.rs a).getLsbD j || (s.rs b).getLsbD j)) ∧
    (∃ v : Word, exec (.ori d a imm) s = .next (s.scalarResult 1 d v) ∧
      ∀ j, v.getLsbD j = ((s.rs a).getLsbD j || imm.getLsbD j)) ∧
    (∃ v : Word, exec (.xor d a b) s = .next (s.scalarResult 1 d v) ∧
      ∀ j, v.getLsbD j = ((s.rs a).getLsbD j ^^ (s.rs b).getLsbD j)) ∧
    (∃ v : Word, exec (.xori d a imm) s = .next (s.scalarResult 1 d v) ∧
      ∀ j, v.getLsbD j = ((s.rs a).getLsbD j ^^ imm.getLsbD j))) ∧
  ∀ (sl : Slot) (d a b : SReg) (imm : BitVec 12) (w : Nat), w < 2 ^ 32 →
    (decodeWord sl w = .ok (.and d a b) ↔ sl.isScalar = true ∧ w = 0x07 * 2 ^ 24 + d.val * 2 ^ 18 + a.val * 2 ^ 12 + b.val * 2 ^ 6) ∧
    (decodeWord sl w = .ok (.andi d a imm) ↔ sl.isScalar = true ∧ w = 0x21 * 2 ^ 24 + d.val * 2 ^ 18 + a.val * 2 ^ 12 + imm.toNat) ∧
    (decodeWord sl w = .ok (.or d a b) ↔ sl.isScalar = true ∧ w = 0x08 * 2 ^ 24 + d.val * 2 ^ 18 + a.val * 2 ^ 12 + b.val * 2 ^ 6) ∧
    (decodeWord sl w = .ok (.ori d a imm) ↔ sl.isScalar = true ∧ w = 0x22 * 2 ^ 24 + d.val * 2 ^ 18 + a.val * 2 ^ 12 + imm.toNat) ∧
    (decodeWord sl w = .ok (.xor d a b) ↔ sl.isScalar = true ∧ w = 0x09 * 2 ^ 24 + d.val * 2 ^ 18 + a.val * 2 ^ 12 + b.val * 2 ^ 6) ∧
    (decodeWord sl w = .ok (.xori d a imm) ↔ sl.isScalar = true ∧ w = 0x23 * 2 ^ 24 + d.val * 2 ^ 18 + a.val * 2 ^ 12 + imm.toNat)

/-- R345, R420: ADD, ADDI and SUB wrap, and the result lands on t + 1. R406: the low and the high half of the product, which lands
on t + 3. R363, R414: DIV and REM never fault on their values, and land on t + 20; a divisor of zero gives all ones and the
dividend; otherwise the signed quotient is truncated toward zero and wraps, and x = q * y + remainder. R416: the shifts and ROTL,
with the count taken from bits [5:0] of a register or from the field. R356, R413: leading zeros, trailing zeros and set bits, on
t + 1. -/
def Obligations.ScalarArithmeticAndShifts : Prop :=
  (∀ (s : State) (d a b : SReg) (imm : BitVec 12), s.scalarFits d = true →
      (∃ v : Word, exec (.add d a b) s = .next (s.scalarResult 1 d v) ∧
        v.toNat = ((s.rs a).toNat + (s.rs b).toNat) % 2 ^ 64) ∧
      (∃ v : Word, exec (.addi d a imm) s = .next (s.scalarResult 1 d v) ∧
        (v.toNat : Int) = ((s.rs a).toNat + imm.toInt) % 2 ^ 64) ∧
      (∃ v : Word, exec (.sub d a b) s = .next (s.scalarResult 1 d v) ∧
        (v.toNat : Int) = ((s.rs a).toNat - (s.rs b).toNat : Int) % 2 ^ 64)) ∧
  (∀ (s : State) (d a b : SReg), s.scalarFits d = true →
      (∃ v : Word, exec (.mul d a b) s = .next (s.scalarResult 3 d v) ∧ v.toNat = (s.rs a).toNat * (s.rs b).toNat % 2 ^ 64) ∧
      (∃ v : Word, exec (.mulh d a b false) s = .next (s.scalarResult 3 d v) ∧
        v.toInt = (s.rs a).toInt * (s.rs b).toInt / 2 ^ 64) ∧
      (∃ v : Word, exec (.mulh d a b true) s = .next (s.scalarResult 3 d v) ∧
        v.toNat = (s.rs a).toNat * (s.rs b).toNat / 2 ^ 64)) ∧
  (∀ (s : State) (d a b : SReg), s.scalarFits d = true →
      let x := s.rs a
      let y := s.rs b
      (∀ u, y = 0#64 → exec (.div d a b u) s = .next (s.scalarResult 20 d (BitVec.allOnes 64)) ∧
        exec (.rem d a b u) s = .next (s.scalarResult 20 d x)) ∧
      (y ≠ 0#64 → ∃ q r : Word, exec (.div d a b true) s = .next (s.scalarResult 20 d q) ∧
        exec (.rem d a b true) s = .next (s.scalarResult 20 d r) ∧
        x.toNat = q.toNat * y.toNat + r.toNat ∧ r.toNat < y.toNat) ∧
      (y ≠ 0#64 → ∃ q r : Word, exec (.div d a b false) s = .next (s.scalarResult 20 d q) ∧
        exec (.rem d a b false) s = .next (s.scalarResult 20 d r) ∧
        q = BitVec.ofInt 64 (x.toInt.tdiv y.toInt) ∧ x.toInt = x.toInt.tdiv y.toInt * y.toInt + r.toInt ∧
        r.toInt.natAbs < y.toInt.natAbs ∧ (r.toInt = 0 ∨ (0 < r.toInt ↔ 0 < x.toInt)))) ∧
  (∀ (s : State) (d a : SReg) (b : Src), s.scalarFits d = true →
      let c := match b with
        | .reg r => (s.rs r).toNat % 64
        | .imm n => n.val
      let x := (s.rs a).toNat
      (∃ v : Word, exec (.shl d a b) s = .next (s.scalarResult 1 d v) ∧ v.toNat = x * 2 ^ c % 2 ^ 64) ∧
      (∃ v : Word, exec (.shr d a b) s = .next (s.scalarResult 1 d v) ∧ v.toNat = x / 2 ^ c) ∧
      (∃ v : Word, exec (.sra d a b) s = .next (s.scalarResult 1 d v) ∧ v.toInt = (s.rs a).toInt / 2 ^ c) ∧
      (∃ v : Word, exec (.rotl d a b) s = .next (s.scalarResult 1 d v) ∧ v.toNat = x * 2 ^ c % 2 ^ 64 + x / 2 ^ (64 - c))) ∧
  (∀ (s : State) (d a : SReg), s.scalarFits d = true →
      let x := s.rs a
      (∃ v : Word, exec (.clz d a) s = .next (s.scalarResult 1 d v) ∧ (x = 0#64 → v.toNat = 64) ∧
        (x ≠ 0#64 → v.toNat < 64 ∧ 2 ^ (63 - v.toNat) ≤ x.toNat ∧ x.toNat < 2 ^ (64 - v.toNat))) ∧
      (∃ v : Word, exec (.ctz d a) s = .next (s.scalarResult 1 d v) ∧ (x = 0#64 → v.toNat = 64) ∧
        (x ≠ 0#64 → v.toNat < 64 ∧ x.getLsbD v.toNat = true ∧ ∀ j < v.toNat, x.getLsbD j = false)) ∧
      (∃ v : Word, exec (.popc d a) s = .next (s.scalarResult 1 d v) ∧
        v.toNat = (List.range 64).countP (fun j => x.getLsbD j)))

/-- R394, R417, R99, R357: MIN, MAX and SEL on t + 1, and the truth that CMP writes into its q register; an immediate is
sign-extended from 6 bits before it is compared. R387: LIMM sign-extends its 18 bits at position 0 and replaces 18 bits, 10 at
position 54, of the old register elsewhere. -/
def Obligations.ScalarChoicesAndImmediates : Prop :=
  ((∀ (s : State) (d a b : SReg) (qn : Bool) (q : QReg), s.scalarFits d = true →
      (∃ v : Word, exec (.min d a b false) s = .next (s.scalarResult 1 d v) ∧ v.toInt = min (s.rs a).toInt (s.rs b).toInt) ∧
      (∃ v : Word, exec (.min d a b true) s = .next (s.scalarResult 1 d v) ∧ v.toNat = min (s.rs a).toNat (s.rs b).toNat) ∧
      (∃ v : Word, exec (.max d a b false) s = .next (s.scalarResult 1 d v) ∧ v.toInt = max (s.rs a).toInt (s.rs b).toInt) ∧
      (∃ v : Word, exec (.max d a b true) s = .next (s.scalarResult 1 d v) ∧ v.toNat = max (s.rs a).toNat (s.rs b).toNat) ∧
      exec (.sel d a b qn q) s = .next (s.scalarResult 1 d (if (s.rq q ^^ qn) = true then s.rs a else s.rs b))) ∧
    ∀ (s : State) (d : QReg) (a : SReg) (b : Src) (c : Cond), s.qFits d = true →
      ∃ (y : Word) (r : Bool), exec (.cmp d a b c) s = .next (s.qResult d r) ∧
        (∀ g, b = .reg g → y = s.rs g) ∧ (∀ n, b = .imm n → y = (BitVec.ofNat 6 n.val).signExtend 64) ∧
        (r = true ↔ match c with
          | .eq => s.rs a = y
          | .ne => s.rs a ≠ y
          | .lt => (s.rs a).toInt < y.toInt
          | .ge => y.toInt ≤ (s.rs a).toInt
          | .ltu => (s.rs a).toNat < y.toNat
          | .geu => y.toNat ≤ (s.rs a).toNat
          | .bit => s.rs a &&& y ≠ 0#64)) ∧
  (∀ (s : State) (d : SReg) (imm : BitVec 18), s.scalarFits d = true →
      (∃ v : Word, exec (.limm .p0 d imm) s = .next (s.scalarResult 1 d v) ∧ v.toInt = imm.toInt) ∧
      (∃ v : Word, exec (.limm .p18 d imm) s = .next (s.scalarResult 1 d v) ∧
        ∀ j, v.getLsbD j = if 18 ≤ j ∧ j < 36 then imm.getLsbD (j - 18) else (s.rs d).getLsbD j) ∧
      (∃ v : Word, exec (.limm .p36 d imm) s = .next (s.scalarResult 1 d v) ∧
        ∀ j, v.getLsbD j = if 36 ≤ j ∧ j < 54 then imm.getLsbD (j - 36) else (s.rs d).getLsbD j) ∧
      (∃ v : Word, exec (.limm .p54 d imm) s = .next (s.scalarResult 1 d v) ∧
        ∀ j, v.getLsbD j = if 54 ≤ j ∧ j < 64 then imm.getLsbD (j - 54) else (s.rs d).getLsbD j))

/-! ### Control registers, control flow, exceptions (R86, R92, R93, R100, R271 to R274, R352 to R355, R369, R379, R389, R399, R400,
R415, R426, R427) -/

/-- R399, R86: MFC returns the register on t + 2, and raises 0x080 for a number that R86 does not assign; the assigned numbers and
what each returns. R399, R400, R86: where the forms of MTC complete, with the write landing on t + 2, and where each traps:
0x080 for a number not assigned, 0x081 for a register that only the device writes, 0x082 for a register of service code
outside it, 0x088 for zero BANDS of ASHAPE. Outside service mode the registers of R279 take an undo entry. R54: FRAMEC is the frame
count above the cycles of the frame; R308: MCAL is the calendar. -/
def Obligations.ControlRegisters : Prop :=
  ((∀ (s : State) (d : SReg) (num : BitVec 12) (v : Word), s.scalarFits d = true → s.creg s.issue.ctx num.toNat = some v →
      exec (.mfc d num) s = .next (s.scalarResult 2 d v)) ∧
    (∀ (s : State) (d : SReg) (num : BitVec 12), s.issue.raised = none → s.creg s.issue.ctx num.toNat = none →
      exec (.mfc d num) s = .next (s.raises 0x080 0)) ∧
    (∀ (s : State) (c num : Nat), (s.creg c num).isSome = true ↔
      num ≤ 0x008 ∨ (0x010 ≤ num ∧ num ≤ 0x016) ∨ (0x020 ≤ num ∧ num ≤ 0x024) ∨ (0x030 ≤ num ∧ num ≤ 0x033)) ∧
    ∀ (s : State) (c : Nat),
      let x := s.ctx c
      s.creg c 0x000 = some (BitVec.ofNat 64 (c / 144)) ∧ s.creg c 0x001 = some (x.region.zeroExtend 64) ∧
      s.creg c 0x003 = some (x.cadence.zeroExtend 64) ∧ s.creg c 0x005 = some (x.ashape.zeroExtend 64) ∧
      s.creg c 0x006 = some (x.dmr.zeroExtend 64) ∧ s.creg c 0x010 = some (x.epc.zeroExtend 64) ∧
      s.creg c 0x011 = some (x.ecause.zeroExtend 64) ∧ s.creg c 0x012 = some x.eaddr ∧
      s.creg c 0x013 = some (x.eslot.zeroExtend 64) ∧ s.creg c 0x014 = some x.etgt ∧
      s.creg c 0x015 = some (x.edly.zeroExtend 64) ∧ s.creg c 0x020 = some x.loopc0 ∧ s.creg c 0x021 = some x.loopc1 ∧
      s.creg c 0x023 = some x.srseed ∧ s.creg c 0x024 = some (x.vstat.zeroExtend 64) ∧
      s.creg c 0x004 = some (if x.cadlock = true then 1#64 else 0#64) ∧ s.creg c 0x007 = some (x.accBase.zeroExtend 64) ∧
      s.creg c 0x008 = some (x.accCnt.zeroExtend 64) ∧ s.creg c 0x022 = some (x.hintdrop.zeroExtend 64) ∧
      s.creg c 0x030 = some (x.wtab.zeroExtend 64) ∧ s.creg c 0x031 = some (x.segtab.zeroExtend 64) ∧
      s.creg c 0x032 = some (x.limit.zeroExtend 64) ∧
      (∃ m, s.creg c 0x033 = some m ∧ m.toNat = s.cal.mfn % 2 ^ 32 +
        match s.cal.ext with
          | none => 0
          | some e => 2 ^ 56 + (e - s.cal.mfn) % 2 ^ 24 * 2 ^ 32) ∧
      (∃ f, s.creg c 0x002 = some f ∧ f.toNat / 2 ^ 16 = x.fcount.toNat ∧
        f.toNat % 2 ^ 16 = if x.strict = true then s.frameCycle % 2 ^ 14 else min 16383 (s.cycle - x.fcycFrom)) ∧
      ∃ e, s.creg c 0x016 = some e ∧
        e.toNat = x.sigval.toNat * 2 ^ 32 + x.evEnable.toNat * 2 ^ 8 + x.evPending.toNat) ∧
  (∀ (s : State) (a : SReg), s.issue.raised = none →
      let v := s.rs a
      let lands := fun (n : Nat) => s.setCx { s.cx with inFlight := s.cx.inFlight ++ [s.write 2 (.cr n) (ones 64) v.toNat] }
      let logs := fun (n : Nat) => s.sent (.cr n) [s.write 2 (.cr n) (ones 64) v.toNat]
      (s.cx.svcMode = true →
        (∀ num : BitVec 12, (0x010 ≤ num.toNat ∧ num.toNat ≤ 0x015) ∨ (0x020 ≤ num.toNat ∧ num.toNat ≤ 0x024) →
          exec (.mtc num a) s = .next (lands num.toNat)) ∧
        exec (.mtcEvent a) s = .next (lands 0x016) ∧ exec (.mtcDmr a) s = .next (lands 0x006) ∧
        (v.toNat % 16 ≠ 0 → exec (.mtcAshape a) s = .next (lands 0x005))) ∧
      (s.cx.svcMode = false →
        (∀ num : BitVec 12, num.toNat = 0x020 ∨ num.toNat = 0x021 ∨ num.toNat = 0x023 ∨ num.toNat = 0x024 →
          s.cx.undoFits (.cr num.toNat) = true → exec (.mtc num a) s = .next (logs num.toNat)) ∧
        exec (.mtc 0x022#12 a) s = .next (lands 0x022) ∧
        (s.cx.undoFits (.cr 0x006) = true → exec (.mtcDmr a) s = .next (logs 0x006)) ∧
        (s.cx.undoFits (.cr 0x005) = true → v.toNat % 16 ≠ 0 → exec (.mtcAshape a) s = .next (logs 0x005)) ∧
        (∀ num : BitVec 12, 0x010 ≤ num.toNat ∧ num.toNat ≤ 0x015 → exec (.mtc num a) s = .next (s.raises 0x082 0)) ∧
        exec (.mtcEvent a) s = .next (s.raises 0x082 0)) ∧
      (v.toNat % 16 = 0 → exec (.mtcAshape a) s = .next (s.raises 0x088 0)) ∧
      (∀ num : BitVec 12, num.toNat ≤ 0x004 ∨ num.toNat = 0x007 ∨ num.toNat = 0x008 ∨ (0x030 ≤ num.toNat ∧ num.toNat ≤ 0x033) →
        exec (.mtc num a) s = .next (s.raises 0x081 0)) ∧
      (∀ num : BitVec 12, s.creg s.issue.ctx num.toNat = none → exec (.mtc num a) s = .next (s.raises 0x080 0)))

/-- R93, R352: a taken branch adds its target with two bundles left; each performed bundle counts down, and the bundle after the
second is at the target. R352, R353, R379: BR, BRN and JMP send the bundle address plus four times the displacement into the
pending-branch state when they are taken; a BRN that is not taken annuls the two bundles that follow. Nothing but the
context's place changes. R379, R415: JMPR and RET go to the register's value; 0x003 when it is not a multiple of 4, 0x289 when
it has bits above 31. R355, R389: CALL leaves the address after the two bundles that follow in s63 on t + 1 and branches; LOOP
counts its register down on t + 1 and branches while the new count is not zero; a count of zero stays and falls through. That
LOOP takes its undo entry with a count of zero too is the model's choice (log 35). -/
def Obligations.ControlTransfers : Prop :=
  (∀ (x : Ctx) (pc pc1 pc2 tgt : PAddr) (len len1 len2 : Nat), x.pend = [] →
      let a := x.advance pc len (some tgt) false
      let b := a.advance pc1 len1 none false
      let c := b.advance pc2 len2 none false
      a.pc = pc + BitVec.ofNat 32 len ∧ b.pc = pc1 + BitVec.ofNat 32 len1 ∧ c.pc = tgt ∧ c.pend = [] ∧ c.annul = x.annul) ∧
  (∀ (s : State) (q : QReg) (qn : Bool) (disp : BitVec 20),
      let tgt := s.issue.pc + disp.signExtend 32 * 4#32
      let go := fun (taken : Option PAddr) (annuls : Bool) => s.turned (s.cx.advance s.issue.pc s.issue.len taken annuls)
      ((s.rq q ^^ qn) = true → exec (.br q qn disp) s = .next (go (some tgt) false) ∧
        exec (.brn q qn disp) s = .next (go (some tgt) false)) ∧
      ((s.rq q ^^ qn) = false → exec (.br q qn disp) s = .next (go none false) ∧
        exec (.brn q qn disp) s = .next (go none true) ∧ (go none true).cx.annul = 2) ∧
      exec (.jmp disp) s = .next (go (some tgt) false)) ∧
  (∀ (s : State) (a : SReg), s.issue.raised = none →
      let v := s.rs a
      (v.toNat % 4 = 0 → v.toNat < 2 ^ 32 → ∀ i ∈ [Instr.jmpr a, .ret a],
        exec i s = .next (s.turned (s.cx.advance s.issue.pc s.issue.len (some (BitVec.ofNat 32 v.toNat)) false))) ∧
      (v.toNat % 4 ≠ 0 → ∀ i ∈ [Instr.jmpr a, .ret a], exec i s = .next (s.raises 0x003 0)) ∧
      (v.toNat % 4 = 0 → 2 ^ 32 ≤ v.toNat → ∀ i ∈ [Instr.jmpr a, .ret a], exec i s = .next (s.raises 0x289 v.toNat))) ∧
  ((∀ (s : State) (disp : BitVec 20), s.cx.undoFits (.s 63) = true →
      ∃ t, exec (.call disp) s = .next t ∧ t = s.turned t.cx ∧
        t.cx = Ctx.advance { s.cx.logged (.s 63) with
          inFlight := s.cx.inFlight ++ [s.write 1 (.s 63) (ones 64) s.callLink.toNat] } s.issue.pc s.issue.len
            (some (s.issue.pc + disp.signExtend 32 * 4#32)) false) ∧
    (∀ (s : State) (off off' stop stop' : Nat),
      s.cx.locate (s.issue.pc.toNat + s.issue.len) = .at' off stop →
      s.cx.locate (s.issue.pc.toNat + s.issue.len + bundleLen (BitVec.ofNat 10 (readLE s.cx.imem off 8))) = .at' off' stop' →
      s.callLink.toNat = (s.issue.pc.toNat + s.issue.len + bundleLen (BitVec.ofNat 10 (readLE s.cx.imem off 8))
        + bundleLen (BitVec.ofNat 10 (readLE s.cx.imem off' 8))) % 2 ^ 64) ∧
    ∀ (s : State) (c1 : Bool) (disp : BitVec 20),
      let num := if c1 then 0x021 else 0x020
      let n := if c1 then s.cx.loopc1.toNat else s.cx.loopc0.toNat
      s.cx.undoFits (.cr num) = true →
      ∃ t, exec (.loop c1 disp) s = .next t ∧ t = s.turned t.cx ∧
        t.cx = Ctx.advance { s.cx.logged (.cr num) with
          inFlight := s.cx.inFlight ++ (if n = 0 then [] else [s.write 1 (.cr num) (ones 64) (n - 1)]) } s.issue.pc s.issue.len (if 1 < n then some (s.issue.pc + disp.signExtend 32 * 4#32) else none) false)

/-- R426, R427, R271, R272: TRAP delivers 0x380 + n at the boundary after its bundle: EPC the next address, the pending-branch
state in ETGT and EDLY and emptied, service mode, the bundle at SVC next. No general register, no memory and no other context
changes. That a wait begun by the bundle itself goes on to hold the first service bundle is the model's choice (log 22). In
service mode, or without service code, the task fails instead with the code (R274). R369, R273: ERET in service
mode, with an EDLY that R93 allows, goes on at EPC with the pending-branch state of ETGT and EDLY; outside service mode it
raises 0x093, with another EDLY 0x092, and in a strict context whose bundle at EPC is well formed and lacks F 0x288. A wait that
0x282 had found is in force again (R366; log 26). R93, R271, R273: what delivery copies into ETGT and EDLY gives the same
pending-branch state back, and is an EDLY that ERET takes. -/
def Obligations.ServiceEntryAndReturn : Prop :=
  (∀ (s : State) (n : BitVec 12), n.toNat ≤ 127 →
      let x := s.cx.advance s.issue.pc s.issue.len none false
      ∃ t, exec (.trap n) s = .next t ∧
        (s.cx.svcMode = false → s.cx.svcv = true → s.cx.isLive = true →
          t = { s.setCx t.cx with issue := { s.issue with advanced := true } } ∧
          t.cx.svcMode = true ∧ t.cx.epc = x.pc ∧ t.cx.ecause.toNat = 0x380 + n.toNat ∧ t.cx.eslot.toNat = s.issue.slot.num ∧
          t.cx.eaddr = 0#64 ∧ t.cx.etgt = etgtOf x.pend ∧ t.cx.edly = edlyOf x.pend x.annul ∧
          t.cx.pend = [] ∧ t.cx.annul = 0 ∧ t.cx.pc = s.cx.svcAddr ∧
          t.cx.s = s.cx.s ∧ t.cx.q = s.cx.q ∧ t.cx.v = s.cx.v ∧ t.cx.k = s.cx.k ∧ t.cx.vstat = s.cx.vstat ∧
          t.cx.wait = s.cx.wait) ∧
        (s.cx.svcMode = true ∨ s.cx.svcv = false → t.cx.life = .failed ∧ t.cx.s = s.cx.s ∧
          ∀ l, mfind s.launches s.cx.launch = some l → ∃ l', mfind t.launches s.cx.launch = some l' ∧ l'.failing = true)) ∧
  (∀ (s : State), s.issue.raised = none →
      (s.cx.svcMode = true → edlyOk s.cx.edly = true → (s.cx.strict && s.cx.eretLacksF) = false →
        ∃ t, exec .eret s = .next t ∧ t = s.turned t.cx ∧ t.cx.svcMode = false ∧ t.cx.pc = s.cx.epc ∧
          t.cx.pend = pendOf s.cx.etgt s.cx.edly ∧ t.cx.annul = s.cx.edly.toNat / 64 ∧
          t.cx.wait = s.cx.savedWait ∧ t.cx.savedWait = .none ∧
          t.cx.s = s.cx.s ∧ t.cx.q = s.cx.q ∧ t.cx.v = s.cx.v ∧ t.cx.k = s.cx.k ∧ t.cx.epc = s.cx.epc ∧
          t.cx.ecause = s.cx.ecause ∧ t.cx.vstat = s.cx.vstat) ∧
      (s.cx.svcMode = false → exec .eret s = .next (s.raises 0x093 0)) ∧
      (s.cx.svcMode = true → edlyOk s.cx.edly = false → exec .eret s = .next (s.raises 0x092 0)) ∧
      (s.cx.svcMode = true → edlyOk s.cx.edly = true → s.cx.strict = true →
        ∀ h, s.cx.wellFormedAt s.cx.epc = some h → h.f = false → exec .eret s = .next (s.raises 0x288 0))) ∧
  (∀ (p : List (PAddr × Nat)) (a : Nat), pendLegal p = true → a ≤ 2 →
      pendOf (etgtOf p) (edlyOf p a) = p ∧ (edlyOf p a).toNat / 64 = a ∧ edlyOk (edlyOf p a) = true)

/-- R367, R411, R468, R351: END records its status and address, releases held pushes and lets no further bundle issue, and a
nonzero status fails the launch; PAUSE waits n reference ticks of 14 cycles from its bundle and YIELD asks the selector to
switch, but in a strict context outside service mode PAUSE raises 0x280 and YIELD does nothing; BKPT halts at the boundary after
the bundle under a debugger and raises 0x28A without one. -/
def Obligations.TaskWordsPerform : Prop :=
  ∀ (s : State) (st n : BitVec 12), s.issue.raised = none →
    let give := { s.issue with giveUp := true }
    (∃ t, exec (.endTask st) s = .next t ∧ t.cx.ending = some (st.toNat, s.issue.pc.toNat) ∧ t.cx.held = [] ∧ t.cx.pend = [] ∧
      t.cx.s = s.cx.s ∧ t.tiles = s.tiles ∧ t.dev = s.dev ∧ (st = 0#12 → t.launches = s.launches) ∧
      (st ≠ 0#12 → ∀ l, mfind s.launches s.cx.launch = some l →
        ∃ l', mfind t.launches s.cx.launch = some l' ∧ l'.failing = true)) ∧
    (s.cx.strictNow = false →
      exec (.pause n) s = .next (s.setCx { s.cx with pauseTo := some (s.cycle + 14 * n.toNat) }) ∧
      exec .yield s = .next { s with issue := give }) ∧
    (s.cx.strictNow = true → exec (.pause n) s = .next (s.raises 0x280 0) ∧ exec .yield s = .next s) ∧
    (s.debugged s.cx = true → exec .bkpt s = .next (s.setCx { s.cx with haltNext := true })) ∧
    (s.debugged s.cx = false → exec .bkpt s = .next (s.raises 0x28A 0))

/-- R279: a word whose scalar, truth or control register finds no undo entry left raises 0x105, one whose vector or mask register
finds none 0x106, and one that would set a flag while VSTAT finds none 0x105; no register and no entry of that kind changes (an
entry of vd or kd is asked for with no element active too: log 72). R386, R419, R452, R343, R437, R172, R263, R280: a load, a
store, an atomic and VCSQ raise, of the faults that stand, the first of 0x100 for a range outside the scratchpad or the assignment,
0x101 for one that is not aligned, 0x102 for a bank that is taken twice, reserved or held, 0x103 for an error met, and a store
0x104 when the gate has no room. Nothing else changes. R272: EADDR is the faulting address (which one of several, and 0x102 for a
bank that an operation in flight reads on t + 1 or t + 2, are log 68). R57, R85, R237, R409: a word of slot X raises 0x286 when a strict context of another plane owns
the engine, then 0x083 for an accumulator outside the window, then 0x086 without a pair, and nothing else changes. -/
def Obligations.WordsTrap : Prop :=
  (∀ (s : State), s.issue.raised = none →
      let full := fun (i : Instr) (code : Nat) => ∃ t, exec i s = .next t ∧
        t.issue.raised = some ⟨code, 0, s.issue.slot.num, false⟩ ∧ t.cx.s = s.cx.s ∧ t.cx.q = s.cx.q ∧ t.cx.v = s.cx.v ∧
        t.cx.k = s.cx.k ∧ t.cx.vstat = s.cx.vstat ∧
        t.cx.undo.filter (fun e => e.key.vector) = s.cx.undo.filter (fun e => e.key.vector) ∧
        (code = 0x105 → t.cx.undo.filter (fun e => !e.key.vector) = s.cx.undo.filter (fun e => !e.key.vector))
      -- A word that would set a flag, were the log empty, finds no entry of VSTAT.
      let flagged := fun (i : Instr) => s.cx.undoFits (.cr 0x024) = false →
        (∃ u, exec i (s.setCx { s.cx with undo := [], inFlight := [] }) = .next u ∧ ∃ w ∈ u.cx.inFlight, w.dst = .flags) →
        ∃ t, exec i s = .next t ∧ t.issue.raised = some ⟨0x105, 0, s.issue.slot.num, false⟩ ∧ t.cx.v = s.cx.v ∧
          t.cx.k = s.cx.k ∧ t.cx.vstat = s.cx.vstat
      (∀ (d a b : SReg) (g : Src) (imm : BitVec 12) (limm : BitVec 18) (p : LPos) (u : Bool) (q : QReg) (m : KReg) (ch : Chan)
          (num : BitVec 12), s.scalarFits d = false →
        (∀ i ∈ [Instr.add d a b, .addi d a imm, .sub d a b, .and d a b, .andi d a imm, .or d a b, .ori d a imm, .xor d a b,
            .xori d a imm, .shl d a g, .shr d a g, .sra d a g, .rotl d a g, .mul d a b, .mulh d a b u, .div d a b u, .rem d a b u,
            .clz d a, .ctz d a, .popc d a, .min d a b u, .max d a b u, .sel d a b u q, .limm p d limm, .xptr d ch], full i 0x105) ∧
        ((s.creg s.issue.ctx num.toNat).isSome = true → full (.mfc d num) 0x105) ∧
        (s.clusters ≠ [] → full (.kpopc d m) 0x105 ∧ full (.kfirst d m) 0x105)) ∧
      (∀ (d : SReg) (a : VReg) (b : SReg) (t : ETy) (k : KSel), s.scalarFits d = false →
        let e := (s.rs b).toNat % (8 * eltCount t)
        (s.issue.cmask.getLsbD (e / eltCount t) && s.acts t k (e / eltCount t) (e % eltCount t)) = true →
          full (.vget d a b t k) 0x105) ∧
      (∀ (t : LdTy) (d b : SReg) (off : BitVec 12), s.scalarFits d = false →
        s.loadOk (.ld t d b off) (decide (((s.rs b).toNat + off.toInt * t.bytes : Int) % t.bytes = 0)) false = true →
          full (.ld t d b off) 0x105) ∧
      (∀ (d a b : SReg) (w u : Bool) (col : Colour), s.scalarFits d = false →
        let at' := (s.rs a).toNat
        let n := if w then 8 else 4
        s.accessOk [((at' : Int), n)] true (decide (at' % n = 0))
            ((rowsOfRanges [(at', n)]).any (fun r => s.issue.mbBanks.contains (bankOf r) || s.readSoon (bankOf r)))
            (eccRead s.issue.bad0 [(64 * (at' / 64), 64)]) = true →
        s.rowsFit [(at', 0#8)] = true →
        ∀ i ∈ [Instr.aadd d a b w col, .amin d a b w u col, .amax d a b w u col, .aand d a b w col, .aor d a b w col,
          .axor d a b w col, .aswap d a b w col, .acas d a b w col], full i 0x105) ∧
      (∀ (d : QReg) (a : SReg) (b : Src) (c : Cond), s.qFits d = false → full (.cmp d a b c) 0x105) ∧
      (∀ (c1 : Bool) (disp : BitVec 20), (s.cx.undoFits (.s 63) = false → full (.call disp) 0x105) ∧
        (s.cx.undoFits (.cr (if c1 then 0x021 else 0x020)) = false → full (.loop c1 disp) 0x105)) ∧
      (s.cx.svcMode = false → ∀ (num : BitVec 12) (a : SReg),
        (num.toNat ∈ [0x020, 0x021, 0x023, 0x024] → s.cx.undoFits (.cr num.toNat) = false → full (.mtc num a) 0x105) ∧
        (s.cx.undoFits (.cr 0x006) = false → full (.mtcDmr a) 0x105) ∧
        (s.cx.undoFits (.cr 0x005) = false → (s.rs a).toNat % 16 ≠ 0 → full (.mtcAshape a) 0x105)) ∧
      (∀ (d a b : VReg) (r : SReg) (n : Fin 8) (op : RedOp) (m : RMode) (iov : Bool) (kind aty : Fin 4) (ts t : ETy) (k : KSel),
        ∀ i ∈ [Instr.vadd d a b t k, .vsub d a b t k, .vmul d a b t k, .vmin d a b t k, .vmax d a b t k, .vabs d a t k,
            .vneg d a t k, .vand d a b t k, .vor d a b t k, .vxor d a b t k, .vshl d a b t k, .vshr d a b t k, .vsra d a b t k,
            .vmov d a t k, .vsplat d r t k, .vperm d a b t k, .vxch d a n t k, .vsel d a b t k, .vclamp d a b t k, .vfma d a b t k,
            .vdot d a b t k, .vred d a op t k, .vscan d a op t k, .vcvt m d a iov ts t k, .vqnt m d a kind aty t k,
            .vdqnt d a kind ts t k, .fexp2 d a t k, .flog2 d a t k, .frcp d a t k, .frsq d a t k, .ftanh d a t k, .fsig d a t k,
            .fsin d a t k, .fcos d a t k],
          (s.vecFits d = false → full i 0x106) ∧ (s.vecFits d = true → flagged i)) ∧
      (∀ (d : VReg) (b : SReg) (off : BitVec 12) (w : Width), s.vecFits d = false →
        let a := fun (n : Nat) => ((s.rs b).toNat + off.toInt * n : Int)
        (s.loadOk (.vld d b off) (decide (a 256 % 4 = 0)) false = true → full (.vld d b off) 0x106) ∧
        (s.loadOk (.vldb d b off) (decide (a 64 % 4 = 0)) false = true → full (.vldb d b off) 0x106) ∧
        (s.loadOk (.vlds w d b off) ((s.touched (.vlds w d b off)).all (fun r => decide (r.1 % w.bytes = 0)))
          (bankRule ((s.touched (.vlds w d b off)).map (fun r => (r.1.toNat, r.2)))) = true → full (.vlds w d b off) 0x106)) ∧
      (∀ (d : VReg) (a b : SReg) (t : ETy) (k : KSel), s.cx.undoFits (.v d.val) = false →
        let e := (s.rs b).toNat % (8 * eltCount t)
        (s.issue.cmask.getLsbD (e / eltCount t) && s.acts t k (e / eltCount t) (e % eltCount t)) = true →
          full (.vput d a b t k) 0x106) ∧
      (∀ (v : VReg) (d : SReg), s.cx.undoFits (.v v.val) = false →
        (∀ g rest, s.cx.gathers = g :: rest → g.results.isSome = true → full (.gpop v d) 0x106) ∧
        ∀ r rest, s.cx.colls = r :: rest → r.st = .done → full (.cpop v d) 0x106) ∧
      (∀ (vc : VCond) (d : KReg) (x y : VReg) (a b : KReg) (t : ETy) (k : KSel),
        (s.maskFits d = false → ∀ i ∈ [Instr.kand d a b, .kor d a b, .kxor d a b, .knot d a, .vcmp vc d x y t k], full i 0x106) ∧
        (s.maskFits d = true → flagged (.vcmp vc d x y t k))) ∧
      (∀ d : SReg, s.scalarFits d = false → 64 ≤ (s.cx.undo.filter (fun e => !e.key.vector)).length) ∧
      (∀ d : VReg, s.vecFits d = false → 32 ≤ (s.cx.undo.filter (fun e => e.key.vector)).length)) ∧
  (∀ (s : State), s.issue.raised = none →
      let place := fun (a : Int) => 2 ^ 63 + (a % 2 ^ 63).toNat
      let bad := s.issue.bad0
      /- A word with its ranges, whether it reserves its bank, its first address off the alignment, its own bank rule, the errors
      it meets and the bytes it stores. EADDR is the first address that by itself breaks the rule. -/
      let stands := fun (i : Instr) (rs : List (Int × Nat)) (both : Bool) (off : Option Int) (bank ecc : List (Nat × Nat) → Bool)
          (bs : List (Nat × Byte)) =>
        let rn := rs.map (fun r => (r.1.toNat, r.2))
        let taken := fun rn => bank rn || s.collides both (rowsOfRanges rn)
        let breaks := fun (p : List (Nat × Nat) → Bool) (a : Int) =>
          match rs.find? (fun r => p [(r.1.toNat, r.2)]) with
          | some r => a = r.1
          | none => ∀ r, rs.head? = some r → a = r.1
        (∀ a, s.cx.spBad rs = some a → exec i s = .next (s.raises 0x100 (place a))) ∧
        (rs ≠ [] → s.cx.spBad rs = none →
          (∀ a, off = some a → exec i s = .next (s.raises 0x101 (place a))) ∧
          (∀ a, off = none → taken rn = true → breaks taken a → exec i s = .next (s.raises 0x102 (place a))) ∧
          (∀ a, off = none → taken rn = false → ecc rn = true → breaks ecc a → exec i s = .next (s.raises 0x103 (place a))) ∧
          (bs ≠ [] → s.accessOk rs both off.isNone (bank rn) (ecc rn) = true → s.rowsFit bs = false →
            ∃ t, exec i s = .next t ∧ t.issue = (s.raises 0x104 (place ((bs.map (·.1)).headD 0 : Nat))).issue ∧
              t.tl.sp = s.tl.sp ∧ t.cx.rows = s.cx.rows))
      let off := fun (n : Nat) (rs : List (Int × Nat)) => (rs.find? (fun r => decide (r.1 % (n : Int) ≠ 0))).map (·.1)
      (∀ (t : LdTy) (w : Width) (d b : SReg) (v : VReg) (o : BitVec 12) (p : BitVec 9) (col : Colour),
        let base := fun (off : Int) (n : Nat) => ((s.rs b).toNat + off * n : Int)
        let load := fun (i : Instr) (n : Nat) (bank : List (Nat × Nat) → Bool) =>
          stands i (s.touched i) false (off n (s.touched i)) bank (eccRead bad) []
        /- A store meets an error in a word that its bytes write in part only. -/
        let store := fun (i : Instr) (n : Nat) (bank : List (Nat × Nat) → Bool) (bs : List (Nat × Byte)) =>
          let partly := bad.filter (fun w => bs.any (fun q => q.1 / 8 == w) &&
            !(List.range 8).all (fun j => (bs.map (·.1)).contains (8 * w + j)))
          stands i (s.touched i) false (off n (s.touched i)) bank (eccRead partly) bs
        let free := fun (_ : List (Nat × Nat)) => false
        load (.ld t d b o) t.bytes free ∧
        load (.vld v b o) 4 free ∧ load (.vldb v b o) 4 free ∧ load (.vlds w v b o) w.bytes bankRule ∧
        store (.st w d b p col) w.bytes free (bytesAt (base p.toInt w.bytes).toNat w.bytes (s.rs d).toNat) ∧
        store (.vstK0 v b p col) 4 free (s.vstBytes 0 v (base p.toInt 256)) ∧
        store (.vstK1 v b p col) 4 free (s.vstBytes 1 v (base p.toInt 256)) ∧
        store (.vstK2 v b p col) 4 free (s.vstBytes 2 v (base p.toInt 256)) ∧
        store (.vstK3 v b p col) 4 free (s.vstBytes 3 v (base p.toInt 256)) ∧
        store (.vsts w v b p col) w.bytes bankRule (s.vstsBytes v b p.toInt w)) ∧
      (∀ (d a b : SReg) (w u : Bool) (col : Colour),
        let at' := (s.rs a).toNat
        let n := if w then 8 else 4
        let rs := [((at' : Int), n)]
        let bank := fun rn => (rowsOfRanges rn).any (fun r => s.issue.mbBanks.contains (bankOf r) || s.readSoon (bankOf r))
        let ecc := fun (_ : List (Nat × Nat)) => eccRead bad [(64 * (at' / 64), 64)]
        (∀ i ∈ [Instr.aadd d a b w col, .amin d a b w u col, .amax d a b w u col, .aand d a b w col, .aor d a b w col,
            .axor d a b w col, .aswap d a b w col], stands i rs true (off n rs) bank ecc [(at', 0#8)]) ∧
        stands (.acas d a b w col) rs true (off n rs) bank ecc [(at', 0#8)]) ∧
      ∀ (d b : SReg) (a : VReg) (t : ETy) (k : KSel),
        let pa := (s.rs b).toNat
        let rs := s.vcsqRanges a pa t k
        let p := readLE s.issue.sp0 pa 8
        stands (.vcsq d a b t k) rs true
          (if pa % 8 ≠ 0 then some (pa : Int) else if p % max 1 (t.cw / 8) ≠ 0 then some (p : Int) else none)
          (fun rn => (rowsOfRanges rn).any (fun r => s.issue.mbBanks.contains (bankOf r))
            || (rn.any (fun r => r.1 == pa) && s.readSoon (bankOf (pa / 64))))
          (fun _ => eccRead bad [(pa, 8)]) (s.vcsqBytes a pa t k)) ∧
  (∀ (s : State) (acc : ATile) (a b : SReg) (f : Bool) (m : BitVec 4), s.issue.raised = none →
      (s.xOwned = true →
        ∀ i ∈ [Instr.mcfg a b, .mswap, .mldw a b m, .mmul acc a b f m, .mvec acc a b f m, .mzero acc m, .mdrn acc a b f m,
          .maccd acc a b f m], exec i s = .next (s.raises 0x286 0)) ∧
      (s.xOwned = false → s.cx.accCnt.toNat ≤ acc.val →
        ∀ i ∈ [Instr.mmul acc a b f m, .mvec acc a b f m, .mzero acc m, .mdrn acc a b f m, .maccd acc a b f m],
          exec i s = .next (s.raises 0x083 0)) ∧
      (s.xOwned = false → s.cx.pair = none → acc.val < s.cx.accCnt.toNat →
        ∀ i ∈ [Instr.mldw a b m, .mmul acc a b f m, .mvec acc a b f m], exec i s = .next (s.raises 0x086 0)))

/-! ### Vector words (R104 to R108, R371 to R373, R424 to R435, R438 to R447, R454 to R459) -/

/-- R428, R430: the sums, products, extremes, absolute value and negation of integers, exact and then wrapped to the width, on t +
2; their float forms round the exact result once (R138), on t + 3, and set the flags of the operation and of the rounding.
Inactive elements keep their value. R431, R432: bits and
shifts of elements on t + 2; the count is taken modulo the width, and VSRA copies the top bit whatever the signedness. No flag
is set. R137, R138, R429: what sum, product, minimum and maximum give, with INV, for NaN, infinities, zeros and numbers: infinity
minus infinity and zero times infinity are NaN with INV; an exact zero sum is +0 but of two -0; -0 orders below +0. -/
def Obligations.VectorArithmetic : Prop :=
  (∀ (s : State) (d a b : VReg) (t : ETy) (k : KSel), s.vecFits d = true →
      let makes := fun (i : Instr) (gf : XVal → XVal → XVal × Flags) (gi : Int → Int → Int) =>
        s.vecMakes i (if t.isF then 3 else 2) d t.cw (eltCount t) (s.acts t k) (fun c i =>
          let x := s.elt t a c i
          let y := s.elt t b c i
          let r := gf (decodeFloat (fmtOf t) x) (decodeFloat (fmtOf t) y)
          if t.isF then ((roundArith (fmtOf t) r.1).1, r.2 ||| (roundArith (fmtOf t) r.1).2)
          else (truncI t.cw (gi (intVal t x) (intVal t y)), 0#5))
      let quiet := fun (g : XVal → XVal) (x : XVal) => (g x, if x.isSnan then fINV else 0#5)
      makes (.vadd d a b t k) xadd (fun x y => x + y) ∧
      makes (.vsub d a b t k) (fun x y => xadd x y.negate) (fun x y => x - y) ∧
      makes (.vmul d a b t k) xmul (fun x y => x * y) ∧
      makes (.vmin d a b t k) xmin min ∧ makes (.vmax d a b t k) xmax max ∧
      makes (.vabs d a t k) (fun x _ => quiet XVal.magnitude x) (fun x _ => (x.natAbs : Int)) ∧
      makes (.vneg d a t k) (fun x _ => quiet XVal.negate x) (fun x _ => -x)) ∧
  (∀ (s : State) (d a b : VReg) (t : ETy) (k : KSel), s.vecFits d = true →
      let makes := fun (i : Instr) (g : Nat → Nat → Nat) =>
        ∃ u, exec i s = .next u ∧ s.vecDone u 2 d t.cw (eltCount t) (s.acts t k)
            (fun c i => (g (s.elt t a c i) (s.elt t b c i), 0#5)) ∧
          ∀ w ∈ u.cx.inFlight, w.dst = .flags → w ∈ s.cx.inFlight
      makes (.vand d a b t k) (fun x y => x &&& y) ∧ makes (.vor d a b t k) (fun x y => x ||| y) ∧
      makes (.vxor d a b t k) (fun x y => x ^^^ y) ∧
      makes (.vshl d a b t k) (fun x y => x * 2 ^ (y % t.cw)) ∧ makes (.vshr d a b t k) (fun x y => x / 2 ^ (y % t.cw)) ∧
      makes (.vsra d a b t k) (fun x y => truncI t.cw (sextN t.cw x / (2 ^ (y % t.cw) : Nat)))) ∧
  (∀ a b : XVal, a.isNan = true ∨ b.isNan = true → ∀ op ∈ [xadd, xmul, xmin, xmax],
    op a b = (.nan false, if a.isSnan || b.isSnan then fINV else 0#5)) ∧
  (∀ (i j n n' : Bool) (m m' : Nat) (e e' : Int),
    let y := XVal.fin n m e
    let z := XVal.fin n' m' e'
    let sum : Int := (if n then -1 else 1) * m * 2 ^ (e - min e e').toNat + (if n' then -1 else 1) * m' * 2 ^ (e' - min e e').toNat
    let less := if m = 0 ∧ m' = 0 then n && !n'
      else decide ((if n then -1 else 1) * (m : Int) * 2 ^ (e - min e e').toNat < (if n' then -1 else 1) * m' * 2 ^ (e' - min e e').toNat)
    let invalid := (XVal.nan false, fINV)
    xadd (.inf i) (.inf j) = (if i = j then (.inf i, 0#5) else invalid) ∧
    xadd (.inf i) y = (.inf i, 0#5) ∧ xadd y (.inf i) = (.inf i, 0#5) ∧
    (sum ≠ 0 → xadd y z = (.fin (decide (sum < 0)) sum.natAbs (min e e'), 0#5)) ∧
    -- An exact zero is +0, but of two addends that are -0.
    (sum = 0 → xadd y z = (.fin (decide (m = 0 ∧ m' = 0) && n && n') 0 0, 0#5)) ∧
    xmul (.inf i) (.inf j) = (.inf (i != j), 0#5) ∧
    xmul (.inf i) y = (if m = 0 then invalid else (.inf (i != n), 0#5)) ∧
    xmul y (.inf i) = (if m = 0 then invalid else (.inf (n != i), 0#5)) ∧
    xmul y z = (.fin (n != n') (m * m') (e + e'), 0#5) ∧
    xlt (.inf i) (.inf j) = (i && !j) ∧ xlt (.inf i) y = i ∧ xlt y (.inf i) = !i ∧ xlt y z = less) ∧
  (∀ a b : XVal, a.isNan = false → b.isNan = false →
    xmin a b = (if xlt b a then b else a, 0#5) ∧ xmax a b = (if xlt a b then b else a, 0#5))

/-- R454, R455, R458, R459, R433: VMOV, VSPLAT, VPERM, VXCH and VSEL move elements bit for bit; VSEL writes every element, and
VXCH reads its source cluster whether or not it is enabled; VCLAMP is min (max (vd, va), vb). R446, R447: VGET and VPUT reach
element e mod n of cluster e / n, e the index modulo 8n; when that cluster is not enabled or the element not active they write
nothing. R447: the same words where they do not perform. -/
def Obligations.VectorMovesAndElements : Prop :=
  (∀ (s : State) (d a b : VReg) (t : ETy) (k : KSel), s.vecFits d = true →
      let makes := fun (i : Instr) (lat : Nat) (act : Nat → Nat → Bool) (f : Nat → Nat → Nat) =>
        ∃ u, exec i s = .next u ∧ s.vecDone u lat d t.cw (eltCount t) act (fun c i => (f c i, 0#5))
      makes (.vmov d a t k) 2 (s.acts t k) (fun c i => s.elt t a c i % 2 ^ t.valBits) ∧
      (∀ r : SReg, makes (.vsplat d r t k) 2 (s.acts t k) (fun _ _ => (s.rs r).toNat % 2 ^ t.valBits)) ∧
      makes (.vperm d a b t k) 3 (s.acts t k) (fun c i =>
        s.elt t a c (if t.cw = 4 then 16 * (i / 16) + s.elt t b c i else s.elt t b c i % eltCount t) % 2 ^ t.valBits) ∧
      (∀ n : Fin 8, makes (.vxch d a n t k) 8 (s.acts t k) (fun c i => s.elt t a (c ^^^ n.val) i % 2 ^ t.valBits)) ∧
      makes (.vsel d a b t k) 2 (fun _ _ => true) (fun c i =>
        s.elt t (if s.acts t k c i then a else b) c i % 2 ^ t.valBits) ∧
      (t.isF = false → makes (.vclamp d a b t k) 2 (s.acts t k) (fun c i =>
        truncI t.cw (min (max (intVal t (s.elt t d c i)) (intVal t (s.elt t a c i))) (intVal t (s.elt t b c i))))) ∧
      (t.isF = true → s.vecMakes (.vclamp d a b t k) 3 d t.cw (eltCount t) (s.acts t k) (fun c i =>
        let x := fun r => decodeFloat (fmtOf t) (s.elt t r c i)
        let m := xmax (x d) (x a)
        ((roundArith (fmtOf t) (xmin m.1 (x b)).1).1, m.2 ||| (xmin m.1 (x b)).2)))) ∧
  (∀ (s : State) (d : SReg) (a : VReg) (b v : SReg) (t : ETy) (k : KSel),
      let e := (s.rs b).toNat % (8 * eltCount t)
      let c := e / eltCount t
      let i := e % eltCount t
      let x := s.elt t a c i % 2 ^ t.valBits
      (s.issue.cmask.getLsbD c && s.acts t k c i) = true →
        (s.scalarFits d = true → ∃ y : Word, exec (.vget d a b t k) s = .next (s.scalarResult 4 d y) ∧
          (y.toInt = if t.signed then sextN t.cw x else (x : Int))) ∧
        (s.cx.undoFits (.v a.val) = true → exec (.vput a v b t k) s = .next (s.sent (.v a.val)
          [s.write 2 (.v a.val c) (ones t.cw * 2 ^ (t.cw * i)) ((s.rs v).toNat % 2 ^ t.valBits * 2 ^ (t.cw * i))]))) ∧
  (∀ (s : State) (d : SReg) (a : VReg) (b v : SReg) (t : ETy) (k : KSel),
      let e := (s.rs b).toNat % (8 * eltCount t)
      (s.issue.cmask.getLsbD (e / eltCount t) && s.acts t k (e / eltCount t) (e % eltCount t)) = false →
        exec (.vget d a b t k) s = .next s ∧ exec (.vput a v b t k) s = .next s)

/-- R445, R441: VFMA rounds the exact va * vb + vd once; VDOT adds the exact products of each 32-bit element to vd and saturates.
Both land on t + 4. R457: elements that do not take part enter as the identity; VRED writes the reduction into element 0 and
zero elsewhere, VSCAN the reduction of elements 0 to i into element i, whatever K says of vd. The identities are those of R457. Integer add wraps;
integer min and max are the least and the greatest; and, or and xor work bit by bit. Float min and max are the canonical NaN if an
element is NaN, else the least and the greatest element, -0 below +0, and set INV alone, for a signalling NaN. R445: VFMA of zero
times infinity, of NaN and of infinities. R167, R160: a float sum is the exact sum rounded once, or under profile 2 the tree and the
running sum of R160, with the flags of every node; R162: a sum with a NaN or both infinities is NaN, one with an infinity that
infinity, and INV is set by both infinities or a signalling NaN. That the exact sum begins at -0 is the model's choice (log 65). -/
def Obligations.VectorReductions : Prop :=
  (∀ (s : State) (d a b : VReg) (t : ETy) (k : KSel), s.vecFits d = true →
      s.vecMakes (.vfma d a b t k) 4 d t.cw (eltCount t) (s.acts t k) (fun c i =>
        let x := fun r => decodeFloat (fmtOf t) (s.elt t r c i)
        let r := xfma (x a) (x b) (x d)
        ((roundArith (fmtOf t) r.1).1, r.2 ||| (roundArith (fmtOf t) r.1).2)) ∧
      (∀ x y z : XVal,
        let zeroInf := x.isZero = true ∧ (∃ n, y = .inf n) ∨ (∃ n, x = .inf n) ∧ y.isZero = true
        (zeroInf → xfma x y z = (.nan false, fINV)) ∧
        (¬ zeroInf → (x.isNan || y.isNan || z.isNan) = true →
          xfma x y z = (.nan false, if x.isSnan || y.isSnan || z.isSnan then fINV else 0#5)) ∧
        (¬ zeroInf → (x.isNan || y.isNan || z.isNan) = false → xfma x y z = xadd (xmul x y).1 z)) ∧
      s.vecMakes (.vdot d a b t k) 4 d 32 64 (s.acts .s32 k) (fun c j =>
        let total := sextN 32 (s.elt .s32 d c j) + (((List.range (32 / t.cw)).map (fun m =>
          intVal t (s.elt t a c (32 / t.cw * j + m)) * intVal t (s.elt t b c (32 / t.cw * j + m)))).sum : Int)
        (truncI 32 (max (-2 ^ 31) (min (2 ^ 31 - 1) total)),
          if -2 ^ 31 ≤ total ∧ total < 2 ^ 31 then 0#5 else fSAT))) ∧
  ((∀ (s : State) (d a : VReg) (op : RedOp) (t : ETy) (k : KSel), s.vecFits d = true →
      let xs := fun c => (List.range (eltCount t)).map (fun i => if s.acts t k c i then s.elt t a c i else identity op t)
      s.vecMakes (.vred d a op t k) 7 d t.cw (eltCount t) (fun _ _ => true) (fun c i =>
        if i = 0 then reduceAll op t s.issue.prof (xs c) else (0, 0#5)) ∧
      s.vecMakes (.vscan d a op t k) 7 d t.cw (eltCount t) (fun _ _ => true) (fun c i =>
        (prefixes op t s.issue.prof (xs c)).getD i (0, 0#5))) ∧
    ∀ (t : ETy) (prof : Nat) (x : Nat) (xs : List Nat), t.isInt = true →
      intVal t (reduceAll .min t prof (x :: xs)).1 = xs.foldl (fun m y => min m (intVal t y)) (intVal t x) ∧
      intVal t (reduceAll .max t prof (x :: xs)).1 = xs.foldl (fun m y => max m (intVal t y)) (intVal t x) ∧
      (reduceAll .add t prof (x :: xs)).1 = truncI t.cw ((x :: xs).map (intVal t)).sum ∧
      ∀ op i, i < xs.length → ((prefixes op t prof xs).getD i (0, 0#5)).1 = (reduceAll op t prof (xs.take (i + 1))).1) ∧
  ((∀ (t : ETy), identity .add t = 0 ∧ identity .or t = 0 ∧ identity .xor t = 0 ∧ identity .and t = 2 ^ t.cw - 1 ∧
      (t.isF = true → decodeFloat (fmtOf t) (identity .min t) = .inf false ∧ decodeFloat (fmtOf t) (identity .max t) = .inf true) ∧
      (t.isInt = true → identity .min t < 2 ^ t.cw ∧ identity .max t < 2 ^ t.cw ∧
        ∀ x, intVal t x ≤ intVal t (identity .min t) ∧ intVal t (identity .max t) ≤ intVal t x)) ∧
    (∀ (t : ETy) (prof : Nat) (xs : List Nat) (j : Nat), t.isF = false → j < t.cw →
      ((reduceAll .and t prof xs).1.testBit j = true ↔ ∀ x ∈ xs, x.testBit j = true) ∧
      ((reduceAll .or t prof xs).1.testBit j = true ↔ ∃ x ∈ xs, x.testBit j = true) ∧
      ((reduceAll .xor t prof xs).1.testBit j = true ↔ xs.countP (fun x => x.testBit j) % 2 = 1)) ∧
    (∀ (op : RedOp) (t : ETy) (prof : Nat) (xs : List Nat), t.isF = false → (reduceAll op t prof xs).2 = 0#5) ∧
    ∀ (t : ETy) (prof : Nat) (xs : List Nat), t.isF = true → xs ≠ [] → (∀ x ∈ xs, x < 2 ^ t.cw) →
      let dec := decodeFloat (fmtOf t)
      ((∃ x ∈ xs, (dec x).isNan = true) → ∀ op ∈ [RedOp.min, RedOp.max],
        reduceAll op t prof xs = (canonNan (fmtOf t), if xs.any (fun x => (dec x).isSnan) = true then fINV else 0#5)) ∧
      ((∀ x ∈ xs, (dec x).isNan = false) →
        (∃ m ∈ xs, reduceAll .min t prof xs = (m, 0#5) ∧ ∀ x ∈ xs, xlt (dec x) (dec m) = false) ∧
        ∃ m ∈ xs, reduceAll .max t prof xs = (m, 0#5) ∧ ∀ x ∈ xs, xlt (dec m) (dec x) = false)) ∧
  /- A float sum of profiles 0, 1 and 3 is the exact sum rounded once; of profile 2 the tree or the running sum of R160. -/
  ∀ (t : ETy) (xs : List Nat), t.isF = true →
    let dec := decodeFloat (fmtOf t)
    (∀ prof, prof ≠ 2 → xs ≠ [] →
      let has := fun (v : XVal) => ∃ x ∈ xs, dec x = v
      let both := has (.inf false) ∧ has (.inf true)
      let sum := reduceAll .add t prof xs
      ((∀ x ∈ xs, ∃ n m e, dec x = .fin n m e) →
        sum = roundArith (fmtOf t) (xs.foldl (fun a x => (xadd a (dec x)).1) (.fin true 0 0))) ∧
      ((∃ x ∈ xs, (dec x).isNan = true) ∨ both → sum.1 = canonNan (fmtOf t) ∧
        (both ∨ has (.nan true) → sum.2 = fINV) ∧ (¬ (both ∨ has (.nan true)) → sum.2 = 0#5)) ∧
      (∀ n, has (.inf n) → ¬ has (.inf !n) → (∀ x ∈ xs, (dec x).isNan = false) → sum = (infBits (fmtOf t) n, 0#5)) ∧
      ∀ i < xs.length, (prefixes .add t prof xs).getD i (0, 0#5) = reduceAll .add t prof (xs.take (i + 1))) ∧
    -- A node of profile 2 is one addition, rounded, with its flags; the flags of all nodes are ORed.
    let node := fun (p q : Nat × Flags) =>
      let r := xadd (dec p.1) (dec q.1)
      let y := roundArith (fmtOf t) r.1
      (y.1, p.2 ||| q.2 ||| r.2 ||| y.2)
    (reduceAll .add t 2 xs = treeSum (fmtOf t) (eltCount t).log2 xs) ∧
    (∀ x, treeSum (fmtOf t) 0 [x] = (x, 0#5)) ∧
    (∀ lv, xs.length = 2 ^ (lv + 1) → treeSum (fmtOf t) (lv + 1) xs =
      node (treeSum (fmtOf t) lv (xs.take (2 ^ lv))) (treeSum (fmtOf t) lv (xs.drop (2 ^ lv)))) ∧
    ∀ i < xs.length, (prefixes .add t 2 xs).getD i (0, 0#5) =
      node (if i = 0 then (0, 0#5) else (prefixes .add t 2 xs).getD (i - 1) (0, 0#5)) (xs.getD i 0, 0#5)

/-- R439, R443, R444: VCVT converts each element that both types have, on t + 3, and keeps the others; VQNT writes the codes of
two blocks, their scale bytes and zeros into every byte of vd, and VDQNT the 64 values of those codes, a block whose scale is
0xFF as NaN, both on t + 6, and keeps elements 64 and above. Each sets the flags of its elements. R144, R145, R483: rounding
takes a neighbour on the grid: the nearer, the even one on a tie, toward zero, down, up, or by the draw; R138, R148: the value
of a rounded pattern, what overflows, and the conversion of NaN, infinities, zero and numbers beyond the range. R153, R154: the
scale, and each code and its flags: rounded on the grid of the code set, clamped at its largest code, +0 for zero; INX, UNF,
SAT for an infinity or AQ4 past its top, OVF for MX float codes alone (for AQ4 that is log 65). R140, R142: the value of a code. That the grid goes on past the largest value with the
spacing of its binade is R483; that SR under IOV gives an infinity to a value beyond the largest that is on that grid exactly is
the model's choice (log 65). -/
def Obligations.VectorConversions : Prop :=
  (∀ (s : State) (m : RMode) (d a : VReg) (iov : Bool) (kind aty : Fin 4) (ts t : ETy) (k : KSel), s.vecFits d = true →
    s.vecMakes (.vcvt m d a iov ts t k) 3 d t.cw (eltCount t) (fun c i => s.acts t k c i && decide (i < min (eltCount ts) (eltCount t)))
      (fun c i =>
        let x := s.elt ts a c i
        if ts = t ∧ ts.isInt then (x, 0#5) else convert t m (s.draw 4 (512 * c + i)) iov ts.isInt (elemVal ts x)) ∧
    (t.cw = 4 ∨ t.cw = 8 →
      let x := fun (c b j : Nat) => if s.acts .f32 k c (32 * b + j) then decodeFloat F32 (s.elt .f32 a c (32 * b + j)) else XVal.zero
      let block := fun (c b : Nat) =>
        quantise kind.val aty.val t m (fun j => s.draw 4 (512 * c + 32 * b + j)) ((List.range 32).map (x c b))
      let flags := s.clusters.foldr (fun c g => (block c 0).2.2 ||| (block c 1).2.2 ||| g) 0#5
      s.flagFits flags = true →
      ∃ u, exec (.vqnt m d a kind aty t k) s = .next u ∧ ∃ ws, s.flies u 6 (fun c => .v d.val c) ws ∧ flagsIn ws = flags ∧
      ∀ c ∈ s.clusters, ∃ w ∈ ws, w.dst = .v d.val c ∧ w.mask = ones 2048 ∧
        (∀ b < 2, elem w.val 8 (codeBytes t + b) = (block c b).1 % 256 ∧
          ∀ j < 32, elem w.val t.cw (32 * b + j) = ((block c b).2.1.getD j 0) % 2 ^ t.cw) ∧
        ∀ j, codeBytes t + 2 ≤ j → elem w.val 8 j = 0) ∧
    (t.isF = true → s.vecMakes (.vdqnt d a kind ts t k) 6 d t.cw (eltCount t) (fun c i => s.acts t k c i && decide (i < 64)) (fun c i =>
      let scale := elem (s.rv a c) 8 (codeBytes ts + i / 32)
      let r := toFloat (fmtOf t) .rne 0 false (codeVal kind.val ts scale (s.elt ts a c i))
      (r.1, if scale = 0xFF then fINV else r.2)))) ∧
  (∀ (mode : RMode) (u m : Nat) (neg : Bool) (e q : Int),
    let r := roundMag mode u neg m e q
    let g := 2 ^ (q - e).toNat
    (q ≤ e → r = (m * 2 ^ (e - q).toNat, false, false)) ∧
    (e < q → (m % g = 0 → r = (m / g, false, false)) ∧
      (m % g ≠ 0 → r.2.1 = true ∧ (r.1 = m / g ∧ r.2.2 = false ∨ r.1 = m / g + 1 ∧ r.2.2 = true) ∧
        (match mode with
          | .rne => 2 * r.1 * g ≤ 2 * m + g ∧ 2 * m ≤ 2 * r.1 * g + g ∧ (2 * (m % g) = g → r.1 % 2 = 0)
          | .rtz => r.1 = m / g
          | .rdn => r.1 = if neg then m / g + 1 else m / g
          | .rup => r.1 = if neg then m / g else m / g + 1
          | .sr => (neg = false → (r.2.2 = true ↔ u < m % g * 2 ^ 24 / g)) ∧
            (neg = true → (r.2.2 = false ↔ u < (g - m % g) * 2 ^ 24 / g)))))) ∧
  (∀ (t : ETy) (f : FFmt) (mode : RMode) (u m : Nat) (neg : Bool) (e : Int), ffmt t = some f → 0 < m →
    let q : Int := min (max (expOf m e) (1 - (f.bias : Int))) f.top - f.m
    let r := roundGrid f mode u neg m e
    let n := (roundMag mode u neg m e q).1
    (∃ m' e', decodeFloat f (maxMag f) = .fin false m' e' ∧ 0 < m' ∧ expOf m' e' = f.top) ∧
    2 ^ (expOf m e - e).toNat ≤ m ∧ m < 2 ^ (expOf m e - e + 1).toNat ∧ r.2 = (roundMag mode u neg m e q).2 ∧
    (r.1 ≤ maxMag f → ∃ m' e', decodeFloat f (withSign f neg r.1) = .fin neg m' e' ∧ xeq (.fin neg m' e') (.fin neg n q) = true) ∧
    (maxMag f < r.1 → ∀ y m' e', y ≤ maxMag f → decodeFloat f y = .fin false m' e' → xlt (.fin false m' e') (.fin false n q) = true) ∧
    roundArith f (.fin neg m e) = (if maxMag f < (roundGrid f .rne 0 neg m e).1 then (infBits f neg, fOVF ||| fINX)
      else (withSign f neg (roundGrid f .rne 0 neg m e).1, (if (roundGrid f .rne 0 neg m e).2.1 then fINX else 0#5) |||
        if (roundGrid f .rne 0 neg m e).2.1 && decide (expOf m e < 1 - (f.bias : Int)) then fUNF else 0#5))) ∧
  (∀ (t : ETy) (mode : RMode) (u : Nat) (iov src : Bool),
    let conv := convert t mode u iov src
    (∀ f, ffmt t = some f →
      let top := fun (n : Bool) => withSign f n (maxMag f)
      roundArith f (.nan false) = (canonNan f, 0#5) ∧ (∀ n, roundArith f (.inf n) = (infBits f n, 0#5)) ∧
      (∀ n e, roundArith f (.fin n 0 e) = (withSign f n 0, 0#5) ∧ conv (.fin n 0 e) = (withSign f n 0, 0#5)) ∧
      (∀ sig, conv (.nan sig) = if f.hasNan then (canonNan f, if sig then fINV else 0#5) else (0, fINV)) ∧
      (∀ n, conv (.inf n) = if f.hasInf then (infBits f n, 0#5) else if t = .e4m3 ∧ iov then (0x7F, fINV) else (top n, fSAT)) ∧
      ∀ n m e, 0 < m →
        let r := roundGrid f mode u n m e
        (r.1 ≤ maxMag f → conv (.fin n m e) = (withSign f n r.1, (if r.2.1 then fINX else 0#5) |||
          if r.1 = 0 ∨ (r.2.1 = true ∧ expOf m e < 1 - (f.bias : Int)) then fUNF else 0#5)) ∧
        (maxMag f < r.1 →
          (iov = false ∨ (f.hasInf = false ∧ t ≠ .e4m3) → conv (.fin n m e) = (top n, fOVF ||| fINX ||| fSAT)) ∧
          (iov = true → t = .e4m3 → conv (.fin n m e) = (0x7F, fOVF ||| fINX ||| fINV)) ∧
          (iov = true → f.hasInf = true → conv (.fin n m e) =
            (if mode = .rne ∨ (mode = .rdn ∧ n = true) ∨ (mode = .rup ∧ n = false) ∨ (mode = .sr ∧ (r.2.1 = false ∨ r.2.2 = true))
              then infBits f n else top n, fOVF ||| fINX)))) ∧
    (t.isInt = true →
      conv (.nan false) = (0, fINV) ∧ (∀ n, conv (.inf n) = (truncI t.cw (if n then intLo t else intHi t), fSAT)) ∧
      ∀ n m e,
        let r := roundMag mode u n m e 0
        let v : Int := if n then -(r.1 : Int) else r.1
        let fl := (if r.2.1 then fINX else 0#5) ||| if r.1 = 0 ∧ m ≠ 0 then fUNF else 0#5
        (intLo t ≤ v → v ≤ intHi t → conv (.fin n m e) = (truncI t.cw v, fl)) ∧
        (v < intLo t ∨ intHi t < v → conv (.fin n m e) = if iov && src then (truncI t.cw v, fl)
          else (truncI t.cw (max (intLo t) (min (intHi t) v)), fl ||| fSAT)))) ∧
  (∀ (kind aty : Fin 4) (t : ETy) (mode : RMode) (draw : Nat → Nat) (xs : List XVal), kind.val < 2 →
    let r := quantise kind.val aty.val t mode draw xs
    r.2.1.length = xs.length ∧
    (xs.any XVal.isNan = true → r.1 = 0xFF ∧ (∀ c ∈ r.2.1, c = 0) ∧ r.2.2 = fINV) ∧
    (xs.any XVal.isNan = false →
      (∀ x ∈ xs, x.isZero = true) → r.1 = (if kind.val = 0 then 0 else aty.val * 64) ∧ (∀ c ∈ r.2.1, c = 0) ∧ r.2.2 = 0#5) ∧
    (xs.any XVal.isNan = false → (kind.val = 0 → t ∈ [ETy.s8, .e4m3, .e5m2, .e3m2, .e2m3, .e2m1]) →
      let X : Int := if kind.val = 0 then r.1 - 127 else (r.1 % 64 : Nat) - 32
      -- The largest magnitude of the code set, in units of 2^-6, and the codes of largest magnitude.
      let lim := fun (n : Bool) =>
        if kind.val = 0 then [127, 448 * 64, 57344 * 64, 28 * 64, 480, 6 * 64].getD ([ETy.s8, .e4m3, .e5m2, .e3m2, .e2m3].idxOf t) 0
        else [if n then 8 * 64 else 7 * 64, 6 * 64, 8 * 64, 12 * 64].getD aty.val 0
      let top := fun (n : Bool) =>
        if kind.val = 0 then (if t = .s8 then if n then 0x81 else 0x7F
          else [0x7E, 0x7B, 0x1F, 0x1F, 0x7].getD ([ETy.e4m3, .e5m2, .e3m2, .e2m3].idxOf t) 0 + if n then 2 ^ (t.valBits - 1) else 0)
        else if aty.val = 0 then (if n then 8 else 7) else if n then 15 else 7
      ∃ fs : List Flags, fs.length = xs.length ∧ r.2.2 = fs.foldl (· ||| ·) 0#5 ∧ ∀ i x, xs[i]? = some x →
        let u := draw i
        let c := r.2.1.getD i 0
        let fl := fs.getD i 0#5
        (x.isZero = true → c = 0 ∧ fl = 0#5) ∧ (∀ n, x = .inf n → c = top n ∧ fl = fSAT) ∧
        ∀ (n : Bool) (m : Nat) (e' : Int), x = .fin n m e' → 0 < m →
          let e := e' - X
          let beyond := lim n * 2 ^ (-6 - e).toNat < m * 2 ^ (e + 6).toNat
          let sets := fun (inexact past : Bool) => fl = ((if inexact || decide beyond then fINX else 0#5) |||
            (if kind.val = 1 ∧ beyond then fSAT else 0#5) ||| (if past then fOVF ||| fINX else 0#5) ||| if c = 0 then fUNF else 0#5)
          (∀ step w top', (kind.val, aty.val, step, w, top') ∈ [(0, aty.val, 6, 8, 127), (1, 0, 0, 4, if n then 8 else 7)] →
            kind.val = 1 ∨ t = .s8 →
            let g := roundMag mode u n m e (-step)
            c = truncI w (if n then -(min g.1 top' : Nat) else (min g.1 top' : Nat)) ∧ sets g.2.1 false) ∧
          (∀ f, kind.val = 0 ∧ ffmt t = some f ∨ kind.val = 1 ∧ aty.val = 1 ∧ ffmt .e2m1 = some f →
            let g := roundGrid f mode u n m e
            let mag := min g.1 (maxMag f)
            c = (if mag = 0 then 0 else withSign f n mag) ∧ sets g.2.1 (decide (kind.val = 0 ∧ maxMag f < g.1))) ∧
          (kind.val = 1 → 2 ≤ aty.val → ∀ lo < 8,
            -- The magnitudes of codes 0 to 7, in units of 2^-3; the element is num / den of those units.
            let mag := fun (j : Nat) => [[0, 1, 2, 4, 8, 16, 32, 64], [0, 8, 16, 24, 32, 48, 64, 96]].flatten.getD (8 * (aty.val - 2) + j) 0
            let num := m * 2 ^ (e + 3).toNat
            let den := 2 ^ (-3 - e).toNat
            mag lo * den ≤ num → lo = 7 ∨ num < mag (lo + 1) * den →
            let rest := num - mag lo * den
            let gap := (mag (lo + 1) - mag lo) * den
            let up := match mode with
              | .rne => decide (gap < 2 * rest ∨ (gap = 2 * rest ∧ lo % 2 = 1))
              | .rtz => false
              | .rdn => n
              | .rup => !n
              | .sr => if n then decide ((gap - rest) * 2 ^ 24 / gap ≤ u) else decide (u < rest * 2 ^ 24 / gap)
            let k := if 0 < rest ∧ lo < 7 ∧ up = true then lo + 1 else lo
            c = (if k = 0 then 0 else k + if n then 8 else 0) ∧ sets (decide (0 < rest)) false)) ∧
    ∀ m e, 0 < m → (∃ n, XVal.fin n m e ∈ xs) → (∀ n' m' e', XVal.fin n' m' e' ∈ xs → xlt (.fin false m e) (.fin false m' e') = false) →
      xs.any XVal.isNan = false →
      (kind.val = 0 → ∀ emax, (t, emax) ∈ [(ETy.s8, 0), (.e4m3, 8), (.e5m2, 15), (.e3m2, 4), (.e2m3, 2), (.e2m1, 2)] →
        (r.1 : Int) = 127 + max (-127) (min 127 (expOf m e - emax))) ∧
      (kind.val = 1 → ∃ k : Nat, k ≤ (if aty.val = 3 then 62 else 63) ∧ r.1 = aty.val * 64 + k ∧
        (k < (if aty.val = 3 then 62 else 63) → xlt (.fin false ([7, 6, 8, 12].getD aty.val 0) ((k : Int) - 32)) (.fin false m e) = false) ∧
        (0 < k → xlt (.fin false ([7, 6, 8, 12].getD aty.val 0) ((k : Int) - 33)) (.fin false m e) = true))) ∧
  (∀ (t : ETy) (scale code : Nat), scale < 255 → code < 2 ^ t.cw →
    (∀ kind, codeVal kind t 0xFF code = .nan false) ∧
    codeVal 0 t scale code = ((if t = .s8 then (elemVal t code).scale (-6) else elemVal t code).scale ((scale : Int) - 127)) ∧
    (scale / 64 = 0 → codeVal 1 t scale code = (elemVal .s4 code).scale ((scale % 64 : Nat) - 32 : Int)) ∧
    (scale / 64 = 1 → codeVal 1 t scale code = (elemVal .e2m1 code).scale ((scale % 64 : Nat) - 32 : Int)) ∧
    (scale / 64 = 2 → code < 16 → xeq (codeVal 1 t scale code)
      (.fin (decide (8 ≤ code)) (if code % 8 = 0 then 0 else 2 ^ (code % 8)) ((scale % 64 : Nat) - 36 : Int)) = true) ∧
    (scale / 64 = 3 → code < 16 → xeq (codeVal 1 t scale code)
      (.fin (decide (8 ≤ code)) ([0, 1, 2, 3, 4, 6, 8, 12].getD (code % 8) 0) ((scale % 64 : Nat) - 32 : Int)) = true))

/-- R371, R372: the eight special functions write one result to each active element on t + 12. R371: the special values of the
eight functions with the flags that they set: NaN operands, infinities, zeros, and logarithm and reciprocal root of negative
numbers; sine and cosine of integers and half-integers. R372: 2^x of integers, log2 of powers of two, and every 1 / x and 1 / sqrt x
are rounded once by RNE with the flags of the rounding, as any other result is of a number close to f(x) (SpecialFunctionAccuracy
says how close). -/
def Obligations.SpecialFunctions : Prop :=
  (∀ (s : State) (d a : VReg) (t : ETy) (k : KSel), s.vecFits d = true →
      ∀ p ∈ [(Instr.fexp2 d a t k, 1), (.flog2 d a t k, 2), (.frcp d a t k, 3), (.frsq d a t k, 4), (.ftanh d a t k, 5),
          (.fsig d a t k, 6), (.fsin d a t k, 7), (.fcos d a t k, 8)],
        s.vecMakes p.1 12 d t.cw (eltCount t) (s.acts t k) (fun c i => specialFn p.2 (fmtOf t) (s.elt t a c i))) ∧
  (∀ (t : ETy) (x : Nat), t.isF = true →
      let f := fmtOf t
      let one := fun (n : Bool) => withSign f n (f.bias * 2 ^ f.m)
      let zero := fun (n : Bool) => withSign f n 0
      let nan := (canonNan f, fINV)
      let ok := fun (v : Nat) => (v, 0#5)
      let fs := fun (op : Nat) => specialFn op f x
      (∀ sig, decodeFloat f x = .nan sig → ∀ op, fs op = (canonNan f, flagIf sig fINV)) ∧
      (decodeFloat f x = .inf true → (List.range' 1 8).map fs =
        [ok (zero false), nan, ok (zero true), nan, ok (one true), ok (zero false), nan, nan]) ∧
      (decodeFloat f x = .inf false → (List.range' 1 8).map fs =
        [ok (infBits f false), ok (infBits f false), ok (zero false), ok (zero false), ok (one false), ok (one false), nan, nan]) ∧
      (∀ n e, decodeFloat f x = .fin n 0 e → (List.range' 1 8).map fs =
        [ok (one false), ok (infBits f true), ok (infBits f n), ok (infBits f n), ok x, ok ((f.bias - 1) * 2 ^ f.m), ok x,
         ok (one false)]) ∧
      (∀ m e, decodeFloat f x = .fin true m e → 0 < m → fs 2 = nan ∧ fs 4 = nan) ∧
      ∀ n m e, decodeFloat f x = .fin n m e → 0 < m →
        -- Whether the magnitude of x is k, k + 1/2 or 2^j.
        let isInt := fun (k : Nat) => m * 2 ^ e.toNat = k * 2 ^ (-e).toNat
        let isHalf := fun (k : Nat) => 2 * m * 2 ^ e.toNat = (2 * k + 1) * 2 ^ (-e).toNat
        let isPow := fun (j : Int) => ∃ i : Nat, m = 2 ^ i ∧ j = e + i
        (∀ k, isInt k → fs 1 = roundArith f (.fin false 1 (if n then -(k : Int) else k)) ∧ fs 7 = ok (zero n) ∧
          fs 8 = ok (one (decide (k % 2 = 1)))) ∧
        (∀ k, isHalf k → fs 7 = ok (one (n != decide (k % 2 = 1))) ∧ fs 8 = ok (zero false)) ∧
        (∀ j, isPow j → fs 3 = roundArith f (.fin n 1 (-j)) ∧
          (n = false → fs 2 = roundArith f (XVal.ofInt j) ∧ (j % 2 = 0 → fs 4 = roundArith f (.fin false 1 (-(j / 2)))))) ∧
        -- Any other reciprocal or reciprocal root is no dyadic number: it rounds as numbers that enclose it do when they round alike.
        (∀ (lo hi : Nat) (q : Int), roundArith f (.fin n lo q) = roundArith f (.fin n hi q) → (∀ j, ¬ isPow j) →
          lo * m * 2 ^ (q + e).toNat < 2 ^ (-(q + e)).toNat → 2 ^ (-(q + e)).toNat < hi * m * 2 ^ (q + e).toNat →
          fs 3 = roundArith f (.fin n lo q)) ∧
        (∀ (lo hi : Nat) (q : Int), n = false → roundArith f (.fin n lo q) = roundArith f (.fin n hi q) → (∀ j, isPow j → j % 2 = 1) →
          lo * lo * m * 2 ^ (2 * q + e).toNat < 2 ^ (-(2 * q + e)).toNat →
          2 ^ (-(2 * q + e)).toNat < hi * hi * m * 2 ^ (2 * q + e).toNat → fs 4 = roundArith f (.fin n lo q)) ∧
        -- The flags of every other value are those of a rounding: INX, UNF and OVF as R144 and R138 give them.
        ∀ op ∈ List.range' 1 8, (op = 2 ∨ op = 4 → n = false) → (op = 1 → ∀ k, ¬ isInt k) → (op = 2 ∨ op = 3 → ∀ j, ¬ isPow j) →
          (op = 4 → ∀ j, isPow j → j % 2 = 1) → (op = 7 ∨ op = 8 → ∀ k, ¬ isInt k ∧ ¬ isHalf k) →
          ∃ k r q, 0 < r ∧ fs op = roundArith f (.fin k r q) ∧ (fs op).2 &&& fINX = fINX)

/-- R371, R372: the result of a special function of a finite nonzero element is the rounding of a number that encloses the exact
f(x), from below or from above, to within one part in 2^60; for f(x) closer than that to a point where the rounding changes, which
of the two stands is a free value of the model (log 7). R371: the functions, over the real numbers. -/
def Obligations.SpecialFunctionAccuracy : Prop :=
  ∀ (t : ETy) (x op : Nat) (n : Bool) (m : Nat) (e : Int), t.isF = true → decodeFloat (fmtOf t) x = .fin n m e → 0 < m →
    let real := fun (n : Bool) (m : Nat) (e : Int) => (if n then -1 else 1) * (m : ℝ) * (2 : ℝ) ^ e
    let y := real n m e
    ∀ g : ℝ, (op, g) ∈ [(1, (2 : ℝ) ^ y), (2, Real.logb 2 y), (5, Real.tanh y), (6, 1 / (1 + Real.exp (-y))), (7, Real.sin (Real.pi * y)),
        (8, Real.cos (Real.pi * y))] → (op = 2 → n = false) → g ≠ 0 →
      ∃ (lo hi : Nat) (q : Int), real false lo q ≤ |g| ∧ |g| ≤ real false hi q ∧ 2 ^ 60 * (hi - lo) ≤ lo ∧
        ∀ k, k = decide (g < 0) →
          specialFn op (fmtOf t) x = roundArith (fmtOf t) (.fin k lo q) ∨ specialFn op (fmtOf t) x = roundArith (fmtOf t) (.fin k hi q)

/-- R435: VCMP writes its truth to every mask bit of each active element, on t + 3 for floats and t + 2 for integers, and sets INV
for a signalling NaN or, in an ordered condition, any NaN. R380, R381:
the mask words compute all 256 bits of every enabled cluster on t + 2; KPOPC counts the set bits over the enabled clusters,
and KFIRST gives the position of the lowest, or 2048. With CMASK zero neither performs. -/
def Obligations.VectorMasks : Prop :=
  (∀ (s : State) (vc : VCond) (d : KReg) (a b : VReg) (t : ETy) (k : KSel), s.maskFits d = true → 8 ≤ t.cw →
      s.maskMakes (.vcmp vc d a b t k) (if t.isF then 3 else 2) d (t.cw / 8) (eltCount t) (s.acts t k) (fun c i =>
        let x := intVal t (s.elt t a c i)
        let y := intVal t (s.elt t b c i)
        let p := decodeFloat (fmtOf t) (s.elt t a c i)
        let r := decodeFloat (fmtOf t) (s.elt t b c i)
        let nan := p.isNan || r.isNan
        let truth := match vc with
          | .eq => if t.isF then !nan && xeq p r else decide (x = y)
          | .ne => if t.isF then nan || !xeq p r else decide (x ≠ y)
          | .lt => if t.isF then !nan && xlt p r && !xeq p r else decide (x < y)
          | .ge => if t.isF then !nan && !(xlt p r && !xeq p r) else decide (y ≤ x)
          | .le => if t.isF then !nan && (xlt p r || xeq p r) else decide (x ≤ y)
          | .gt => if t.isF then !nan && !(xlt p r || xeq p r) else decide (y < x)
          | .un => t.isF && nan
        let invalid := match vc with
          | .eq | .ne | .un => p.isSnan || r.isSnan
          | _ => nan
        (truth, if t.isF && invalid then fINV else 0#5))) ∧
  (∀ (s : State) (d a b : KReg) (r : SReg), s.maskFits d = true →
      let makes := fun (i : Instr) (f : Bool → Bool → Bool) =>
        ∃ u, exec i s = .next u ∧ s.maskDone u 2 d 1 256 (fun _ _ => true) (fun c i =>
          (f (tbit (s.rk a.val c) i) (tbit (s.rk b.val c) i), 0#5))
      makes (.kand d a b) (fun x y => x && y) ∧ makes (.kor d a b) (fun x y => x || y) ∧
      makes (.kxor d a b) (fun x y => x != y) ∧ makes (.knot d a) (fun x _ => !x) ∧
      (s.clusters = [] → exec (.kpopc r a) s = .next s ∧ exec (.kfirst r a) s = .next s) ∧
      (s.clusters ≠ [] → s.scalarFits r = true →
        (∃ v : Word, exec (.kpopc r a) s = .next (s.scalarResult 2 r v) ∧
          v.toNat = (s.clusters.map (fun c => (List.range 256).countP (fun i => tbit (s.rk a.val c) i))).sum) ∧
        ∃ v : Word, exec (.kfirst r a) s = .next (s.scalarResult 2 r v) ∧
          ((∀ c ∈ s.clusters, s.rk a.val c = 0) → v.toNat = 2048) ∧
          ∀ c ∈ s.clusters, ∀ i < 256, tbit (s.rk a.val c) i = true →
            v.toNat ≤ 256 * c + i ∧ v.toNat / 256 ∈ s.clusters ∧ tbit (s.rk a.val (v.toNat / 256)) (v.toNat % 256) = true))

/-! ### Local accesses (R101, R169 to R173, R263, R264, R341 to R344, R385, R386, R418, R419, R436, R437, R448 to R452) -/

/-- R385, R386: LD reads its little-endian bytes as they stood before the bundle and extends them; the value lands on t + 5. R449,
R451: VLD, VLDB and VLDS fill every enabled cluster of vd with bytes read on t, on t + 6 or, strided, t + 8. -/
def Obligations.LoadsPerform : Prop :=
  (∀ (s : State) (t : LdTy) (d b : SReg) (off : BitVec 12),
      let a : Int := (s.rs b).toNat + off.toInt * t.bytes
      let x := readLE s.issue.sp0 a.toNat t.bytes
      s.loadOk (.ld t d b off) (decide (a % t.bytes = 0)) false = true → s.scalarFits d = true →
      ∃ v : Word, exec (.ld t d b off) s = .next (s.scalarResult 5 d v) ∧
        (t.isSigned = true → v.toInt = sextN (8 * t.bytes) x) ∧ (t.isSigned = false → v.toNat = x)) ∧
  (∀ (s : State) (d : VReg) (b : SReg) (off : BitVec 12) (w : Width), s.vecFits d = true →
      let a := fun (n : Nat) => ((s.rs b).toNat + off.toInt * n : Int)
      let sp := s.issue.sp0
      (s.loadOk (.vld d b off) (decide (a 256 % 4 = 0)) false = true →
        ∃ u, exec (.vld d b off) s = .next u ∧ s.vecDone u 6 d 8 256 (fun _ _ => true) (fun c j =>
          ((mread sp ((a 256 + 256 * c).toNat + j)).toNat, 0#5))) ∧
      (s.loadOk (.vldb d b off) (decide (a 64 % 4 = 0)) false = true →
        ∃ u, exec (.vldb d b off) s = .next u ∧ s.vecDone u 6 d 8 256 (fun _ _ => true) (fun _ j =>
          ((mread sp ((a 64).toNat + j % 64)).toNat, 0#5))) ∧
      (s.loadOk (.vlds w d b off) ((s.touched (.vlds w d b off)).all (fun r => decide (r.1 % w.bytes = 0)))
          (bankRule ((s.touched (.vlds w d b off)).map (fun r => (r.1.toNat, r.2)))) = true →
        ∃ u, exec (.vlds w d b off) s = .next u ∧
          s.vecDone u 8 d (8 * w.bytes) (256 / w.bytes) (fun _ _ => true) (fun c i =>
            (readLE sp (a w.bytes + (256 / w.bytes * c + i : Nat) * (s.rs (b + 1)).toInt).toNat w.bytes, 0#5))))

/-- R418, R419: ST stores the low bytes of its register on t, and every other byte of memory keeps its value. R450: each VST
stores byte j of cluster c when bit j of its mask is set, and every other byte of memory keeps its value. R451: VSTS stores
each element at its lane's address; where lanes overlap the higher stands; every other byte keeps its value. -/
def Obligations.StoresPerform : Prop :=
  (∀ (s : State) (w : Width) (d b : SReg) (off : BitVec 9) (col : Colour), Memory.wf s.tl.sp = true →
      let a : Int := (s.rs b).toNat + off.toInt * w.bytes
      s.storeOk (.st w d b off col) (decide (a % w.bytes = 0)) false (bytesAt a.toNat w.bytes (s.rs d).toNat) = true →
      ∃ t, exec (.st w d b off col) s = .next t ∧ s.stored t (fun x =>
        if a.toNat ≤ x ∧ x < a.toNat + w.bytes then some (byteOf (s.rs d).toNat (x - a.toNat)) else none)) ∧
  (∀ (s : State) (d : VReg) (b : SReg) (off : BitVec 9) (col : Colour), Memory.wf s.tl.sp = true →
      let a : Int := (s.rs b).toNat + off.toInt * 256
      ∀ p ∈ [(Instr.vstK0 d b off col, 0), (.vstK1 d b off col, 1), (.vstK2 d b off col, 2), (.vstK3 d b off col, 3)],
        s.storeOk p.1 (decide (a % 4 = 0)) false (s.vstBytes p.2 d a) = true →
        ∃ t, exec p.1 s = .next t ∧ s.stored t (fun x =>
          let c := ((x - a) / 256).toNat
          let j := ((x - a) % 256).toNat
          if a ≤ x ∧ c ∈ s.clusters ∧ tbit (s.rk p.2 c) j = true then some (byteOf (s.rv d c) j) else none)) ∧
  (∀ (s : State) (w : Width) (d : VReg) (b : SReg) (off : BitVec 9) (col : Colour), Memory.wf s.tl.sp = true →
      let n := 256 / w.bytes
      let at' := fun (c i : Nat) =>
        ((s.rs b).toNat + off.toInt * w.bytes + (n * c + i : Nat) * (s.rs (b + 1)).toInt : Int).toNat
      let covers := fun (c i x : Nat) => at' c i ≤ x ∧ x < at' c i + w.bytes
      let i := Instr.vsts w d b off col
      s.storeOk i ((s.touched i).all (fun r => decide (r.1 % w.bytes = 0)))
          (bankRule ((s.touched i).map (fun r => (r.1.toNat, r.2)))) (s.vstsBytes d b off.toInt w) = true →
      ∃ t put, exec i s = .next t ∧ s.stored t put ∧
        (∀ x, (∀ c ∈ s.clusters, ∀ i < n, ¬ covers c i x) → put x = none) ∧
        ∀ c ∈ s.clusters, ∀ i < n, ∀ x, covers c i x →
          (∀ c' ∈ s.clusters, ∀ i' < n, n * c + i < n * c' + i' → ¬ covers c' i' x) →
          put x = some (byteOf (elem (s.rv d c) (8 * w.bytes) i) (x - at' c i)))

/-- R341, R342, R263: an atomic leaves its new value in memory, its old value in sd on t + 5, extended as its form says, and
reserves its bank to t + 2; ACAS writes only when it finds what it compares with. No other byte changes, and the gate holds
the row whether or not it is written. R436, R264: VCSQ stores the active elements of the enabled clusters, packed in order, at the
pointer, moves the pointer past them, and leaves their number in sd on t + 2. The bank is free when no operation in flight reads it
from t to t + 2 (R263; that the word which would reserve it raises 0x102 for t + 1 and t + 2 is log 68). -/
def Obligations.AtomicsPerform : Prop :=
  (∀ (s : State) (d a b : SReg) (w u : Bool) (col : Colour), Memory.wf s.tl.sp = true → s.scalarFits d = true →
      let n := if w then 64 else 32
      let at' := (s.rs a).toNat
      let old := readLE s.issue.sp0 at' (n / 8)
      let opnd := (s.rs b).toNat % 2 ^ n
      let le := fun (u : Bool) (x y : Nat) => if u then decide (x ≤ y) else decide (sextN n x ≤ sextN n y)
      let rows := rowsOfRanges [(at', n / 8)]
      ∀ p ∈ [(Instr.aadd d a b w col, (old + opnd) % 2 ^ n, false, true),
          (.amin d a b w u col, if le u old opnd = true then old else opnd, u, true),
          (.amax d a b w u col, if le u opnd old = true then old else opnd, u, true),
          (.aand d a b w col, old &&& opnd, false, true), (.aor d a b w col, old ||| opnd, false, true),
          (.axor d a b w col, old ^^^ opnd, false, true), (.aswap d a b w col, opnd, false, true),
          (.acas d a b w col, opnd, false, decide (old = (s.rs d).toNat % 2 ^ n))],
        s.accessOk [((at' : Int), n / 8)] true (decide (at' % (n / 8) = 0))
          (rows.any (fun r => s.issue.mbBanks.contains (bankOf r) || s.readSoon (bankOf r)))
          (eccRead s.issue.bad0 [(64 * (at' / 64), 64)]) = true →
        s.rowsFit (bytesAt at' (n / 8) p.2.1) = true →
        ∃ (t : State) (v : Word), exec p.1 s = .next t ∧ s.onlyLocal t ∧
          t.cx.undo = (s.scalarResult 5 d v).cx.undo ∧ t.cx.inFlight = (s.scalarResult 5 d v).cx.inFlight ∧
          (n = 32 ∧ p.2.2.1 = false → v.toInt = sextN 32 old) ∧ (n = 64 ∨ p.2.2.1 = true → v.toNat = old) ∧
          (∀ x, mread t.tl.sp x =
            if p.2.2.2 = true ∧ at' ≤ x ∧ x < at' + n / 8 then byteOf p.2.1 (x - at') else mread s.tl.sp x) ∧ t.cx.rows.any (fun r => r.row == at' / 64) = true ∧
          ∀ r, r ∈ t.tl.resv ↔ r = (bankOf (at' / 64), s.cycle + 2) ∨ (r ∈ s.tl.resv ∧ s.cycle ≤ r.2)) ∧
  (∀ (s : State) (d : SReg) (a : VReg) (b : SReg) (t : ETy) (k : KSel), Memory.wf s.tl.sp = true → s.scalarFits d = true →
      let pa := (s.rs b).toNat
      let es := s.squeeze a t k
      let n := cdiv (es.length * t.cw) 8
      let p := readLE s.issue.sp0 pa 8
      let rs := s.vcsqRanges a pa t k
      s.accessOk rs true (decide (pa % 8 = 0) && decide (p % max 1 (t.cw / 8) = 0))
          ((rowsOfRanges (rs.map (fun r => (r.1.toNat, r.2)))).any (fun r => s.issue.mbBanks.contains (bankOf r))
            || s.readSoon (bankOf (pa / 64)))
          (eccRead s.issue.bad0 [(pa, 8)]) = true →
      s.rowsFit (s.vcsqBytes a pa t k) = true →
      ∃ u, exec (.vcsq d a b t k) s = .next u ∧ s.onlyLocal u ∧
        u.cx.undo = (s.scalarResult 2 d (BitVec.ofNat 64 es.length)).cx.undo ∧
        u.cx.inFlight = (s.scalarResult 2 d (BitVec.ofNat 64 es.length)).cx.inFlight ∧
        readLE u.tl.sp pa 8 = (p + n) % 2 ^ 64 ∧
        (p + n ≤ pa ∨ pa + 8 ≤ p → ∀ m < es.length, elem (readLE u.tl.sp p n) t.cw m = es.getD m 0) ∧
        ∀ x, ¬ (p ≤ x ∧ x < p + n) → ¬ (pa ≤ x ∧ x < pa + 8) → mread u.tl.sp x = mread s.tl.sp x)

/-! ### The matrix engine (R85, R110, R230 to R248, R391 to R398, R401 to R409) -/

/-- R395, R405, R401, R238: MCFG sets the pair, MSWAP flips the plane selector, and MLDW sends a load of the shadow plane on its
way, which completes on t + 4 + n for n cycles of codes. The pair and the selector keep what they replace in an undo entry;
MLDW sets the plane hazard. R403, R404, R407, R408, R409, R282: MMUL, MVEC and MZERO enter the engine with their landing
cycles, t + 24 + rows * CADENCE, t + 20 + steps * CADENCE and t + 2; a word that adds in place sets the tile hazard of its
accumulator. (That MMUL and MVEC of a float profile take the undo entry of VSTAT at their issue is the model's choice, log 44.) -/
def Obligations.MatrixWordsPerform : Prop :=
  (∀ (s : State) (a b : SReg) (bands : BitVec 4), s.xOwned = false →
      let x := s.cx
      let busy := fun (p : MatOp → Bool) => x.matOps.any p
      ((s.rs a).toNat < 18 → (s.rs b).toNat < 18 →
        busy (fun o => o.kind == .mmul || o.kind == .mvec || o.kind == .mldw) = false → x.undoFits .pair = true →
        ∃ t, exec (.mcfg a b) s = .next t ∧
          t = s.setCx { x with pair := some ((s.rs a).toNat, (s.rs b).toNat), undo := t.cx.undo } ∧
          (hasKey x.undo .pair = false → t.cx.undo = x.undo ++ [⟨.pair, some (x.keyVal .pair)⟩])) ∧
      (busy (fun o => o.kind == .mldw) = false → (x.shadowPlane.sparse && !x.shadowPlane.routesOk) = false →
        x.undoFits .sel = true →
        ∃ t, exec .mswap s = .next t ∧ t = s.setCx { x with sel := !x.sel, undo := t.cx.undo } ∧
          (hasKey x.undo .sel = false → t.cx.undo = x.undo ++ [⟨.sel, some (x.keyVal .sel)⟩])) ∧
      ∀ fa w, x.pair = some (fa, w) → x.effBands bands ≠ [] →
        let op := s.mldwOp w (s.rs a).toNat (s.rs b).toNat (x.effBands bands)
        busy (fun o => o.kind == .mmul && o.planeId == x.shadowId) = false →
        (s.rs a).toNat % 64 = 0 → (s.rs b).toNat % 64 = 0 → x.spBad op.loadRanges = none → s.xReserved op = none →
        exec (.mldw a b bands) s = .next (s.setCx { x with matOps := x.matOps ++ [op], planeHaz := true }) ∧
          op.lands = s.cycle + 4 + mldwCycles w (x.effBands bands).length ∧ op.planeId = x.shadowId) ∧
  (∀ (s : State) (acc : ATile) (a b : SReg) (aip : Bool) (bands q : BitVec 4), s.xOwned = false →
      acc.val < s.cx.accCnt.toNat →
      let x := s.cx
      let haz := if aip then x.tileHaz ||| BitVec.ofNat 16 (2 ^ acc.val) else x.tileHaz
      let y := if s.issue.prof = 3 then x else x.logged (.cr 0x024)
      (s.issue.prof = 3 ∨ x.undoFits (.cr 0x024) = true → ∀ fa w,
        x.pair = some (fa, w) → x.effBands bands ≠ [] → badPair s.issue.prof fa w = false →
        let rows := (s.rs b).toNat
        let op := s.mmulOp acc fa w (s.rs a).toNat rows aip (x.effBands bands)
        1 ≤ rows → rows ≤ 128 → (∀ f, x.activePlane.fmt = some f → f = w) → (s.rs a).toNat % 64 = 0 →
        x.spBad op.actRows = none → s.xReserved op = none →
        exec (.mmul acc a b aip bands) s = .next (s.setCx { y with matOps := x.matOps ++ [op], tileHaz := haz }) ∧
          op.lands = s.cycle + 24 + rows * x.cadence.toNat ∧ op.plane = x.activePlane) ∧
      (s.issue.prof = 3 ∨ x.undoFits (.cr 0x024) = true → ∀ fa w,
        x.pair = some (fa, w) → x.effBands bands ≠ [] → badPair s.issue.prof fa w = false →
        let op := s.mvecOp acc fa w (s.rs a).toNat (s.rs b).toNat aip (x.effBands bands)
        mvecBad (s.rs b).toNat w = false → (s.rs a).toNat % 64 = 0 → x.spBad op.vecRanges = none → s.xReserved op = none →
        exec (.mvec acc a b aip bands) s = .next (s.setCx { y with matOps := x.matOps ++ [op], tileHaz := haz }) ∧
          op.lands = s.cycle + 20 + cdiv (bits (s.rs b).toNat 0 13) 32 * x.cadence.toNat ∧
          op.row = bits (s.rs b).toNat 16 7) ∧
      ∃ t op, exec (.mzero acc q) s = .next t ∧ t = s.setCx { x with matOps := x.matOps ++ [op] } ∧ op.kind = .mzero ∧
        op.acc = x.accBase.toNat + acc.val ∧ op.lands = s.cycle + 2 ∧
        ∀ r < 128, r ∈ quarterRows (BitVec.ofNat 4 op.k) ↔ q = 0#4 ∨ q.getLsbD (r / 32) = true)

/-- R396, R397: MDRN converts the selected rows; to registers, each element of the stream lands in its place on t + 6 + R / 4 for
R rows; to the scratchpad, the rows wait in a push; the flags of the conversion land too. The tile is held from later writes until t + 2 + R / 4. R391, R392, R393:
MACCD reads the selected rows on t and pushes them to be added at sa + r * sb, into the scratchpad or the virtual space. R245,
R397: each element is the f32, or under profile 3 the s32, converted to TYPE by MODE and IOV; clamp puts the limit of TYPE for an
infinity, which sets SAT, and +0 for a NaN, which sets INV. -/
def Obligations.AccumulatorWordsPerform : Prop :=
  (∀ (s : State) (acc : ATile) (a b : SReg) (clamp : Bool) (q : BitVec 4), s.xOwned = false →
      acc.val < s.cx.accCnt.toNat →
      let cw := (s.rs b).toNat
      let sa := (s.rs a).toNat
      let rows := quarterRows q
      let n := rows.length
      let phys := s.cx.accBase.toNat + acc.val
      let w := (drnTy cw).cw
      let flags := rows.foldr (fun r g => (List.range 128).foldr (fun c h => (s.mdrnElem cw phys clamp r c).2 ||| h) g) 0#5
      mdrnBad sa cw n = false → s.flagFits flags = true →
      (drnToReg cw = true →
        s.cx.undo.countP (fun e => e.key.vector)
          + (List.range (drnRegs cw n)).countP (fun i => !hasKey s.cx.undo (.v (drnReg cw + i))) ≤ 32 →
        ∃ t ws, exec (.mdrn acc a b clamp q) s = .next t ∧
          t = (s.setCx { s.cx with undo := t.cx.undo, inFlight := s.cx.inFlight ++ ws, matOps := t.cx.matOps }).setTl
            { s.tl with accRead := t.tl.accRead } ∧
          (phys, s.cycle + 2 + n / 4) ∈ t.tl.accRead ∧ (∀ p ∈ ws, p.due = s.cycle + 6 + n / 4 ∧ p.post = true) ∧
          flagsIn ws = flags ∧
          ∀ j < 128 * n,
            let place := Dst.v (drnReg cw + j * w / 16384) (j * w / 2048 % 8)
            ∃ p ∈ ws, p.dst = place ∧ p.mask = ones 2048 ∧
              elem p.val w (j * w % 2048 / w) = (s.mdrnElem cw phys clamp (rows.getD (j / 128) 0) (j % 128)).1 % 2 ^ w) ∧
      (drnToReg cw = false → s.cx.drains.length < 4 → s.cx.gateUse < 128 →
        s.cx.spBad ((List.range n).map (fun i => (((sa + i * drnStride cw : Nat) : Int), drnRowBytes cw))) = none →
        ∃ t d ws, exec (.mdrn acc a b clamp q) s = .next t ∧
          t = (s.setCx { s.cx with seq := s.cx.seq + 1, drains := s.cx.drains ++ [d], inFlight := s.cx.inFlight ++ ws,
                                   undo := t.cx.undo, matOps := t.cx.matOps }).setTl { s.tl with accRead := t.tl.accRead } ∧
          flagsIn ws = flags ∧ (∀ p ∈ ws, p.due = s.cycle + 2 + n / 4 ∧ p.dst = .flags) ∧
          (phys, s.cycle + 2 + n / 4) ∈ t.tl.accRead ∧ d.seq = s.cx.seq ∧ d.held = true ∧ d.accd = false ∧
          d.base = 2 ^ 63 + sa ∧ d.stride = drnStride cw ∧ d.rowBytes = 16 * w ∧ d.rows.length = n ∧
          ∀ i < n, ∃ v, d.rows[i]? = some (i, v) ∧
            ∀ c < 128, elem v w c = (s.mdrnElem cw phys clamp (rows.getD i 0) c).1 % 2 ^ w)) ∧
  (∀ (s : State) (acc : ATile) (a b : SReg) (clamp : Bool) (q : BitVec 4), s.xOwned = false →
      acc.val < s.cx.accCnt.toNat →
      let sa := (s.rs a).toNat
      let sb := (s.rs b).toInt
      let rows := quarterRows q
      let phys := s.cx.accBase.toNat + acc.val
      let x := s.cx
      sa % 4 = 0 → sb % 4 = 0 → -(2 ^ 31) ≤ sb → sb < 2 ^ 31 → x.drains.length < 4 → x.gateUse < 128 →
      (engIsSp sa = true → engSp sa < 2 ^ 22 ∧ x.spBad (rows.map (fun r => ((engSp sa : Int) + r * sb, 512))) = none) →
      (engIsSp sa = false → (sa % 32 = 0 ∧ sb % 32 = 0 ∨ ∀ r ∈ rows, x.touchesLarder ((sa : Int) + r * sb) 1 = false) ∧
        pickFault (rows.flatMap (fun r => x.accdFaults (4096 * r) ((sa : Int) + r * sb))) = none) →
      ∃ t d, exec (.maccd acc a b clamp q) s = .next t ∧
        t = (s.setCx { x with seq := x.seq + 1, drains := x.drains ++ [d], matOps := t.cx.matOps }).setTl
          { s.tl with accRead := t.tl.accRead } ∧
        (phys, s.cycle + 2 + rows.length / 4) ∈ t.tl.accRead ∧ d.seq = x.seq ∧ d.held = true ∧ d.accd = true ∧ d.clamp = clamp ∧
        d.base = sa ∧ d.stride = sb ∧ d.rows = rows.map (fun r => (r, s.tl.accRow phys r))) ∧
  (∀ (s : State) (cw phys r c : Nat) (clamp : Bool),
      let ty := tyOfCode (cw % 16)
      let pat := elem (s.tl.accRow phys r) 32 c
      let x := if s.issue.prof = 3 then XVal.ofInt (sextN 32 pat) else decodeFloat F32 pat
      let conv := convert ty ([.rne, .rtz, .rdn, .rup].getD (cw / 16 % 8) .sr) (s.draw 8 (128 * r + c)) (cw.testBit 7)
        (decide (s.issue.prof = 3))
      let y := s.mdrnElem cw phys clamp r c
      (clamp = false → y = conv x) ∧ (∀ n m e, x = .fin n m e → y = conv x) ∧
      (clamp = true → ∀ sig, x = .nan sig → y = (0, fINV)) ∧
      (clamp = true → ∀ n, x = .inf n → y.2 = fSAT ∧
        (ty.isInt = true → y.1 = truncI ty.cw (if n then intLo ty else intHi ty)) ∧
        ∀ top, (ty, top) ∈ [(ETy.f32, 0x7F7FFFFF), (.f16, 0x7BFF), (.bf16, 0x7F7F), (.e4m3, 0x7E), (.e5m2, 0x7B), (.e3m2, 0x1F),
            (.e2m3, 0x1F), (.e2m1, 0x7)] →
          y.1 = top + if n then 2 ^ (ty.valBits - 1) else 0))

/-! ### Pushes and waits (R203 to R207, R249 to R262, R281, R346 to R349, R358 to R362, R364 to R366, R370, R374 to R378, R382 to
R384, R388, R390, R412, R421, R422, R460 to R467) -/

/-- R460 to R463, R249, R280: XFER checks the record at its address and pushes it, held, at the end of its channel; a stopped
channel starts again. Its source in this tile is read at the push. A full queue raises 0x200 + 16 * channel and a bad record
0x201 + 16 * channel. R250 to R253: the fields of the record in the queue, its spaces, and of KIND 4 the operation, its operand and
comparand and the no-result bit. R346 to R349: AMOG pushes one atomic of 4 or 8 bytes with its operand and, for CAS, its comparand, and
where the old value goes. (That the record codes the operations as KIND 4 does, 0, 6 and 7, is the model's reading, log 47.) -/
def Obligations.CopyAndAtomicPushes : Prop :=
  (∀ (s : State) (a : SReg) (col : Colour) (ch : Chan),
      let sa := (s.rs a).toNat
      let r := rawRec s.issue.sp0 sa
      let x := s.cx
      let tile := x.resolveTile s.issue.ctx r.tileWord
      s.cx.spOk sa 64 = true → sa % 64 = 0 → eccRead s.issue.bad0 [(sa, 64)] = false →
      (s.issue.raised = none → 32 ≤ x.outstanding ch.val → exec (.xfer a col ch) s = .next (s.raises (0x200 + 16 * ch.val) 0)) ∧
      (x.outstanding ch.val < 32 →
        (s.issue.raised = none → r.bad x = true → exec (.xfer a col ch) s = .next (s.raises (0x201 + 16 * ch.val) 0)) ∧
        (r.bad x = false → (r.ssp = 2 ∨ r.dsp = 2 → tile.isSome = true) →
          x.spBadRange (if r.conv x then r.spRangesConv else r.spRanges) = none → pickFault (r.faults x) = none → x.gateUse < 128 →
          ∃ c, exec (.xfer a col ch) s = .next (s.setCx
              { x with seq := x.seq + 1, recs := x.recs ++ [c], stopped := merase x.stopped ch.val }) ∧
            c.seq = x.seq ∧ c.held = true ∧ c.post = true ∧ c.colour = col.val ∧ c.ch = ch.val ∧ c.kind = r.kind ∧
            c.src = r.word 1 ∧ c.dst = r.word 2 ∧ c.n0 = r.n0 ∧ c.n1 = r.n1 ∧ c.n2 = r.n2 ∧ c.ss1 = r.ss1 ∧ c.ss2 = r.ss2 ∧
            c.ds1 = r.ds1 ∧ c.ds2 = r.ds2 ∧
            -- The words of the record, as they lie in the scratchpad.
            (let w := fun (i : Nat) => readLE s.issue.sp0 (sa + 8 * i) 8
             let loc := fun (space : Nat) => if space = 0 then Loc.sp else if space = 1 then .virt else
               match tile with
               | some m => if m = tileOf s.issue.ctx then .sp else .tile m
               | none => .sp
             c.kind = w 0 / 2 ^ 60 ∧ c.sloc = loc (w 0 / 2 ^ 58 % 4) ∧ c.dloc = loc (w 0 / 2 ^ 56 % 4) ∧ c.src = w 1 ∧ c.dst = w 2 ∧
             c.n0 = w 0 % 2 ^ 32 ∧ (c.kind = 2 ∨ c.kind = 3 → c.n1 = w 3 % 2 ^ 32 ∧ c.n2 = w 3 / 2 ^ 32 ∧
               c.ss1 = sextN 32 (w 4 % 2 ^ 32) ∧ c.ds1 = sextN 32 (w 4 / 2 ^ 32) ∧ c.ss2 = sextN 32 (w 5 % 2 ^ 32) ∧
               c.ds2 = sextN 32 (w 5 / 2 ^ 32)) ∧
             (c.kind = 4 → c.op = w 3 % 8 ∧ c.wide = (w 3).testBit 3 ∧ c.uns = (w 3).testBit 4 ∧ c.nores = (w 3).testBit 5 ∧
               c.opnd = w 6 ∧ c.cmp = w 7)) ∧
            (r.ssp = 0 → r.kind ≤ 2 → ∀ p ∈ r.rows, ∀ j < r.n0,
              mread c.snap (p.2.1.toNat + j) = mread s.tl.sp (p.2.1.toNat + j))))) ∧
  (∀ (s : State) (a k : SReg) (op : AmogOp) (w : Bool) (col : Colour) (ch : Chan),
      let n := if w then 8 else 4
      let x := s.cx
      let va := (s.rs a).toNat
      let res := (x.rs (k.val + 1)).toNat
      pickFault (x.rangeFaults .atomic va 1 0 1) = none → k.val + 1 ≤ 63 → (op = .cas → k.val + 2 ≤ 63) →
      va % n = 0 → res % n = 0 → res < 2 ^ 22 → res + n ≤ 0x300000 → x.spOk res n = true → x.outstanding ch.val < 32 →
      x.gateUse < 128 →
      ∃ c, exec (.amog a k op w col ch) s = .next (s.setCx
          { x with seq := x.seq + 1, recs := x.recs ++ [c], stopped := merase x.stopped ch.val }) ∧
        c.seq = x.seq ∧ c.held = true ∧ c.colour = col.val ∧ c.ch = ch.val ∧ c.dst = va ∧ c.src = res ∧ c.wide = w ∧
        c.op = (match op with | .add => 0 | .swap => 6 | .cas => 7) ∧ c.opnd = (s.rs k).toNat % 2 ^ (8 * n) ∧
        c.cmp = (x.rs (k.val + 2)).toNat % 2 ^ (8 * n) ∧ c.kind = 6 ∧ c.sloc = .sp ∧ c.dloc = .virt ∧ c.nores = false)

/-- R376 to R378, R382 to R384, R388, R390: GTHR, LADD, LINIT and LRAW push what their registers name; the index 0xFFFFFFFF is
skipped, and a count of zero pushes nothing. R225: LRAW copies count cells. That LINIT and LRAW with a count of zero do nothing
whatever their other operands are is the model's reading (log 45). -/
def Obligations.IndexedPushes : Prop :=
  ∀ (s : State),
    let x := s.cx
    (∀ (v : VReg) (b : SReg) (w : Width),
      let n := if w.bytes = 8 then 32 else 64
      let base := (s.rs b).toNat
      let at' := fun (i : Nat) => if engIsSp base then engSp base + i * w.bytes else base + i * w.bytes
      let hit := ((s.indices v n).filter (fun i => i != 0xFFFFFFFF)).map at'
      x.gathers.length < 8 → base % w.bytes = 0 →
      (engIsSp base = true → x.spBadRange (((engSp base : Int), 0) :: hit.map (fun (p : Nat) => ((p : Int), w.bytes))) = none) →
      (engIsSp base = false → pickFault (((List.range hit.length).zip hit).flatMap (fun p =>
        x.rangeFaults .gather (p.2 : Nat) w.bytes p.1 (w.bytes + 1))) = none) →
      ∃ g, exec (.gthr v b w) s = .next (s.setCx { x with seq := x.seq + 1, gathers := x.gathers ++ [g] }) ∧
        g.seq = x.seq ∧ g.wbytes = w.bytes ∧ g.nonNull = hit.length ∧ g.addrs.length = 8 * n ∧
        (∀ c < 8, ∀ i < n, g.addrs[n * c + i]? = some (
          let ix := elem (s.rv v c) 32 i
          if ix = 0xFFFFFFFF then none else some (at' ix))) ∧
        (engIsSp base = false → g.results = none)) ∧
    (∀ (v i : VReg) (p : SReg) (col : Colour),
      let base := (s.rs p).toNat
      let cells := (((s.indices i 64).zip (s.indices v 64)).filter (fun q => q.1 != 0xFFFFFFFF)).map (fun q =>
        (base + 32 * q.1, q.2))
      base % 32 = 0 → x.gateUse < 128 →
      pickFault (((List.range cells.length).zip cells).flatMap (fun q => x.rangeFaults .cellAdd (q.2.1 : Nat) 32 q.1 64)) = none →
      exec (.ladd v i p col) s = .next (s.setCx { x with
        seq := x.seq + 1, cells := x.cells ++ [⟨x.seq, true, true, col.val, .ladd cells, 0⟩] })) ∧
    (∀ (a n : SReg) (col : Colour),
      ((s.rs n).toNat = 0 → exec (.linit a n col) s = .next s) ∧
      ((s.rs n).toNat ≠ 0 → (s.rs n).toNat ≤ 2 ^ 27 → (s.rs a).toNat % 32 = 0 → x.gateUse < 128 →
        pickFault (x.rangeFaults .cellInit (s.rs a).toNat (32 * (s.rs n).toNat) 0 32) = none →
        exec (.linit a n col) s = .next (s.setCx { x with
          seq := x.seq + 1, cells := x.cells ++ [⟨x.seq, true, true, col.val, .linit (s.rs a).toNat (s.rs n).toNat, 0⟩] }))) ∧
    ∀ (a b n : SReg), ((s.rs n).toNat = 0 → exec (.lraw a b n) s = .next s) ∧
      ((s.rs n).toNat ≠ 0 → (s.rs a).toNat % 32 = 0 → (s.rs b).toNat % 32 = 0 →
        x.spBadRange [((s.rs b).toNat, 0), ((s.rs b).toNat, 32 * (s.rs n).toNat)] = none →
        pickFault (x.rangeFaults .cellRaw (s.rs a).toNat (32 * (s.rs n).toNat) 0 32) = none →
        x.gateUse < 128 →
        exec (.lraw a b n) s = .next (s.setCx { x with
          seq := x.seq + 1, cells := x.cells ++ [⟨x.seq, true, true, 0, .lraw (s.rs a).toNat (s.rs b).toNat (s.rs n).toNat, 0⟩] }))

/-- R358 to R360, R260: COLL releases held pushes, sets CMT, takes the next ordinal of its level, reads its source and its view of
the domain, and enters the queue of four. R229, R272: a misaligned or bad descriptor raises 0x20B with its place, and a source or a
destination that leaves the assignment 0x100 with its own. -/
def Obligations.CollectivePushes : Prop :=
  ∀ (s : State) (a : SReg) (col : Colour),
    let sa := (s.rs a).toNat
    let d := collDesc s.issue.sp0 sa
    let n := collBytes d.ty d.count
    let x := s.cx
    let place := fun (v : Nat) => 2 ^ 63 + v % 2 ^ 63
    (s.issue.raised = none →
      (sa % 32 ≠ 0 → exec (.coll a col) s = .next (s.raises 0x20B (place sa))) ∧
      (sa % 32 = 0 → x.spOk sa 32 = true →
        (x.spLeaves d.src n = true → exec (.coll a col) s = .next (s.raises 0x100 (place d.src))) ∧
        (x.spLeaves d.src n = false → x.spLeaves d.dst n = true → exec (.coll a col) s = .next (s.raises 0x100 (place d.dst))) ∧
        (x.spLeaves d.src n = false → x.spLeaves d.dst n = false → eccRead s.issue.bad0 [(sa, 32)] = false → d.bad x = true →
          exec (.coll a col) s = .next (s.raises 0x20B (place sa))))) ∧
    (sa % 32 = 0 → x.spOk sa 32 = true → x.spLeaves d.src n = false → x.spLeaves d.dst n = false →
    eccRead s.issue.bad0 [(sa, 32)] = false → d.bad x = false →
    (s.issue.raised = none → 4 ≤ x.colls.length → exec (.coll a col) s = .next (s.raises 0x20C 0)) ∧
    (x.colls.length < 4 → ∃ t r, exec (.coll a col) s = .next t ∧ t = s.setCx t.cx ∧ t.cx.colls = x.colls ++ [r] ∧
      t.cx.held = [] ∧ t.cx.cmt = true ∧ t.cx.seq = x.seq + 1 ∧
      mgetD t.cx.collNext d.level 0 = mgetD x.collNext d.level 0 + 1 ∧ t.cx.s = x.s ∧ t.cx.v = x.v ∧ t.cx.undo = x.undo ∧
      r.seq = x.seq ∧ r.ordinal = mgetD x.collNext d.level 0 ∧ r.op = d.op ∧ r.ty = d.ty ∧ r.level = d.level ∧
      r.count = d.count ∧ r.src = d.src ∧ r.dst = d.dst ∧ r.colour = col.val ∧ r.snap = readLE s.tl.sp d.src n ∧
      r.members = s.domain s.issue.ctx d.level ∧ r.st = .pending))

/-- R412, R185: a hint that is dropped adds one to HINTDROP on t + 2; one that is taken asks the host for the lines of host-cache
pages that the attic does not hold and puts a request for each line of its device sectors at the ports, and changes nothing
else. R184, R185, R190, R306: once a port admits such a request, PF fills each of its sectors that the SLC does not hold, under
the policy of its page, RES fills or pins it within the tenant's quota and the device limit, and REL leaves none pinned by the
tenant; in the guard band and the slot no request is admitted with a sector that the SLC does not hold. (That a hint joins the
queues at the ports as records do, and what it does where a key does not fit, is log 56.) -/
def Obligations.HintsPerform : Prop :=
  (∀ (s : State) (a b : SReg) (kind : PfhKind),
    let x := s.cx
    let len := (s.rs b).toNat
    let ps := x.parts (s.rs a).toNat len
    let us := hintSectors ps
    let drop := len = 0 ∨ 2 ^ 32 < len ∨ ps.any (hintDrops kind) = true ∨ (kind = .res ∧ s.overQuota x.tenant us = true)
    (∀ u, u ∈ us ↔ ∃ p ∈ ps, ∃ e, p.ent = some e ∧ entRoute e = 0 ∧ u.key = entKey e ∧ u.policy = entPolicy e ∧
      0 < p.n ∧ entPhys e p.va / 64 ≤ u.sec ∧ u.sec ≤ (entPhys e p.va + p.n - 1) / 64) ∧
    (drop → exec (.pfh a b kind) s = .next (s.setCx { x with inFlight := x.inFlight ++ [s.write 2 .hint 1 1] })) ∧
    (¬ drop → ∃ t, exec (.pfh a b kind) s = .next t ∧
      t = { s with ctxs := t.ctxs, atticReq := t.atticReq, tickets := t.tickets, hints := t.hints } ∧
      (∀ l, (mfind t.atticReq l).isSome = true ↔
        (mfind s.atticReq l).isSome = true ∨ (l ∈ hintLines ps ∧ mfind s.attic l = none)) ∧
      (us = [] → t.ctxs = s.ctxs ∧ t.tickets = s.tickets ∧ t.hints = s.hints) ∧
      (us ≠ [] → t.ctxs = (s.setCx { x with seq := x.seq + 1 }).ctxs ∧
        t.hints = s.hints ++ [⟨s.issue.ctx, x.seq, x.tenant, kind, us⟩] ∧
        (s.ticketOf s.issue.ctx (some x.seq) = none →
          t.tickets = s.tickets ++ [⟨s.issue.ctx, some x.seq, x.cls, requestsOf (us.map (·.sec))⟩])))) ∧
  ∀ (s : State) (slice plane cls n : Nat) (k : Ticket) (r : PortReq),
    s.portChoice slice = some (plane, cls, n) → s.waiting slice plane cls = some (k, r) →
    (7296 ≤ s.cycle - s.cal.start → ∀ u ∈ r.secs, (mfind s.slc u).isSome = true) ∧
    ∀ h, s.hints.find? (fun h => h.ctx == k.ctx && k.seq == some h.seq) = some h →
      let left := h.units.filter (fun u => !r.secs.contains u.sec)
      ∃ t, exec (.slcRequestAdmit slice plane cls n) s = .next t ∧ t.ctxs = s.ctxs ∧ t.dev = s.dev ∧
        (left = [] → h ∉ t.hints) ∧ (left ≠ [] → { h with units := left } ∈ t.hints) ∧
        (h.kind = .rel → ∀ u ∈ h.units, u.sec ∈ r.secs → ∀ q, mfind t.slc u.sec = some q → q.pinned ≠ some h.fn) ∧
        ∀ u, h.units.filter (fun v => r.secs.contains v.sec) = [u] → s.keyFits u.key u.sec = true →
          let room := s.pins h.fn < (s.tenant h.fn).pinQuota ∧ s.pinsAll < 2 ^ 20
          let policy := if h.kind = .res then 2 else u.policy
          (h.kind ≠ .rel → mfind s.slc u.sec = none → (slcRoom s.slc (u.sec / 2)).isSome = true →
            (policy = 2 → room → mfind t.slc u.sec = some ⟨u.key, 2, some h.fn, false, s.cycle⟩) ∧
            (policy = 2 → ¬ room → mfind t.slc u.sec = some ⟨u.key, 0, none, false, s.cycle⟩) ∧
            (policy ≠ 2 → mfind t.slc u.sec = some ⟨u.key, policy, none, false, s.cycle⟩)) ∧
          ∀ q, mfind s.slc u.sec = some q → (h.kind = .pf → t.slc = s.slc) ∧
            (h.kind = .res → q.pinned = none → room →
              mfind t.slc u.sec = some { q with key := u.key, policy := 2, pinned := some h.fn }) ∧
            (h.kind = .res → q.pinned ≠ none ∨ ¬ room → mfind t.slc u.sec = some q)

/-- R370, R364, R365, R421, R422, R281: in an elastic context FENCE and DRAIN release the held pushes they cover and then wait; SYNC,
which issues once its waits are over, releases the pushes held before its bundle and arrives at its domain under DMR as it
stands. In a strict context outside service mode a wait that would not end at once raises 0x281. R205, R206, R209: of the records
pushed earlier with a colour in the mask, which stay with the context until they have performed, FENCE waits for each that writes
this tile's scratchpad, DRAIN for each with remote stores, at system scope for the reads behind host-io writes too, and SYNC for both
at region scope, or with mask 0 for none. What FENCE and DRAIN release of the copy channels takes in the pushes ahead of a covered one;
of the cell and drain queues it is the covered pushes alone (log 54). -/
def Obligations.WaitsPerform : Prop :=
  ∀ (s : State) (mask : BitVec 8) (sc : Scope) (level : Fin 4),
    let x := s.cx
    let m := mask.toNat
    let n := s.issue.seq0
    (x.strictNow = false →
      exec (.fence mask) s = .next (s.setCx { x.releaseColours m x.seq with wait := .fence m x.seq }) ∧
      exec (.drain sc mask) s = .next (s.setCx { x.releaseColours m x.seq with wait := .drain sc m x.seq }) ∧
      exec (.sync level mask) s = .next (s.setCx { x.syncRelease m n with
        wait := .hold ⟨level.val, m, x.dmr, s.cycle, 0, []⟩ })) ∧
    (x.strictNow = true →
      (x.fenceDone m x.seq = true → exec (.fence mask) s = .next (s.setCx (x.releaseColours m x.seq))) ∧
      (x.drainDone sc m x.seq = true → exec (.drain sc mask) s = .next (s.setCx (x.releaseColours m x.seq))) ∧
      (x.syncDone m n = true → x.heldIn m n = false →
        exec (.sync level mask) s = .next (s.setCx { x.syncRelease m n with
          wait := .hold ⟨level.val, m, x.dmr, s.cycle, 0, []⟩ })) ∧
      (s.issue.raised = none →
        (x.fenceDone m x.seq = false → exec (.fence mask) s = .next (s.raises 0x281 0)) ∧
        (x.drainDone sc m x.seq = false → exec (.drain sc mask) s = .next (s.raises 0x281 0)) ∧
        (x.syncDone m n = false ∨ x.heldIn m n = true → exec (.sync level mask) s = .next (s.raises 0x281 0)))) ∧
    (let earlier := fun (limit seq colour : Nat) => seq < limit ∧ m.testBit colour = true
      ∀ limit,
        (x.fenceDone m limit = true ↔
          (∀ r ∈ x.recs, earlier limit r.seq r.colour →
            ¬ (r.kind ≤ 4 ∧ r.dloc = .sp) ∧ ¬ (r.kind = 4 ∧ r.nores = false) ∧ r.kind ≠ 6) ∧
          (∀ r ∈ x.cells, earlier limit r.seq r.colour → ∀ a b d, r.op ≠ .lraw a b d) ∧
          (∀ r ∈ x.drains, earlier limit r.seq 0 → engIsSp r.base = false) ∧
          ∀ r ∈ x.colls, earlier limit r.seq r.colour → r.st ≠ .pending) ∧
        (x.drainDone sc m limit = true ↔
          (∀ r ∈ x.recs, earlier limit r.seq r.colour → r.kind ≤ 4 ∧ r.dloc = .sp) ∧
          (∀ r ∈ x.cells, earlier limit r.seq r.colour → ∃ a b d, r.op = .lraw a b d) ∧
          (∀ r ∈ x.drains, earlier limit r.seq 0 → engIsSp r.base = true) ∧
          (sc = .system → ∀ p ∈ x.posted, ¬ earlier limit p.seq p.colour)) ∧
        (x.syncDone m limit = true ↔ m = 0 ∨ (x.fenceDone m limit = true ∧ x.drainDone .region m limit = true)) ∧
        (m = 0 → x.syncRelease m limit = { x with cmt := true }) ∧
        (m ≠ 0 → (x.syncRelease m limit).cmt = true ∧ ∀ k, k ∈ (x.syncRelease m limit).held ↔ k ∈ x.held ∧ limit ≤ k)) ∧
    ((x.releaseColours m x.seq).coveredHeld m x.seq = [] ∧
      (x.coveredHeld m x.seq = [] → x.releaseColours m x.seq = x) ∧
      (x.coveredHeld m x.seq ≠ [] → (x.releaseColours m x.seq).cmt = true) ∧
      let covered := fun (colour seq : Nat) => m.testBit colour = true ∧ seq < x.seq
      ∀ n, n ∈ x.coveredHeld m x.seq ↔
        (∃ r ∈ x.recs, r.held = true ∧ r.seq = n ∧ ∃ q ∈ x.recs, q.held = true ∧ covered q.colour q.seq ∧ q.ch = r.ch ∧ r.seq ≤ q.seq) ∨
        (∃ r ∈ x.cells, r.held = true ∧ r.seq = n ∧ covered r.colour n) ∨ (∃ r ∈ x.drains, r.held = true ∧ r.seq = n ∧ covered 0 n))

/-- R465 to R467, R463, R203, R202: XPTR returns on t + 2 the channel's count of stream bytes done; XWAIT goes on once that count
is at least its register's value, and on a stopped channel raises the fault that stopped it. R374, R375, R361, R362, R258, R262: GPOP and
CPOP take the oldest result that is complete into every cluster of a v register on t + 2, with the count; without one GPOP
raises 0x20A and CPOP 0x20D, and a COLL whose descriptors differ leaves its queue with 0x20E; in a strict context one whose oldest
result is not there on its cycle raises 0x281. -/
def Obligations.ChannelAndPopWords : Prop :=
  (∀ (s : State) (d a : SReg) (ch : Chan),
      let x := s.cx
      let done := mgetD x.done ch.val 0
      (s.scalarFits d = true → exec (.xptr d ch) s = .next (s.scalarResult 2 d (BitVec.ofNat 64 done))) ∧
      ((s.rs a).toNat ≤ done → exec (.xwait a ch) s = .next (s.setCx (x.releaseChan ch.val))) ∧
      (done < (s.rs a).toNat →
        (∀ code, mfind x.stopped ch.val = some code → s.issue.raised = none → exec (.xwait a ch) s = .next (s.raises code 0)) ∧
        (mfind x.stopped ch.val = none →
          (x.strictNow = false → exec (.xwait a ch) s = .next (s.setCx (x.releaseChan ch.val))) ∧
          (x.strictNow = true → s.issue.raised = none → exec (.xwait a ch) s = .next (s.raises 0x281 0))))) ∧
  (∀ (s : State) (v : VReg) (d : SReg), s.cx.undoFits (.v v.val) = true → s.scalarFits d = true →
      let x := s.cx
      let pops := fun (t : State) (word : Nat → Nat) (count : Nat) =>
        ∃ ws, t.cx.inFlight = x.inFlight ++ ws ∧ t.cx.cmt = true ∧ t.cx.s = x.s ∧ t.cx.v = x.v ∧
          (∀ w ∈ ws, w.due = s.cycle + 2 ∧ w.post = true ∧ ((∃ c < 8, w.dst = .v v.val c) ∨ w.dst = .s d.val)) ∧
          (∀ c < 8, ∃ w ∈ ws, w.dst = .v v.val c ∧ w.mask = ones 2048 ∧ w.val = word c) ∧
          (d.val ≠ 0 → ∃ w ∈ ws, w.dst = .s d.val ∧ w.val = count) ∧ (d.val = 0 → ∀ w ∈ ws, w.dst ≠ .s 0)
      (s.issue.raised = none → x.gathers = [] → exec (.gpop v d) s = .next (s.raises 0x20A 0)) ∧
      (s.issue.raised = none → x.colls = [] → exec (.cpop v d) s = .next (s.raises 0x20D 0)) ∧
      (∀ g rest rs, x.gathers = g :: rest → g.results = some rs → g.nonNull < 2 ^ 64 →
        ∃ t, exec (.gpop v d) s = .next t ∧ t = s.setCx t.cx ∧ t.cx.gathers = rest ∧
          pops t (fun c => ((rs.drop (rs.length / 8 * c)).take (rs.length / 8)).foldr (fun r acc =>
            r % 2 ^ (8 * g.wbytes) + 2 ^ (8 * g.wbytes) * acc) 0) g.nonNull) ∧
      (∀ r rest, x.colls = r :: rest → r.st = .done → r.count < 2 ^ 64 →
        ∃ t, exec (.cpop v d) s = .next t ∧ t = s.setCx t.cx ∧ t.cx.colls = rest ∧
          pops t (fun c => readLE s.issue.sp0 r.dst (min 2048 (collBytes r.ty r.count)) / 2 ^ (2048 * c) % 2 ^ 2048) r.count) ∧
      (∀ r rest, x.colls = r :: rest → r.st = .mismatch → s.issue.raised = none →
        exec (.cpop v d) s = .next { s with issue := { s.issue with raised := some ⟨0x20E, 0, s.issue.slot.num, true⟩ } }) ∧
      (x.strictNow = false →
        (∀ g rest, x.gathers = g :: rest → g.results = none → exec (.gpop v d) s = .next s) ∧
        ∀ r rest, x.colls = r :: rest → r.st = .pending → exec (.cpop v d) s = .next s) ∧
      (x.strictNow = true → s.issue.raised = none →
        (∀ g rest, x.gathers = g :: rest → g.results = none → exec (.gpop v d) s = .next (s.raises 0x281 0)) ∧
        ∀ r rest, x.colls = r :: rest → r.st = .pending → exec (.cpop v d) s = .next (s.raises 0x281 0)))

/-! ### Landings, boundaries, the clock (R63 to R67, R87 to R90, R238, R271 to R283, R290, R305 to R307, R312, R315, R366, R367, R411,
R423) -/

/-- R87, R88, R279, R151: a write that is due lands in its register alone: a scalar whole, the bits that its mask names of a v or
k register, flags ORed into VSTAT. An undo entry that awaits it keeps the value it replaces. Of several that land on one cycle
the one sent last stands, per register and, for v and k, per bit; a value for VSTAT is written before the flags. R90, R163,
R248, R238: when a matrix operation lands, its rows are in the accumulator tile and its flags in VSTAT; when a load lands the
plane it was for is loaded. The operation leaves the engine. R158 to R162, R164 to R166: each element of those rows is its
group sums added in order, exact and rounded once per group, by the tree of profile 2, or wrapping integers; a chain may be
split where a group ends; a pruned weight counts as zero; only INV and OVF are set. That an exact sum begins at -0, and that a
zero product has the sign of its operands, is the model's choice (log 65). -/
def Obligations.ResultsLand : Prop :=
  (∀ (s : State) (c : Nat) (w : PendWrite),
      let x := s.ctx c
      x.inFlight.filter (fun p => decide (p.due ≤ s.cycle)) = [w] → (∀ n d, w.dst = .v n d ∨ w.dst = .k n d → d < 8) →
      ∃ t, exec (.registerWriteLands c) s = .next t ∧
        let y := t.ctx c
        t = s.setCtx c y ∧ y.inFlight = x.inFlight.filter (fun p => decide (s.cycle < p.due)) ∧ y.pc = x.pc ∧ y.wait = x.wait ∧
        (∀ n, 0 < n → y.rs n = if w.dst = .s n then BitVec.ofNat 64 w.val else x.rs n) ∧
        (∀ n, 0 < n → n < 8 → y.rq n = if w.dst = .q n then w.val == 1 else x.rq n) ∧
        (∀ n d, d < 8 → ∀ j < 2048, (y.rv n d).getLsbD j =
          if w.dst = .v n d ∧ w.mask.testBit j = true then w.val.testBit j else (x.rv n d).getLsbD j) ∧
        (∀ n d, 0 < n → d < 8 → ∀ j < 256, (y.rk n d).getLsbD j =
          if w.dst = .k n d ∧ w.mask.testBit j = true then w.val.testBit j else (x.rk n d).getLsbD j) ∧
        (w.dst = .flags → y.vstat = x.vstat ||| BitVec.ofNat 5 w.val) ∧
        (∀ n, w.dst = .cr n → y = ({ x with undo := y.undo, inFlight := y.inFlight } : Ctx).setCr n w.val) ∧
        ∀ key, w.dst.key = some key → w.post = true → ⟨key, none⟩ ∈ x.undo → ⟨key, some (x.keyVal key)⟩ ∈ y.undo) ∧
  (∀ (s : State) (c : Nat),
      let x := s.ctx c
      let due := x.inFlight.filter (fun p => decide (p.due ≤ s.cycle))
      let last := fun (d : Dst) => (due.filter (fun p => decide (p.dst = d))).getLast?
      let lastBit := fun (d : Dst) (j : Nat) => (due.filter (fun p => decide (p.dst = d) && p.mask.testBit j)).getLast?
      (∀ w ∈ due, ∀ n d, w.dst = .v n d ∨ w.dst = .k n d → d < 8) →
      ∃ t, exec (.registerWriteLands c) s = .next t ∧
        let y := t.ctx c
        t = s.setCtx c y ∧ y.inFlight = x.inFlight.filter (fun p => decide (s.cycle < p.due)) ∧
        (∀ n, 0 < n → y.rs n = ((last (.s n)).map (fun w => BitVec.ofNat 64 w.val)).getD (x.rs n)) ∧
        (∀ n, 0 < n → n < 8 → y.rq n = ((last (.q n)).map (fun w => w.val == 1)).getD (x.rq n)) ∧
        (∀ n d, d < 8 → ∀ j < 2048, (y.rv n d).getLsbD j =
          ((lastBit (.v n d) j).map (fun w => w.val.testBit j)).getD ((x.rv n d).getLsbD j)) ∧
        (∀ n d, 0 < n → d < 8 → ∀ j < 256, (y.rk n d).getLsbD j =
          ((lastBit (.k n d) j).map (fun w => w.val.testBit j)).getD ((x.rk n d).getLsbD j)) ∧
        y.vstat = ((last (.cr 0x024)).map (fun w => BitVec.ofNat 5 w.val)).getD x.vstat ||| flagsIn due) ∧
  ((∀ (op : MatOp) (old : Nat → Nat),
      let r := op.result old
      let k := mmulK op.plane.sparse op.bands
      let start := fun (i n : Nat) => if op.aip then elem (old i) 32 n else 0
      (op.kind = .mmul → r.1.length = op.rows ∧ ∀ i < op.rows, ∃ v, r.1[i]? = some (i, v) ∧ ∀ n < 128,
        elem v 32 n = (outElem op.prof (start i n) (arrayVals op.gotA op.fmtA (op.sa + i * rowPitch op.fmtA k) k k)
          ((op.plane.columns op.bands).getD n [])).1 % 2 ^ 32) ∧
      (op.kind = .mvec → ∃ v, r.1 = [(op.row, v)] ∧ ∀ n < 128,
        let bands := (List.range op.rows).map (fun j => bandFrom op.gotW op.gotR op.fmtW (op.sa + j * bandImage op.fmtW) 0 false)
        elem v 32 n = (outElem op.prof (start op.row n) (arrayVals op.gotA op.fmtA op.sb op.k (32 * op.rows))
          ((bands.flatMap (fun b => b.column op.fmtW false n)).take op.k)).1 % 2 ^ 32) ∧
      (op.kind = .mzero → ∀ p, p ∈ r.1 ↔ p.2 = 0 ∧ p.1 ∈ quarterRows (BitVec.ofNat 4 op.k)) ∧
      r.2 &&& (fINV ||| fOVF) = r.2) ∧
    (∀ (prof acc j : Nat) (a a' : List XVal) (w w' : List (Option XVal)), prof ≤ 3 → acc < 2 ^ 32 →
      a.length = (if prof = 0 then 32 else 128) * j → w.length = a.length →
      (outElem prof acc (a ++ a') (w ++ w')).1 = (outElem prof (outElem prof acc a w).1 a' w').1) ∧
    (∀ (prof acc : Nat) (a w : List XVal), a.length = w.length → a ≠ [] →
      let ps := (a.zip w).map (fun p => (xmul p.1 p.2).1)
      let res := (outElem prof acc a (w.map some)).1
      let sum := ps.foldl (fun s p => (xadd s p).1) (.fin true 0 0)
      (prof = 3 → res = truncI 32 (sextN 32 acc + ((a.zip w).map (fun p => xint p.1 * xint p.2)).sum)) ∧
      (prof ≤ 1 → a.length ≤ (if prof = 0 then 32 else 128) →
        ((∀ p ∈ ps, ∃ n m e, p = .fin n m e) →
          res = if sum.isZero then acc else (roundArith F32 (xadd (decodeFloat F32 acc) sum).1).1) ∧
        ((∃ p ∈ ps, p.isNan = true) → res = 0x7FC00000) ∧ (.inf false ∈ ps → .inf true ∈ ps → res = 0x7FC00000)) ∧
      (prof = 2 → a.length ≤ 128 →
        let ts := ps.map (fun p => (roundArith F32 p).1) ++ List.replicate (128 - a.length) 0
        res = (roundArith F32 (xadd (decodeFloat F32 acc) (decodeFloat F32 (treeSum F32 7 ts).1)).1).1)) ∧
    ∀ (prof acc i m : Nat) (n : Bool) (e : Int) (a : List XVal) (w : List (Option XVal)), prof ≤ 3 → a[i]? = some (XVal.fin n m e) →
      w[i]? = some none → outElem prof acc a w = outElem prof acc a (w.set i (some XVal.zero))) ∧
  (∀ (s : State) (c : Nat) (op : MatOp) (rest : List MatOp),
      let x := s.ctx c
      let t0 := s.tile (tileOf c)
      (x.dueOp s.cycle false = some (op, rest) →
        let r := op.result (fun i => (mgetD t0.acc (128 * op.acc + i) 0#4096).toNat)
        (r.1.map (·.1)).Nodup →
        ∃ t, exec (.matrixResultLands c) s = .next t ∧ (t.ctx c).matOps = rest ∧ (t.ctx c).vstat = x.vstat ||| r.2 ∧
          (t.ctx c).s = x.s ∧ (t.tile (tileOf c)).sp = t0.sp ∧
          (∀ p ∈ r.1, mgetD (t.tile (tileOf c)).acc (128 * op.acc + p.1) 0#4096 = BitVec.ofNat 4096 p.2) ∧
          ∀ k, (∀ p ∈ r.1, k ≠ 128 * op.acc + p.1) → mgetD (t.tile (tileOf c)).acc k 0#4096 = mgetD t0.acc k 0#4096) ∧
      (x.dueOp s.cycle true = some (op, rest) →
        exec (.mldwComplete c) s = .next (s.setCtx c (if op.planeId = 0 then { x with matOps := rest, plane0 := op.loaded }
          else { x with matOps := rest, plane1 := op.loaded }))))

/-- R283, R279, R280, R282: a rollback without a hazard gives every register that the undo log holds and the stored bytes the values
they had at the mark: s, q, v and k registers, control registers, the pair and the plane selector; what an entry keeps is the
register's value as it was (keyVal, which setKey gives back). It takes back the held pushes, and goes on at the mark, in service code with the code plus 0x400 when there is any; with a hazard it delivers
the code plus 0x800 and restores nothing. -/
def Obligations.RollbackRestores : Prop :=
  ∀ (s : State) (c : Nat) (r : RollbackReq),
    let x := s.ctx c
    x.rollback = some r → x.isLive = true → x.quiet = true → r.code = 0x183 ∨ r.code = 0x185 ∨ r.code = 0x283 →
    x.svcMode = false →
    (∀ key (y : Ctx), (∀ num, key = .cr num → num ∈ [0x005, 0x006, 0x020, 0x021, 0x023, 0x024]) →
      (∀ n, key = .s n ∨ key = .k n → 0 < n) → (∀ n, key = .q n → 0 < n ∧ n < 8) →
      (∀ a w, x.pair = some (a, w) → a < 32 ∧ w < 32) → (y.setKey key (x.keyVal key)).keyVal key = x.keyVal key) ∧
    (x.hazard = true → x.svcv = true →
      ∃ t, exec (.rollback c) s = .next t ∧ t = s.setCtx c (t.ctx c) ∧ (t.ctx c).ecause.toNat = r.code + 2048 ∧
        (t.ctx c).epc = r.pc ∧ (t.ctx c).pc = x.svcAddr ∧ (t.ctx c).svcMode = true ∧ (t.ctx c).s = x.s) ∧
    (x.hazard = false → (x.undo.map (·.key)).Nodup → (x.rows.map (·.row)).Nodup →
      Memory.wf (s.tile (tileOf c)).sp = true →
      (x.svcv = true ∨ r.code = 0x183 ∨ r.code = 0x283) →
      ∃ t, exec (.rollback c) s = .next t ∧
        let y := t.ctx c
        (∀ n, 0 < n → y.rs n = match x.undo.find? (fun e => e.key == .s n) with
          | some ⟨_, some v⟩ => BitVec.ofNat 64 v
          | _ => x.rs n) ∧
        (∀ n, 0 < n → n < 8 → y.rq n = match x.undo.find? (fun e => e.key == .q n) with
          | some ⟨_, some v⟩ => v == 1
          | _ => x.rq n) ∧
        (∀ n d, d < 8 → y.rv n d = match x.undo.find? (fun e => e.key == .v n) with
          | some ⟨_, some v⟩ => BitVec.ofNat 2048 (v / 2 ^ (2048 * d))
          | _ => x.rv n d) ∧
        (∀ n d, 0 < n → d < 8 → y.rk n d = match x.undo.find? (fun e => e.key == .k n) with
          | some ⟨_, some v⟩ => BitVec.ofNat 256 (v / 2 ^ (256 * d))
          | _ => x.rk n d) ∧
        (∀ num w, (num, w) ∈ [(0x005, 4), (0x006, 18), (0x020, 64), (0x021, 64), (0x023, 64), (0x024, 5)] →
          y.crNat num = match x.undo.find? (fun e => e.key == .cr num) with
            | some ⟨_, some v⟩ => v % 2 ^ w
            | _ => x.crNat num) ∧
        (y.pair = match x.undo.find? (fun e => e.key == .pair) with
          | some ⟨_, some v⟩ => if v = 0 then none else some (v / 2 % 32, v / 64 % 32)
          | _ => x.pair) ∧
        (y.sel = match x.undo.find? (fun e => e.key == .sel) with
          | some ⟨_, some v⟩ => v == 1
          | _ => x.sel) ∧
        (∀ a, mread (t.tile (tileOf c)).sp a = match x.rows.find? (fun g => g.row == a / 64) with
          | some g => if g.mask.testBit (a % 64) then byteOf g.prior (a % 64) else mread (s.tile (tileOf c)).sp a
          | none => mread (s.tile (tileOf c)).sp a) ∧
        y.held = [] ∧ y.undo = [] ∧ y.rows = [] ∧ y.rollback = none ∧
        (x.svcv = true → y.svcMode = true ∧ y.ecause.toNat = r.code + 1024 ∧ y.eaddr = BitVec.ofNat 64 r.eaddr ∧
          y.epc = x.markPc ∧ y.etgt = etgtOf x.markPend ∧ y.edly = edlyOf x.markPend x.markAnnul ∧ y.pc = x.svcAddr) ∧
        (x.svcv = false → y.pc = x.markPc ∧ y.pend = x.markPend ∧ y.annul = x.markAnnul ∧ y.svcMode = false ∧
          (r.code = 0x183 → y.wait = .transit r.eaddr)))

/-- R276, R277, R271, R272, R463: at a boundary an engine fault, and where no fault waits an enabled event, is delivered to
service code with EPC the next address; a fault's channel stops and loses its later records. -/
def Obligations.BoundariesDeliver : Prop :=
  ∀ (s : State) (c : Nat),
    let x := s.ctx c
    x.svcv = true → x.svcMode = false →
    let entered := fun (t : State) (cause eslot : Nat) =>
      t = s.setCtx c (t.ctx c) ∧ (t.ctx c).svcMode = true ∧ (t.ctx c).ecause = BitVec.ofNat 12 cause ∧
      (t.ctx c).eslot.toNat = eslot ∧ (t.ctx c).epc = x.pc ∧ (t.ctx c).pc = x.svcAddr ∧
      (t.ctx c).etgt = etgtOf x.pend ∧ (t.ctx c).edly = edlyOf x.pend x.annul ∧ (t.ctx c).s = x.s ∧ (t.ctx c).v = x.v
    (x.eventDue = true → ∃ t, exec (.eventTaken c) s = .next t ∧ entered t 0 10 ∧ (t.ctx c).evPending = x.evPending) ∧
    (∀ f, x.engineFaultDue = true → x.nextFault = some f → x.ending = none →
      (restartable f.code && f.post) = false →
      ∃ t, exec (.engineFaultDelivery c) s = .next t ∧ entered t f.code 12 ∧ (t.ctx c).eaddr = BitVec.ofNat 64 f.eaddr ∧
        (t.ctx c).engFaults = x.engFaults.erase f ∧ f ∈ x.engFaults ∧ (x.wait = .none → x.engFaults.head? = some f) ∧
        (∀ ch, f.ch = some ch → mfind (t.ctx c).stopped ch = some f.code ∧ ∀ r ∈ (t.ctx c).recs, r ∈ x.recs ∧ r.ch ≠ ch))

/-- R411, R45, R315, R290: PAUSE ends when its time has passed or EVQ is pending; a context whose drain counter passes LIMIT takes
0x282 and counts anew, and a FENCE or DRAIN wait that it finds is kept for the return (R205, R206; that service code runs meanwhile is
log 26); the watchdog fails its launch with REASON 2; a quantum that has run out marks its tile for the
selector. R312, R307, R305, R306: the clock's own steps: a new CADENCE takes effect with CAD pending, a rising rail settles,
the frame, the guard band and the maintenance slot begin on their cycles. That PAUSE ends on the pending bit of EVQ, enabled or
not, is the model's reading (log 23), and that a quantum which has run out marks its tile is the model's choice (log 30). A vote
above a rail's level settles on a cycle of its own, and one at or below the level lowers it; that a rail takes 1,400 cycles to
settle and lowers on the cycle the last higher vote leaves is the model's choice (log 20). -/
def Obligations.LimitsAndClock : Prop :=
  (∀ (s : State) (c : Nat),
      let x := s.ctx c
      (∀ u, x.pauseTo = some u → u ≤ s.cycle ∨ x.evPending.getLsbD 3 = true →
        exec (.pauseEnd c) s = .next (s.setCtx c { x with pauseTo := none })) ∧
      (x.atBoundary = true → x.limit.toNat < x.drainCount → x.ending = none → x.svcv = true → x.svcMode = false →
        ∃ t, exec (.drainLimitExceeded c) s = .next t ∧ t = s.setCtx c (t.ctx c) ∧ (t.ctx c).ecause.toNat = 0x282 ∧
          (t.ctx c).epc = x.pc ∧ (t.ctx c).pc = x.svcAddr ∧ (t.ctx c).svcMode = true ∧ (t.ctx c).drainCount = 0 ∧
          (t.ctx c).wait = .none ∧ (t.ctx c).savedWait = match x.wait with
            | .fence m l => .fence m l
            | .drain sc m l => .drain sc m l
            | _ => .none) ∧
      (∀ l, x.isLive = true → x.wdLimit < x.watchdog → mfind s.launches x.launch = some l → l.failure = none →
        ∃ t l', exec (.watchdogExpiry c) s = .next t ∧ (t.ctx c).life = .failed ∧ mfind t.launches x.launch = some l' ∧
          l'.failing = true ∧ l'.failure = some ⟨s.cycle, x.place, 2, 0, x.pc.toNat, (s.holdNow c).kind⟩) ∧
      ((s.tile c).holder.isSome = true → 16384 ≤ (s.tile c).quantum →
        exec (.quantumExpiry c) s = .next (s.setTile c { s.tile c with expired := true }))) ∧
  (∀ (s : State) (c : Nat),
      let x := s.ctx c
      let k := s.cal
      (∀ v, x.newCadence = some v → x.isLive = true →
        ∃ t, exec (.cadenceChange c) s = .next t ∧ t.ctx c = { x with cadence := v, newCadence := none, evPending := x.evPending ||| 4#6 }) ∧
      (∀ old lv due more, mfind s.rails c = some ⟨old, (lv, due) :: more⟩ →
        exec (.railSettled c) s = .next { s with rails := mput s.rails c ⟨lv, more⟩ }) ∧
      (∀ (q : Rail) (need : Nat),
        let f := q.follow s.cycle need
        let due := (q.rising.find? (fun g => decide (need ≤ g.1))).map (·.2)
        (need ≤ q.level → f = ⟨need, []⟩) ∧
        (q.level < need → f.level = q.level ∧ f.rising.getLast? = some (need, due.getD (s.cycle + 1400)) ∧
          (∀ g ∈ f.rising, g.1 ≤ need) ∧ ∀ g, g.1 < need → (g ∈ f.rising ↔ g ∈ q.rising))) ∧
      (k.next ≤ s.cycle → exec .maintenanceFrameBoundary s = .next
        { s with cal := ⟨k.mfn + 1, s.cycle, if k.ext = some k.mfn then none else k.ext, 0, 0, false, false⟩ }) ∧
      (7296 ≤ s.cycle - k.start → exec .guardBandStart s = .next { s with cal := { k with guard := true } }) ∧
      (7680 ≤ s.cycle - k.start → exec .maintenanceSlotStart s = .next { s with cal := { k with slot := true } }) ∧
      k.next = k.start + (if k.ext = some k.mfn then 9728 else 8192) + k.slip)

/-- R63, R64, R66, R67: when its domain is whole, from t_last + 40 on, and in a strict context on a frame boundary, every member of
a SYNC goes on, and none while a member has not arrived, one that an eviction has stopped included, nor before t_last + 40 nor, in
a strict context, off a frame boundary; t_last is no earlier than any arrival (that a context which arrived and then left the domain goes on with it is the model's choice, log 57): it waits no longer, its frame count restarts, and no event comes before its first bundle. R367, R40, R41, R485:
a task whose END has nothing left to wait for ends, failed when its status is not zero; with the last task its launch is over
and DONE of its class grows by one. A task of a launch that failed earlier stops. -/
def Obligations.SyncAndTaskEnd : Prop :=
  (∀ (s : State) (c : Nat),
      let x := s.ctx c
      (∀ a last, x.isLive = true → x.wait = .hold a → s.lastArrival c a = some last → last + 40 ≤ s.cycle →
        (x.strict = true → s.cal.start = s.cycle) →
        ∃ t, exec (.syncRelease c) s = .next t ∧ t = { s with ctxs := t.ctxs } ∧
          (∀ d ∈ s.arrivedAt c a, (t.ctx d).wait = .none ∧ (t.ctx d).noEvent = true ∧ (t.ctx d).fcount = 0#32 ∧
            (t.ctx d).s = (s.ctx d).s ∧ (t.ctx d).pc = (s.ctx d).pc) ∧
          ∀ d, d ∉ s.arrivedAt c a → t.ctx d = s.ctx d) ∧
      (∀ a last, s.lastArrival c a = some last → ∀ d ∈ s.domainOf c a.dmr a.level,
        d ∈ s.arrivedAt c a ∧ ∃ b, (s.ctx d).wait = .hold b ∧ b.level = a.level ∧ b.at' ≤ last) ∧
      (∀ a d, d ∈ s.domainOf c a.dmr a.level → (∀ b, (s.ctx d).wait ≠ .hold b) → x.wait = .hold a →
        exec (.syncRelease c) s = .next s) ∧
      (∀ a last, x.wait = .hold a → s.lastArrival c a = some last →
        s.cycle < last + 40 ∨ (x.strict = true ∧ s.cal.start ≠ s.cycle) → exec (.syncRelease c) s = .next s) ∧
      ((∀ a, x.wait ≠ .hold a) → exec (.syncRelease c) s = .next s)) ∧
  (∀ (s : State) (c : Nat),
      let x := s.ctx c
      (∀ st pc, x.endReady = true → x.ending = some (st, pc) →
        ∃ t, exec (.taskEnd c) s = .next t ∧ (t.ctx c).life = (if st = 0 then .ended else .failed) ∧
          (t.ctx c).ending = none ∧ (t.ctx c).s = x.s ∧
          ∀ l, mfind s.launches x.launch = some l → l.st = .running → l.ctxs.all (fun d => d == c || !(s.ctx d).isLive) = true →
            (l.failing = true ∨ s.someEvicted x.launch l = false) →
            (∃ l', mfind t.launches x.launch = some l' ∧ l'.st = .over) ∧
              mgetD (t.tenant l.fn).counters (4 + l.cls) 0 =
                min (2 ^ 48 - 1) (mgetD (s.tenant l.fn).counters (4 + l.cls) 0 + 1)) ∧
      (∀ l f, x.isLive = true → x.ending = none → mfind s.launches x.launch = some l → l.failing = true →
        l.failure = some f → f.cycle < s.cycle →
        ∃ t, exec (.launchFailureStop c) s = .next t ∧ (t.ctx c).life = .stopped ∧ (t.ctx c).held = [] ∧ (t.ctx c).s = x.s))

/-! ### Launches and evictions (R31, R37 to R39, R68, R214, R276, R291 to R299, R326 to R331) -/

/-- R326 to R329: a packet that stands in its queue with its bytes home and its fields within their limits leaves the queue with
its effect: LAUNCH enters a launch unit, or is refused with a record when its shape is illegal (REASON 5) or it was rung after
its function paused (REASON 11); one rung before that stays in its queue (which of the two a pause does is log 32); SIGNAL sets
SIG and SIGVAL in the live contexts of each launch that its TAG matches; BARRIER waits for the tenant's earlier launches; EVICT
asks each match to leave; RELEASE ends a consent; NOP only leaves. SIGNAL, EVICT and RELEASE without a match are answered with
REASON 13 (which launches are live for a match is log 33). A bad field halts the queue with a halt record of REASON 10, whose TAG
is that of the packet by log 14. -/
def Obligations.PacketsPerform : Prop :=
  ∀ (s : State) (fn q : Nat) (p : Packet), s.packet fn q = some p → s.headerBad fn q p = none →
    s.isHome [(p.at', 64 * p.len)] = true →
    let out := s.pop fn q p
    let popped := fun (t : State) =>
      (t.queue fn q).head = ((s.queue fn q).head + 64 * p.len) % (s.queue fn q).size ∧ (t.queue fn q).halted = false
    let halts := fun (i : Instr) =>
      exec i s = .next ((s.setQueue fn q { s.queue fn q with halted := true }).record fn 3 10 p.tag 0 0 (s.queue fn q).head 0)
    popped out ∧ out = { s with queues := out.queues } ∧
    (p.type = 0 →
      (bits p.w0 0 52 = 0 ∧ s.zeroFrom p 1 = true → exec (.nop fn q) s = .next out) ∧
      (bits p.w0 0 52 ≠ 0 ∨ s.zeroFrom p 1 = false → halts (.nop fn q))) ∧
    (p.type = 1 →
      let l := s.launchOf fn q p
      (s.launchFieldBad fn p = true → halts (.launch fn q)) ∧
      (s.launchFieldBad fn p = false →
        (l.shapeBad = false → (s.tenant fn).paused = none →
          ∃ t, exec (.launch fn q) s = .next t ∧ popped t ∧ mfind t.launches s.nextLaunch = some l ∧
            t.nextLaunch = s.nextLaunch + 1 ∧ t.ctxs = s.ctxs) ∧
        (l.shapeBad = true → (s.tenant fn).paused = none → exec (.launch fn q) s = .next (out.record fn 2 5 p.tag 0 0 0 0)) ∧
        ∀ at', (s.tenant fn).paused = some at' →
          (l.bell ≤ at' → exec (.launch fn q) s = .next s) ∧
          (at' < l.bell → l.shapeBad = false → exec (.launch fn q) s = .next (out.record fn 2 11 p.tag 0 0 0 0)))) ∧
    (p.type = 2 →
      let good := bits p.w0 16 36 = 0 ∧ bits (s.pword p 1) 16 48 = 0 ∧ s.zeroFrom p 2 = true
      (¬ good → halts (.signal fn q)) ∧
      (good → s.matching fn p.tag = [] → exec (.signal fn q) s = .next (out.record fn 2 13 p.tag 0 0 0 0)) ∧
      (good → s.matching fn p.tag ≠ [] →
        ∃ t, exec (.signal fn q) s = .next t ∧ popped t ∧ ∀ m ∈ s.matching fn p.tag, ∀ c ∈ m.2.ctxs,
          (s.ctx c).isLive = true → (s.ctx c).launch = m.1 →
          (t.ctx c).evPending.getLsbD 0 = true ∧ (t.ctx c).sigval = BitVec.ofNat 16 (s.pword p 1) ∧ (t.ctx c).s = (s.ctx c).s)) ∧
    (p.type = 3 →
      let good := bits p.w0 0 52 = 0 ∧ s.zeroFrom p 1 = true
      let n := (s.queue fn q).barrier.getD s.nextLaunch
      let left := ∃ e ∈ s.launches, e.2.fn = fn ∧ e.2.st ≠ .over ∧ e.1 < n
      (¬ good → halts (.barrier fn q)) ∧
      (good → ¬ left → exec (.barrier fn q) s = .next out) ∧
      (good → left → ∃ t, exec (.barrier fn q) s = .next t ∧ t = { s with queues := t.queues } ∧
        t.queue fn q = { s.queue fn q with barrier := some n })) ∧
    (p.type = 5 →
      let good := bits p.w0 16 36 = 0 ∧ s.zeroFrom p 1 = true
      (¬ good → halts (.evict fn q)) ∧
      (good → s.matching fn p.tag = [] → exec (.evict fn q) s = .next (out.record fn 2 13 p.tag 0 0 0 0)) ∧
      (good → ∀ n l, s.matching fn p.tag = [(n, l)] → mfind s.launches n = some l → l.st = .running → l.failing = false →
        ∃ t, exec (.evict fn q) s = .next t ∧ popped t ∧ mfind t.launches n = some { l with st := .evicting s.cycle, saved := [] } ∧
          ∀ c ∈ l.ctxs, (s.ctx c).isLive = true → (s.ctx c).launch = n → (t.ctx c).evPending.getLsbD 3 = true)) ∧
    (p.type = 6 →
      let good := bits p.w0 16 36 = 0 ∧ s.zeroFrom p 1 = true
      (¬ good → halts (.timestamp fn q)) ∧
      (good → ∃ t, exec (.timestamp fn q) s = .next t ∧ popped t ∧ t.launches = s.launches ∧ t.ctxs = s.ctxs)) ∧
    (p.type = 7 →
      let good := bits p.w0 0 52 = 0 ∧ bits (s.pword p 1) 0 32 = 0 ∧ s.zeroFrom p 2 = true
      let tid := bits (s.pword p 1) 32 32
      (¬ good → halts (.release fn q)) ∧
      (good → (∀ k ∈ s.consents, ¬ (k.tenant = fn ∧ k.tid = tid)) →
        exec (.release fn q) s = .next (out.record fn 2 13 0 0 0 0 0)) ∧
      (good → ∀ k ∈ s.consents, k.tenant = fn → k.tid = tid →
        ∃ t, exec (.release fn q) s = .next t ∧ popped t ∧
          (∀ j ∈ t.consents, j ∈ s.consents ∧ ¬ (j.tenant = fn ∧ j.tid = tid)) ∧
          ∀ c l, mfind s.launches (s.ctx c).launch = some l → l.fn = fn → l.tid = tid →
            (t.ctx c).dbg = false ∧ (t.ctx c).halted = false ∧ (t.ctx c).s = (s.ctx c).s))

/-- R326, R327: a doorbell moves the tail of a queue that has a ring, unless the tail is outside the ring or off a packet
boundary, which halts the queue with nothing read (log 14); QRESET empties the ring and the queue runs again, and nothing else
ends a halt; a base and a legal size are taken and place the ring anew. R326, R182, R183, R300, R319, R190, R339: the settings that
the PF writes: keys, frames, those of a tenant, the completion timeout, rates and depths of tokens, monitor units; their numbers
are the model's (log 13). R25, R182, R183: a sector stays encrypted as it is when a frame is given to a key or marked unassigned; it
reads as it did under its own key, also when its frame comes back to that key, and as opaque bytes under any other, as it does for
good once its key is bound anew (when a key is generated anew is the model's choice, log 2). A register that no rule describes ends in a fault of the model (log 13). R331: a record of a completion is 32 bytes at the ring's next place, in the ring's order, and moves that place
on; for TIMESTAMP its last word is the count of reference ticks (when a tick falls is log 64). -/
def Obligations.QueuesAndRecords : Prop :=
  (∀ (s : State) (fn q : Nat), q < 3 → fn ≤ 96 → s.power = .d0 →
      let x := s.queue fn q
      (∀ tail, x.size ≠ 0 →
        (tail < x.size → tail % 64 = 0 →
          exec (.doorbell fn q tail) s =
            .next (s.setQueue fn q { x with tail := tail, bells := x.bells ++ [(tail, s.cycle)] })) ∧
        (x.size ≤ tail ∨ tail % 64 ≠ 0 →
          exec (.doorbell fn q tail) s = .next ((s.setQueue fn q { x with halted := true }).record fn 3 10 0 0 0 x.head 0))) ∧
      exec (.qreset fn q) s =
        .next (s.setQueue fn q { x with head := x.tail, halted := false, barrier := none, bells := [] }) ∧
      (∀ v, exec (.hostRegisterWrite fn q v) s =
          .next (s.setQueue fn q { Queue.reset with base := v.toNat, size := x.size, halted := x.halted }) ∧
        exec (.hostRegisterWrite fn 6 v) s = .next
          { s with rings := mput s.rings fn ⟨v.toNat, (mgetD s.rings fn ⟨0, 0, 0⟩).size, 0⟩ }) ∧
      (∀ n, 12 ≤ n → n ≤ 20 →
        exec (.hostRegisterWrite fn (q + 3) (BitVec.ofNat 64 (2 ^ n))) s =
          .next (s.setQueue fn q { Queue.reset with base := x.base, size := 2 ^ n, halted := x.halted }) ∧
        exec (.hostRegisterWrite fn 7 (BitVec.ofNat 64 (2 ^ n))) s = .next
          { s with rings := mput s.rings fn ⟨(mgetD s.rings fn ⟨0, 0, 0⟩).base, 2 ^ n, 0⟩ }) ∧
      ∀ reg v, 7 < reg → fn ≠ 0 ∨ reg ∉ [0x10, 0x11, 0x20, 0x21, 0x22, 0x23, 0x24, 0x25, 0x26, 0x27, 0x30, 0x31, 0x32, 0x33] →
        exec (.hostRegisterWrite fn reg v) s = .fault (.unknownHostRegister reg)) ∧
  (∀ (s : State) (v : Word), s.power = .d0 →
      let n := v.toNat
      let sets := fun (reg : Nat) (t : State) => exec (.hostRegisterWrite 0 reg v) s = .next t
      let f := n / 2 ^ 56
      let u := n % 2 ^ 56
      let tenant := fun (reg : Nat) (ok : Bool) (t : Tenant) =>
        (f < 97 → ok = true → sets reg (s.setTenant f t)) ∧ (97 ≤ f ∨ ok = false → sets reg s)
      let key := n % 128
      let owner := n / 2 ^ 8 % 2 ^ 8
      let frame := n % 2 ^ 18
      let tile := n % 2 ^ 8
      let bucket := 12 * (n % 2 ^ 5) + n / 2 ^ 8 % 2 ^ 4
      let base := u % 2 ^ 4
      let count := u / 2 ^ 8 % 2 ^ 5
      let spBase := 65536 * (u % 2 ^ 6)
      let spSize := 65536 * (u / 2 ^ 8 % 2 ^ 6)
      let newKey := n / 2 ^ 24 % 2 ^ 8
      -- The bytes stay as they are; the SLC keeps, of the frames that change, the pins alone.
      let stays := fun (t : State) (f : Nat → Bool) => t.dev = s.dev ∧ t.ctxs = s.ctxs ∧ t.poison = s.poison ∧
        (∀ sec g, s.standsUnder sec = some g → t.standsUnder sec = some g) ∧
        (∀ sec, f (sec / 2 ^ 15) = false → t.standsUnder sec = s.standsUnder sec) ∧
        (mwf s.slc = true → mwf s.frameKey = true →
          (∀ sec, f (sec / 2 ^ 15) = false → mfind t.slc sec = mfind s.slc sec) ∧
          ∀ sec, f (sec / 2 ^ 15) = true → (mfind t.slc sec).bind (·.pinned) = (mfind s.slc sec).bind (·.pinned))
      let bound := if owner < 97 then mput s.keys key owner else merase s.keys key
      (mfind s.keys key = (if owner < 97 then some owner else none) → sets 0x10 { s with keys := bound }) ∧
      (mfind s.keys key ≠ (if owner < 97 then some owner else none) → ∃ t, sets 0x10 t ∧ t.keys = bound ∧
        t.frameKey = s.frameKey ∧ t.keyGen = mput s.keyGen key (mgetD s.keyGen key 0 + 1) ∧
        stays t (fun f => mfind s.frameKey f == some key)) ∧
      (Config.devBytes ≤ 2 ^ 21 * frame → sets 0x11 s) ∧
      (2 ^ 21 * frame < Config.devBytes →
        (newKey < 128 → ∃ t, sets 0x11 t ∧ t.frameKey = mput s.frameKey frame newKey ∧ t.keyGen = s.keyGen ∧ t.keys = s.keys ∧
          stays t (· == frame) ∧ (mfind s.frameKey frame = some newKey → t.slc = s.slc) ∧
          -- Back under its key, the frame reads as before.
          ∀ k, mfind s.frameKey frame = some k → k < 128 → ∃ u,
            exec (.hostRegisterWrite 0 0x11 (BitVec.ofNat 64 (k * 2 ^ 24 + frame))) t = .next u ∧
            ∀ b, u.devByte b = s.devByte b) ∧
        (128 ≤ newKey → ∃ t, sets 0x11 t ∧ t.frameKey = merase s.frameKey frame ∧ t.keyGen = s.keyGen ∧ t.slc = s.slc ∧
          stays t (fun _ => false))) ∧
      (∀ b, s.devByte b = match mfind s.frameKey (b / 2 ^ 21), s.standsUnder (b / 64) with
        | some k, some g => if g = s.genOf k then mread s.dev b else Config.otherKey g (s.genOf k) b (readLE s.dev (b / 64 * 64) 64)
        | _, _ => mread s.dev b) ∧
      (∀ k, s.genOf k = k + 128 * mgetD s.keyGen k 0) ∧
      tenant 0x20 (decide (base + count ≤ 16)) { s.tenant f with accBase := base, accCnt := count } ∧
      tenant 0x21 (decide (256 ≤ u ∧ u < 65536)) { s.tenant f with limit := u } ∧
      tenant 0x22 (decide (8192 ≤ u ∧ u ≤ 2 ^ 24)) { s.tenant f with wdLimit := u } ∧
      tenant 0x23 (decide (spBase + spSize ≤ 0x300000)) { s.tenant f with spBase := spBase, spSize := spSize } ∧
      tenant 0x24 true { s.tenant f with cellarBase := u } ∧
      tenant 0x25 (decide (u % 65536 = 0)) { s.tenant f with cellarSlot := u } ∧
      tenant 0x26 true { s.tenant f with pinQuota := u } ∧
      tenant 0x27 (decide (1 ≤ u ∧ u < 65536)) { s.tenant f with weight := u } ∧
      (1 ≤ n ∧ n ≤ 64 → sets 0x30 { s with timeout := 1400000 * n }) ∧
      (n = 0 ∨ 64 < n → sets 0x30 s) ∧
      sets 0x31 { s with rate := mput s.rate bucket (n / 2 ^ 16 % 2 ^ 16), depth := mput s.depth bucket (n / 2 ^ 32 % 2 ^ 12) } ∧
      sets 0x32 { s with poolDepth := mput s.poolDepth (n % 2 ^ 5) (n / 2 ^ 16 % 2 ^ 14) } ∧
      (144 ≤ tile → sets 0x33 s) ∧
      (tile < 144 → sets 0x33 (s.setTile tile { s.tile tile with
        monitors := (s.tile tile).monitors.set (n / 2 ^ 24 % 4) { Monitor.reset with
          on := if n / 2 ^ 16 % 8 < 5 then some (n / 2 ^ 8 % 4, n / 2 ^ 16 % 8) else none } }))) ∧
  ((∀ (s : State) (fn kind reason tag code w1 w2 w3 : Nat) (r : Ring), mfind s.rings fn = some r → r.size ≠ 0 →
      s.inWindow fn r.base r.size = true → Memory.wf s.dev = true → w1 < 2 ^ 64 → w2 < 2 ^ 64 → w3 < 2 ^ 64 →
      kind < 256 → reason < 256 → code < 1024 →
      let t := s.record fn kind reason tag code w1 w2 w3
      let a := r.base + r.tail % r.size
      s.hostCopies a 32 = [] →
      t.devLE a 8 = kind * 2 ^ 56 + reason * 2 ^ 48 + tag % 2 ^ 16 * 2 ^ 32 + code * 2 ^ 22 ∧
      t.devLE (a + 8) 8 = w1 ∧ t.devLE (a + 16) 8 = w2 ∧ t.devLE (a + 24) 8 = w3 ∧
      (∀ b, b < a ∨ a + 32 ≤ b → t.devByte b = s.devByte b) ∧
      mfind t.rings fn = some { r with tail := (r.tail + 32) % r.size } ∧ t.ctxs = s.ctxs ∧ t.launches = s.launches) ∧
    ∀ (s : State) (fn q : Nat) (p : Packet), s.packet fn q = some p → s.headerBad fn q p = none → p.type = 6 →
      s.isHome [(p.at', 64 * p.len)] = true → bits p.w0 16 36 = 0 → s.zeroFrom p 1 = true →
      exec (.timestamp fn q) s = .next ((s.pop fn q p).record fn 4 0 p.tag 0 0 0 (s.cycle / 14)))

/-- R37 to R39, R57, R127, R298, R307, R331: a queued launch that may go is accepted once its tables are home, with the state of
R38 in every context of its region, its first bundle that of the resident code (the address is log 63); a strict one then owns
the matrix engine of its tiles. One that its tables refuse is over with a record. R330: the list of its sp images is the one read
then. A launch whose images the launch unit does not reach at L is refused with REASON 14 (log 31). At L, which comes once its code can
be read and the ports have admitted its requests (log 31, log 55), every task of the
region is live at its first bundle with its argument words in s1 to s8, its CADENCE and the rest of the state of R38, its accumulator
window reads zero and so does its scratchpad but for the images, which it holds, and the launch runs. -/
def Obligations.LaunchesStart : Prop :=
  ∀ (s : State) (n plane y x : Nat) (l : Launch), mfind s.launches n = some l →
    (l.st = .queued → s.withheld l = false → s.canPlace l plane y x = true → s.itsTurn n l plane = true →
      s.isHome (s.tables l) = true →
      let l' := s.settle l plane y x
      (∀ r, s.refusal n l' = some r → exec (.launchStart n plane y x) s =
        .next { s.record l.fn 2 r l.tag 0 0 0 0 with launches := mput s.launches n { l' with st := .over } }) ∧
      (s.refusal n l' = none → (l'.spots.map (·.2.2)).Nodup →
        ∃ t, exec (.launchStart n plane y x) s = .next t ∧ mfind t.launches n = some { l' with st := .placed s.cycle } ∧
          l'.spLoads = s.spList l.spImages ∧
          ∀ p ∈ l'.spots, t.ctx p.2.2 = { s.prepare n l' p.1 p.2.1 with seq := (s.ctx p.2.2).seq } ∧ (t.ctx p.2.2).s = [] ∧
            (t.ctx p.2.2).pc = (if tbit (s.devWord l.segAddr) 48 = true ∧ bits (s.devWord l.segAddr) 32 8 ≠ 0
              then 0x01000000#32 else 0#32) ∧
            (t.ctx p.2.2).region = l'.regionReg p.1 p.2.1 ∧
            (l.strict = true → (t.tile (tileOf p.2.2)).owner = some plane))) ∧
    (∀ a e, l.st = .placed a → s.isL l a = true → (s.startNeed l).fault = none → s.outOfReach l.fn l.imageReads = some e →
      ∃ t, exec (.launchStart n plane y x) s = .next t ∧ mfind t.launches n = some { l with st := .over }) ∧
    (∀ a, l.st = .placed a → s.isL l a = true → (s.startNeed l).fault = none → (s.imagesAway n l).isNone = true →
      s.codeInTransit l = false → (s.startNeed l).holds true = false → s.admitted l.firstCtx none (s.startNeed l) = true →
      (l.spots.map (·.2.2)).Nodup → l.args.length = 8 →
      (∀ p ∈ l.spots, let x := s.ctx p.2.2
        x.life = .none ∧ x.pend = [] ∧ x.svcMode = false) →
      ∃ t, exec (.launchStart n plane y x) s = .next t ∧ mfind t.launches n = some { l with st := .running } ∧
        ∀ p ∈ l.spots,
          let x := s.ctx p.2.2
          let z := t.ctx p.2.2
          let tl := t.tile (tileOf p.2.2)
          -- The state of R38, where the context is as the acceptance has left it.
          (∀ u seq, x = { State.prepare u n l p.1 p.2.1 with seq := seq } →
            z.q = 0#8 ∧ z.rq 0 = true ∧ (∀ i, 0 < i → z.rq i = false) ∧ (∀ i c, z.rv i c = 0#2048) ∧
            (∀ c, z.rk 0 c = BitVec.allOnes 256) ∧ (∀ i c, 0 < i → z.rk i c = 0#256) ∧
            z.matOps = [] ∧ z.inFlight = [] ∧ z.tileHaz = 0#16 ∧ z.activePlane = .zero ∧ z.shadowPlane = .zero ∧
            z.activePlane.fmt = none ∧ z.activePlane.sparse = false ∧ z.pair = none ∧
            z.fcount = 0#32 ∧ z.loopc0 = 0#64 ∧ z.loopc1 = 0#64 ∧ z.vstat = 0#5 ∧ z.hintdrop = 0#32 ∧ z.dmr = 0#18 ∧
            z.epc = 0#32 ∧ z.ecause = 0#12 ∧ z.eaddr = 0#64 ∧ z.eslot = 0#4 ∧ z.etgt = 0#64 ∧ z.edly = 0#8 ∧
            z.evPending = 0#6 ∧ z.sigval = 0#16 ∧ z.ashape = 0xF#4 ∧ z.annul = 0 ∧ z.region = l.regionReg p.1 p.2.1 ∧
            z.srseed = l.srseed ∧ z.wtab.toNat % 2 ^ 32 = l.tid % 2 ^ 32 ∧
            z.segtab = BitVec.ofNat 49 (u.devWord l.segAddr) ∧ z.limit = BitVec.ofNat 16 (u.limitOf l) ∧
            z.accBase = BitVec.ofNat 4 l.accBase ∧ z.accCnt = BitVec.ofNat 5 l.accCnt ∧ z.cadlock = l.locked ∧
            z.recs = [] ∧ z.cells = [] ∧ z.drains = [] ∧ z.gathers = [] ∧ z.colls = [] ∧ z.done = []) ∧
          z.life = .live ∧ z.pc = x.pc ∧ z.pend = [] ∧ z.svcMode = false ∧ z.evEnable = l.enable ∧
          z.cadence = BitVec.ofNat 5 (s.cadenceOf l) ∧ (∀ i < 8, z.rs (i + 1) = l.args.getD i 0#64) ∧
          (∀ i, 8 < i → z.rs i = 0#64) ∧ z.markPc = x.pc ∧ z.undo = [] ∧ z.rows = [] ∧
          (∀ row, 128 * l.accBase ≤ row → row < 128 * (l.accBase + l.accCnt) → mfind tl.acc row = none) ∧
          (∀ b, l.spBase ≤ b → b < l.spBase + l.spSize → (∀ e ∈ l.spLoads, ¬ (e.2.1 ≤ b ∧ b < e.2.1 + e.2.2)) → mread tl.sp b = 0#8) ∧
          (Memory.wf (s.tile (tileOf p.2.2)).sp = true → Memory.wf s.dev = true → spOverlap l.spLoads = false →
            ∀ e ∈ l.spLoads, ∀ i < e.2.2, mread tl.sp (e.2.1 + i) = s.devByte (e.1 + i)))

/-- R292, R293, R484, R68, R214, R299, R183, R332: firmware evicts a background launch, and no other, by setting EVQ in every live context of it; a
context stops at a drain point and its record, in the layout of R293 and R484, is in the tile's slot of the cellar, or it meets 0x184
where its tile no longer reaches the drain maps (log 37); when all
have stopped, tiles of ended tasks hold LIVE 0 and the launch leaves its region, or it ends as failed with 0x189 where such a
write has no page (the physical base, and 0x189 for a slot outside the tenant's frames, in the carve-out or too small, are log 37;
the ports, log 55; what a record keeps of EVENT, log 12). R295, R296: a resume is accepted when the region is free and the settings are the same
(one whose tables no longer pass is refused, and one whose records or drain maps the launch unit does not reach fails with 0x184,
both by log 67), and at its restart every tile whose record is live goes on where the record says, with the registers of R93, the
saved control registers, the format pair, the plane selector and the overlay field, the events that were pending, and the s, q, v
and k registers, accumulator tiles, active and shadow weight planes and scratchpad ranges that its drain map names; what it does
not name, of the launch's own window and assignment, reads zero. -/
def Obligations.EvictionsAndResumes : Prop :=
  (∀ (s : State) (n : Nat) (l : Launch), mfind s.launches n = some l →
      (l.cls ≠ 2 → exec (.evictionRequest n) s = .next s) ∧
      (l.cls = 2 → l.st = .running → l.failing = false →
        ∃ t, exec (.evictionRequest n) s = .next t ∧ mfind t.launches n = some { l with st := .evicting s.cycle, saved := [] } ∧
          ∀ c, t.ctx c = if c ∈ l.ctxs ∧ (s.ctx c).isLive = true ∧ (s.ctx c).launch = n
            then { s.ctx c with evPending := (s.ctx c).evPending ||| 8#6 } else s.ctx c) ∧
      (∀ c, s.stopPoint c = true → (s.ctx c).launch = n → Memory.wf s.dev = true →
        let x := s.ctx c
        let m := s.stopMap x
        let z := x.landEvery
        let bs := z.cellarRecord (s.tile (tileOf c)) m
        let a := l.cellarAt z.ry z.rx
        s.isHome x.mapTable = true →
        (∀ e, s.outOfReach x.tenant x.mapTable = some e → exec (.evictionStop c) s = .next (s.deliver c 0x184 e 12 x.pc)) ∧
        (s.outOfReach x.tenant x.mapTable = none → x.savedBad (s.tile (tileOf c)) m = none →
        bs.length ≤ l.cellarSlot → s.reaches l.fn a bs.length = true → s.hostCopies a bs.length = [] →
        ∃ t, exec (.evictionStop c) s = .next t ∧ (t.ctx c).life = .evicted ∧ 0x400 ≤ bs.length ∧
          (∀ b, t.devByte b = if a ≤ b ∧ b < a + bs.length then bs.getD (b - a) 0#8 else s.devByte b) ∧
          let le := fun (at' n : Nat) => t.devLE at' n
          let word := fun (off : Nat) => le (a + off) 8
          let is := fun (off v : Nat) => word off = v % 2 ^ 64
          let half := fun (h : Option Nat) => match h with
            | none => 0
            | some n => n + 2 ^ 8
          -- The fixed part.
          is 0 (bs.length + 2 ^ 32 * ((m.map (·.1)).getD 0xFF) + match z.wait with | .hold _ => 2 ^ 40 | _ => 0) ∧
          is 8 (match z.wait with | .hold h => h.level * 2 ^ 8 + h.mask | _ => 0) ∧
          m.map (·.1) = mapInForce x.drainStarts (x.holdD.getD x.pc).toNat ∧
          (∀ i mm, m = some (i, mm) → mm = s.drainMap x.drainMapAt i) ∧
          is 0x010 x.pc.toNat ∧ is 0x018 (etgtOf z.pend).toNat ∧ is 0x020 (edlyOf z.pend z.annul).toNat ∧ is 0x028 z.ecause.toNat ∧
          is 0x030 z.eaddr.toNat ∧ is 0x038 z.eslot.toNat ∧
          is 0x040 (z.sigval.toNat * 2 ^ 32 + z.evEnable.toNat * 2 ^ 8 + (z.evPending &&& 0x37#6).toNat) ∧
          is 0x048 z.loopc0.toNat ∧ is 0x050 z.loopc1.toNat ∧ is 0x058 z.hintdrop.toNat ∧ is 0x060 z.srseed.toNat ∧
          is 0x068 z.vstat.toNat ∧ is 0x070 z.dmr.toNat ∧ is 0x078 z.ashape.toNat ∧
          is 0x080 ((match z.pair with | none => 0 | some (f, w) => f + 2 ^ 5 * w + 2 ^ 10) + if z.sel then 2 ^ 11 else 0) ∧
          is 0x088 (half z.half0 + 2 ^ 16 * half z.half1 + 2 ^ 32 * z.cur) ∧
          (∀ b < 48, t.devByte (a + 0x090 + b) = 0#8) ∧ (∀ ch < 8, is (0x0C0 + 8 * ch) (mgetD z.done ch 0)) ∧
          (∀ b < 768, t.devByte (a + 0x100 + b) = 0#8) ∧
          -- The saved items, group after group.
          ∀ i mm, m = some (i, mm) →
            let qAt := a + 0x400 + roundUp (8 * (mapS mm).length) 64
            let vAt := qAt + if mapQ mm = 0 then 0 else 64
            let kAt := vAt + 2048 * (mapV mm).length
            let aAt := kAt + 256 * (mapK mm).length
            let wAt := aAt + 65536 * (mapA z mm).length
            let size := fun (p : Plane) => match p.fmt with
              | none => 64
              | some f => 64 + 4 * bandImage f + if p.sparse then 4096 else 0
            let plane := fun (at' : Nat) (p : Plane) =>
              (p.fmt = none → ∀ b < 64, t.devByte (at' + b) = 0#8) ∧
              ∀ f, p.fmt = some f →
                le at' 8 = (f + (if p.sparse then 2 ^ 5 else 0) + 2 ^ 6) % 2 ^ 64 ∧ (∀ b, 8 ≤ b → b < 64 → f < 2 ^ 32 →
                  t.devByte (at' + b) = 0#8) ∧
                ∀ k < 4, let b := [p.b0, p.b1, p.b2, p.b3].getD k p.b0
                  le (at' + 64 + k * bandImage f) (bandCode f) = b.codes % 256 ^ bandCode f ∧
                  (fmtBlock f = true → le (at' + 64 + k * bandImage f + bandCode f) 128 = b.scales % 256 ^ 128) ∧
                  (p.sparse = true → le (at' + 64 + 4 * bandImage f + 1024 * k) 1024 = b.routes % 256 ^ 1024)
            let sAt := wAt + if mapWA mm then size z.activePlane else 0
            let spAt := sAt + if mapWS mm then size z.shadowPlane else 0
            let before := fun (j : Nat) => ((mapRanges mm).take j).foldl (fun k r => k + r.2) 0
            (∀ j r, (mapS mm)[j]? = some r → le (a + 0x400 + 8 * j) 8 = (z.rs r).toNat) ∧
            (mapQ mm ≠ 0 → le qAt 1 = z.q.toNat &&& mapQ mm) ∧
            (∀ j r, (mapV mm)[j]? = some r → ∀ cl < 8, le (vAt + 2048 * j + 256 * cl) 256 = (z.rv r cl).toNat) ∧
            (∀ j r, (mapK mm)[j]? = some r → ∀ cl < 8, le (kAt + 256 * j + 32 * cl) 32 = (z.rk r cl).toNat) ∧
            (∀ j r, (mapA z mm)[j]? = some r → ∀ row < 128, le (aAt + 65536 * j + 512 * row) 512 =
              (mgetD (s.tile (tileOf c)).acc (128 * (z.accBase.toNat + r) + row) 0#4096).toNat) ∧
            (mapWA mm = true → plane wAt z.activePlane) ∧ (mapWS mm = true → plane sAt z.shadowPlane) ∧
            (∀ j r, (mapRanges mm)[j]? = some r → ∀ i < r.2, t.devByte (spAt + before j + i) =
              if z.spLo ≤ r.1 + i ∧ r.1 + i < z.spHi then mread (s.tile (tileOf c)).sp (r.1 + i) else 0#8) ∧
            a + bs.length = spAt + before 8)) ∧
      (∀ since, l.st = .evicting since → s.someLive n l = false → s.someEvicted n l = true → l.failing = false →
        s.recordsPend l = false → s.recordsIn l = true →
        let fits := fun (p : Nat × Nat × Nat) => 8 ≤ l.cellarSlot ∧ s.reaches l.fn (l.cellarAt p.1 p.2.1) 8 = true
        let queued := fun (t : State) => ∀ p ∈ s.endedSpots l, (t.ticketOf p.2.2 none).isSome = true
        ((∀ p ∈ s.endedSpots l, fits p) → ¬ queued s →
          ∃ t, exec (.evictionComplete n) s = .next t ∧ t = { s with tickets := t.tickets } ∧ queued t) ∧
        ((∀ p ∈ s.endedSpots l, fits p) → queued s → Memory.wf s.dev = true →
          ∃ t, exec (.evictionComplete n) s = .next t ∧ mfind t.launches n = some { l with st := .evicted } ∧
            (∀ p ∈ l.spots, (t.ctx p.2.2).life ≠ .evicted) ∧
            ∀ p ∈ s.endedSpots l, s.hostCopies (l.cellarAt p.1 p.2.1) 8 = [] → t.devLE (l.cellarAt p.1 p.2.1) 8 = 0) ∧
        ((∃ p ∈ s.endedSpots l, ¬ fits p) → l.failure = none →
          ∃ t f, exec (.evictionComplete n) s = .next t ∧ f.reason = 4 ∧ f.code = 0x189 ∧
            mfind t.launches n = some { l with failing := true, failure := some f, st := .over }))) ∧
  (∀ (s : State) (n plane y x : Nat) (l : Launch), mfind s.launches n = some l →
      (l.st = .evicted → s.withheld l = false → s.canPlace { l with planeReq := 0xF } plane y x = true →
        s.sameSettings l = true → s.isHome (s.resumeReads l) = true →
        let l' := { l with plane := plane, y0 := y, x0 := x, accBase := (s.tenant l.fn).accBase }
        let tables := !s.inWindow l.fn l.wtabAddr 4096 || s.tableBad l.fn (usedEntries (s.tableImage l.wtabAddr))
        let code := s.tablesOut l || s.segBad l.segAddr || s.drainBad l.dmAddr
        let refused := fun (reason : Nat) =>
          { s.record l.fn 2 reason l.tag 0 0 0 0 with launches := mput s.launches n { l' with st := .over } }
        let away := s.outOfReach l.fn l'.recordHeads
        (∀ a, away = some a → ∃ t, exec (.resume n plane y x) s = .next t ∧ t.dev = s.dev ∧
          mfind t.launches n = some { l' with failing := true, failure := some ⟨s.cycle, 0, 1, 0x184, 0, a⟩, st := .over }) ∧
        (away = none → tables = true → exec (.resume n plane y x) s = .next (refused 6)) ∧
        (away = none → tables = false → code = true → exec (.resume n plane y x) s = .next (refused 7)) ∧
        (away = none → tables = false → code = false →
          ∃ t, exec (.resume n plane y x) s = .next t ∧ mfind t.launches n = some { l' with st := .resuming s.cycle })) ∧
      (∀ a e, l.st = .resuming a → s.isL l a = true → (s.resumeNeed l).fault = none →
        s.outOfReach l.fn ((s.ctx l.firstCtx).mapTable ++ s.records l) = some e →
        ∃ t, exec (.resume n plane y x) s = .next t ∧
          mfind t.launches n = some { l with failing := true, failure := some ⟨s.cycle, 0, 1, 0x184, 0, e⟩, st := .over }) ∧
      (∀ a, l.st = .resuming a → s.isL l a = true → (s.resumeNeed l).fault = none → (s.recordsAway n l).isNone = true →
        s.codeInTransit l = false → (s.resumeNeed l).holds true = false → s.admitted l.firstCtx none (s.resumeNeed l) = true → (l.spots.map (·.2.2)).Nodup →
        (∀ p ∈ l.spots, Memory.wf (s.tile (tileOf p.2.2)).sp = true) →
        ∃ t, exec (.resume n plane y x) s = .next t ∧ mfind t.launches n = some { l with st := .running, saved := [] } ∧
          t.dev = s.dev ∧ ∀ p ∈ l.spots,
            let c := p.2.2
            let x := s.ctx c
            let z := t.ctx c
            let tl := t.tile (tileOf c)
            let base := l.cellarAt p.1 p.2.1
            -- The record as its tile's key gives it.
            let dev := s.text base (max 0x400 l.cellarSlot)
            let word := fun (off : Nat) => readLE dev (base + off) 8
            let idx := bits (word 0) 32 8
            let m := if idx = 0xFF then 0 else s.drainMap x.drainMapAt idx
            let g := groupsAt x m base
            let spAt := (x.restoreItems dev m base).2
            let range := fun (j : Nat) => (mapRanges m).getD j (0, 0)
            let before := fun (j : Nat) => ((mapRanges m).take j).foldl (fun k r => k + r.2) 0
            let covers := fun (j b : Nat) => (range j).1 ≤ b ∧ b < (range j).1 + (range j).2
            (Memory.wf s.dev = true → ∀ b, base ≤ b → b < base + max 0x400 l.cellarSlot → mread dev b = s.devByte b) ∧
            (word 0 % 2 ^ 32 = 0 → z.life = x.life) ∧
            (word 0 % 2 ^ 32 ≠ 0 →
              z.life = .live ∧ z.pc = BitVec.ofNat 32 (word 0x010) ∧
              z.pend = pendOf (BitVec.ofNat 64 (word 0x018)) (BitVec.ofNat 8 (word 0x020)) ∧
              z.evPending = BitVec.ofNat 6 (word 0x040) ∧ z.loopc0 = BitVec.ofNat 64 (word 0x048) ∧
              z.loopc1 = BitVec.ofNat 64 (word 0x050) ∧ z.srseed = BitVec.ofNat 64 (word 0x060) ∧
              z.vstat = BitVec.ofNat 5 (word 0x068) ∧ z.dmr = BitVec.ofNat 18 (word 0x070) ∧
              z.ashape = BitVec.ofNat 4 (word 0x078) ∧ z.ecause = BitVec.ofNat 12 (word 0x028) ∧
              z.eaddr = BitVec.ofNat 64 (word 0x030) ∧ z.eslot = BitVec.ofNat 4 (word 0x038) ∧
              z.evEnable = BitVec.ofNat 6 (word 0x040 / 2 ^ 8) ∧ z.sigval = BitVec.ofNat 16 (word 0x040 / 2 ^ 32) ∧
              z.hintdrop = BitVec.ofNat 32 (word 0x058) ∧ z.annul = word 0x020 / 2 ^ 6 % 4 ∧
              z.pair = (if tbit (word 0x080) 10 = true then some (bits (word 0x080) 0 5, bits (word 0x080) 5 5) else none) ∧
              z.sel = tbit (word 0x080) 11 ∧ z.cur = bits (word 0x088) 32 8 ∧
              (x.segd = true → z.half0 = (if tbit (word 0x088) 8 = true then some (bits (word 0x088) 0 8) else none) ∧
                z.half1 = (if tbit (word 0x088) 24 = true then some (bits (word 0x088) 16 8) else none)) ∧ (∀ ch < 8, mgetD z.done ch 0 = word (0x0C0 + 8 * ch)) ∧
              (tbit (word 0) 40 = true → z.wait = .hold ⟨bits (word 8) 8 2, bits (word 8) 0 8, z.dmr, s.cycle, 0, []⟩) ∧
              (∀ i r, (mapS m)[i]? = some r → z.rs r = BitVec.ofNat 64 (readLE dev (base + 0x400 + 8 * i) 8)) ∧
              (∀ r, r ∉ mapS m → z.rs r = 0#64) ∧
              z.q = BitVec.ofNat 8 (if mapQ m = 0 then 0 else readLE dev g.qAt 1) ∧
              (∀ i r, (mapV m)[i]? = some r → ∀ cl < 8,
                z.rv r cl = BitVec.ofNat 2048 (readLE dev (g.vAt + 2048 * i + 256 * cl) 256)) ∧
              (∀ r, r ∉ mapV m → ∀ cl < 8, z.rv r cl = 0#2048) ∧
              (∀ i r, r ≠ 0 → (mapK m)[i]? = some r → ∀ cl < 8,
                z.rk r cl = BitVec.ofNat 256 (readLE dev (g.kAt + 256 * i + 32 * cl) 32)) ∧
              (∀ r, r ≠ 0 → r ∉ mapK m → ∀ cl < 8, z.rk r cl = 0#256) ∧
              (∀ i r, (mapA x m)[i]? = some r → ∀ row < 128,
                mfind tl.acc (128 * (x.accBase.toNat + r) + row) =
                  some (BitVec.ofNat 4096 (readLE dev (g.aAt + 65536 * i + 512 * row) 512))) ∧
              z.activePlane = (if mapWA m = true then (restorePlane dev g.wAt).1 else .zero) ∧
              z.shadowPlane = (if mapWS m = true
                then (restorePlane dev (if mapWA m = true then (restorePlane dev g.wAt).2 else g.wAt)).1 else .zero) ∧
              (∀ k row, l.accBase ≤ k → k < l.accBase + l.accCnt → row < 128 → (∀ r ∈ mapA x m, x.accBase.toNat + r ≠ k) →
                mgetD tl.acc (128 * k + row) 0#4096 = 0#4096) ∧
              (∀ j < 8, ∀ i < (range j).2, x.spLo ≤ (range j).1 + i → (range j).1 + i < x.spHi →
                (∀ k < 8, j < k → ¬ covers k ((range j).1 + i)) →
                mread tl.sp ((range j).1 + i) = mread dev (spAt + before j + i)) ∧
              (∀ b, l.spBase ≤ b → b < l.spBase + l.spSize → (∀ j < 8, ¬ covers j b) → mread tl.sp b = 0#8))))

/-! ### Engines (R173, R202, R207, R211, R218 to R225, R243 to R263, R268, R324, R325, R377, R383) -/

/-- R202, R251, R224, R254, R189, R173, R463, R320: a copy record that nothing holds moves a chunk of its stream, of n bytes at least,
or all that is left when n is 0; of one that touches more host lines than the attic holds, no more than the lines held together.
DONE counts the bytes moved; with its last byte it leaves its channel, before that it stays with the bytes moved. R198: no part ends
inside an aligned 8-byte word that the record writes whole from one word of its source, in one row or in several. Its rows lie as R251 says, in one, two or three dimensions. Each byte of the chunk of a plain copy reaches its
place, in device memory, host memory or a scratchpad, from its own place; a converting read gives four bytes for each cell; a
larder add adds each addend to its cell; every other byte of every memory keeps its value. (That is so where the record writes no
place twice and reads none that it writes.) A record whose source had an error at its push leaves with 0x103; one that meets a
fault moves the bytes before it and leaves with the fault; DONE does not grow. (Which bytes are before a fault, and what a failing
record has counted before, is log 43.) -/
def Obligations.CopiesPerform : Prop :=
  ∀ (s : State) (c : Nat) (ch : Chan) (r : CopyRec),
    let x := s.ctx c
    x.headRec ch.val = some r → r.kind ≤ 3 ∨ r.kind = 5 →
    let left := fun (t : State) => (∀ q ∈ (t.ctx c).recs, q.seq ≠ r.seq ∧ q ∈ x.recs) ∧
      (∀ q ∈ x.recs, q.seq ≠ r.seq → q ∈ (t.ctx c).recs) ∧ (t.ctx c).s = x.s
    let fault := fun (code ea : Nat) => (⟨code, ea, r.post, some r.ch, r.seq, r.colour, false⟩ : EngFault)
    let nd := s.planNeed x r
    (∀ a n, r.bad = some a → ∃ t, exec (.copyRecordPerform c ch n) s = .next t ∧ left t ∧
      (t.ctx c).engFaults = x.engFaults ++ [fault 0x103 a] ∧ (t.ctx c).done = x.done ∧ t.dev = s.dev) ∧
    (∀ n, r.bad = none → s.recBlocked c x r = false → nd.holds r.host.isAnswered = false → s.admitted c (some r.seq) nd = true →
      let stop := s.copyStop x r
      let top := s.roomEnd x r stop.1
      let e := if stop.2.isSome = true then top else min top (r.chunkTo n)
      let grown := (mgetD x.done r.ch 0 + (e - r.counted)) % 2 ^ 64
      let goesOn := fun (t : State) (q : CopyRec) => (t.ctx c).engFaults = x.engFaults ∧
        (t.ctx c).recs = x.recs.map (fun p => if p.seq = r.seq then q else p)
      (top ≤ stop.1 ∧ min stop.1 (min r.stream (r.moved + 64)) ≤ top ∧
        ((s.copyNeed x r stop.1).reach.length ≤ 262144 → top = stop.1)) ∧
      (stop.2 = none → stop.1 = r.stream ∧ (n = 0 → e = top) ∧ (0 < n → min top (r.moved + n) ≤ e ∧ e ≤ top)) ∧
      ∃ t, exec (.copyRecordPerform c ch n) s = .next t ∧ (t.ctx c).s = x.s ∧
        (∀ f, stop.2 = some f → (t.ctx c).done = x.done ∧
          if top = stop.1 then left t ∧ (t.ctx c).engFaults = x.engFaults ++ [fault f.1 f.2]
          else goesOn t { r with moved := e, host := r.host.renew s.cycle }) ∧
        (stop.2 = none → mgetD (t.ctx c).done r.ch 0 = grown ∧
          (e = r.stream → left t ∧ (t.ctx c).engFaults = x.engFaults) ∧
          (e ≠ r.stream → goesOn t { r with
            moved := e, counted := e, host := if top = r.stream then r.host else r.host.renew s.cycle })) ∧
        -- A word that the record writes once, whole, from one word of its source is moved whole.
        (stop.2 = none → r.kind ≤ 3 → r.conv = false → ∀ dw sw : Int,
          let byte := fun (i p q b : Nat) => p < r.n2 ∧ q < r.n1 ∧ b < r.n0 ∧ (r.dst : Int) + p * r.ds2 + q * r.ds1 + b = 8 * dw + i ∧
            (r.src : Int) + p * r.ss2 + q * r.ss1 + b = 8 * sw + i
          let pos := fun (p q b : Nat) => (p * r.n1 + q) * r.n0 + b
          (∀ i < 8, ∃ p q b, byte i p q b) →
          (∀ i p q b p' q' b', byte i p q b → byte i p' q' b' → pos p q b = pos p' q' b') →
          ∀ i j p q b p' q' b', i < 8 → j < 8 → byte i p q b → byte j p' q' b' → (pos p q b < e ↔ pos p' q' b' < e)) ∧
        (s.memOk = true →
          (r.kind ≤ 3 → r.conv = false →
            let now := fun (p q b : Nat) => p < r.n2 ∧ q < r.n1 ∧ b < r.n0 ∧
              r.moved ≤ (p * r.n1 + q) * r.n0 + b ∧ (p * r.n1 + q) * r.n0 + b < e
            let srcA := fun (p q b : Nat) => ((r.src : Int) + p * r.ss2 + q * r.ss1 + b).toNat
            let dstA := fun (p q b : Nat) => ((r.dst : Int) + p * r.ds2 + q * r.ds1 + b).toNat
            let goal := fun (p q b : Nat) => x.placeOf c r.dloc (dstA p q b)
            (r.sloc ≠ .sp → ∀ p q b p' q' b' w, now p q b → now p' q' b' →
              x.placeOf c r.sloc (srcA p q b) = some w → goal p' q' b' ≠ some w) →
            (r.dloc = .virt → ∀ p q b, now p q b → s.lineReady x (dstA p q b) = true) →
            (∀ p q b w, now p q b → goal p q b = some w →
              (∀ p' q' b', now p' q' b' → goal p' q' b' = some w → p' = p ∧ q' = q ∧ b' = b) →
              t.placeByte w = s.sourceByte c r (srcA p q b)) ∧
            ∀ w, (∀ p q b, now p q b → goal p q b ≠ some w) → t.placeByte w = s.placeByte w) ∧
          (r.kind ≤ 3 → r.conv = true → r.n0 % 32 = 0 → r.moved % 4 = 0 →
            let now := fun (p q k j : Nat) => p < r.n2 ∧ q < r.n1 ∧ k < r.n0 / 32 ∧ j < 4 ∧
              r.moved ≤ (p * r.n1 + q) * (r.n0 / 8) + 4 * k ∧ (p * r.n1 + q) * (r.n0 / 8) + 4 * k < e
            let cellA := fun (p q k : Nat) => ((r.src : Int) + p * r.ss2 + q * r.ss1 + (32 * k : Nat)).toNat
            let dstA := fun (p q k j : Nat) => ((r.dst : Int) + p * r.ds2 + q * r.ds1 + (4 * k + j : Nat)).toNat
            let goal := fun (p q k j : Nat) => x.placeOf c r.dloc (dstA p q k j)
            (∀ p q k i p' q' k' j' w, now p q k 0 → i < 32 → now p' q' k' j' →
              x.placeOf c .virt (cellA p q k + i) = some w → goal p' q' k' j' ≠ some w) →
            (r.dloc = .virt → ∀ p q k j, now p q k j → s.lineReady x (dstA p q k j) = true) →
            (∀ p q k j w, now p q k j → goal p q k j = some w →
              (∀ p' q' k' j', now p' q' k' j' → goal p' q' k' j' = some w → p' = p ∧ q' = q ∧ k' = k ∧ j' = j) →
              t.placeByte w = byteOf ((Cell.ofNat (s.vreadLE x (cellA p q k) 32)).read (x.anchorAt (cellA p q k))) j) ∧
            ∀ w, (∀ p q k j, now p q k j → goal p q k j ≠ some w) → t.placeByte w = s.placeByte w) ∧
          (r.kind = 5 → r.n0 % 4 = 0 → r.moved % 32 = 0 →
            let now := fun (k : Nat) => r.moved / 32 ≤ k ∧ k < r.n0 / 4 ∧ 32 * k < e
            let goal := fun (k i : Nat) => x.placeOf c .virt (r.dst + 32 * k + i)
            let addend := fun (k : Nat) =>
              let b := fun (j : Nat) => (s.sourceByte c r (r.src + 4 * k + j)).toNat
              b 0 + 256 * b 1 + 256 ^ 2 * b 2 + 256 ^ 3 * b 3
            (∀ k i, now k → i < 32 → ∃ e, x.pageOf (r.dst + 32 * k + i) = some e ∧ entRoute e = 0) →
            (∀ k i k' i', now k → i < 32 → now k' → i' < 32 → goal k i = goal k' i' → k = k' ∧ i = i') →
            (r.sloc ≠ .sp → ∀ k j k' i w, now k → j < 4 → now k' → i < 32 →
              x.placeOf c r.sloc (r.src + 4 * k + j) = some w → goal k' i ≠ some w) →
            (∀ k, now k → t.vreadLE x (r.dst + 32 * k) 32 =
              ((Cell.ofNat (s.vreadLE x (r.dst + 32 * k) 32)).add (decodeFloat F32 (addend k))
                (x.anchorAt (r.dst + 32 * k))).toNat) ∧
            ∀ w, (∀ k i, now k → i < 32 → goal k i ≠ some w) → t.placeByte w = s.placeByte w)))

/-- R253, R324, R325, R480: the atomic at the head of a channel reads and writes its word in one step, gives the old value to this
tile unless it asks for none, and leaves its channel. On a host-io page it sends its AtomicOp once, or fails with 0x304 while the
link is down; while the tenant is degraded and the page has FALLBACK it goes through an attic line held for writing, and the
event of R276 is set. One whose AtomicOp is in flight waits for its completion; one whose old value waits for its scratchpad bank
(R344) gives it. R200: a record onto its own tile comes before the stores that its context has issued since the push: it reads what
their bytes held, and they stand over its word (that R253 lets such a record in is log 47; the order of updates and stores, log 66). -/
def Obligations.RecordAtomicsPerform : Prop :=
  ∀ (s : State) (c : Nat) (ch : Chan) (r : CopyRec),
    let x := s.ctx c
    let own := tileOf c
    x.headRec ch.val = some r → s.recBlocked c x r = false →
    let leaves := fun (t : State) => (∀ q ∈ (t.ctx c).recs, q.seq ≠ r.seq) ∧
      mgetD (t.ctx c).done r.ch 0 = (mgetD x.done r.ch 0 + r.stream) % 2 ^ 64
    let ready := fun (nd : Need) =>
      nd.fault = none ∧ nd.holds r.host.isAnswered = false ∧ s.admitted c (some r.seq) nd = true
    let word := fun (old : Nat) => (r.newWord old).getD old
    (r.kind = 4 → r.dloc = .sp → (s.tile own).firstBad [(r.dst, r.width)] = none → Memory.wf (s.tile own).sp = true →
      -- A byte of the word as the record finds it: what a later store of the context has taken was kept.
      let before := fun (b : Nat) => ((r.kept.find? (fun k => k.at' == b)).map (·.val)).getD (mread (s.tile own).sp b)
      let old := (List.range r.width).foldr (fun i acc => (before (r.dst + i)).toNat + 256 * acc) 0
      ∃ t, exec (.remoteAtomicPerform c ch) s = .next t ∧ leaves t ∧
        ∀ b, mread (t.tile own).sp b =
          if r.nores = false ∧ r.src ≤ b ∧ b < r.src + r.width then byteOf old (b - r.src)
          else if r.dst ≤ b ∧ b < r.dst + r.width ∧ (∀ k ∈ r.kept, k.at' ≠ b) then byteOf (word old) (b - r.dst)
          else mread (s.tile own).sp b) ∧
    (∀ m, r.kind = 4 → r.dloc = .tile m → m ≠ own ∨ r.nores = true →
      (s.tile m).firstBad [(r.dst, r.width)] = none → Memory.wf (s.tile m).sp = true → Memory.wf (s.tile own).sp = true →
      let old := readLE (s.tile m).sp r.dst r.width
      ∃ t, exec (.remoteAtomicPerform c ch) s = .next t ∧ leaves t ∧
        readLE (t.tile m).sp r.dst r.width = word old % 256 ^ r.width ∧
        (r.nores = false → readLE (t.tile own).sp r.src r.width = old) ∧
        (r.nores = true → m ≠ own → (t.tile own).sp = (s.tile own).sp)) ∧
    (∀ i, r.kind = 4 ∧ r.dloc = .virt ∧ i = Instr.remoteAtomicPerform c ch ∨
        r.kind = 6 ∧ (∃ e, x.pageOf r.dst = some e ∧ entRoute e = 0) ∧ i = .hostAtomicPerform c ch →
      Memory.wf (s.tile own).sp = true → ready (s.rangeNeed x true true r.dst r.width) →
      let old := s.vreadLE x r.dst r.width
      ∃ t, exec i s = .next t ∧ leaves t ∧
        t.dev = (match r.newWord old with
          | some v => (s.vwriteLE x r.dst r.width v).dev
          | none => s.dev) ∧ (r.nores = false → readLE (t.tile own).sp r.src r.width = old)) ∧
    (r.kind = 6 → ∀ e, x.pageOf r.dst = some e →
      let pa := entPhys e r.dst
      let old := (List.range r.width).foldr (fun i acc => (s.hostByte (pa + i)).toNat + 256 * acc) 0
      let fallback := (s.tenant x.tenant).degraded && entFallback e
      let atPa := fun (t : State) => (List.range r.width).foldr (fun i acc => (t.hostByte (pa + i)).toNat + 256 * acc) 0
      (2 ≤ entRoute e → Memory.wf (s.tile own).sp = true → ready (s.rangeNeed x true true r.dst r.width) →
        ∃ t, exec (.hostAtomicPerform c ch) s = .next t ∧ leaves t ∧
          (r.nores = false → readLE (t.tile own).sp r.src r.width = old) ∧
          (pa % r.width = 0 → (mfind s.attic (pa / 64)).isSome = true → atPa t = word old % 256 ^ r.width ∧ t.hostMem = s.hostMem ∧
            ((r.newWord old).isSome = true → ∃ l, mfind t.attic (pa / 64) = some l ∧ l.st = .m))) ∧
      (entRoute e = 1 →
        (∀ since, r.host = .waiting since → exec (.hostAtomicPerform c ch) s = .next s) ∧
        (∀ v, r.host = .old v → Memory.wf (s.tile own).sp = true → ∃ t, exec (.hostAtomicPerform c ch) s = .next t ∧ leaves t ∧
          t.hostMem = s.hostMem ∧ (r.nores = false → readLE (t.tile own).sp r.src r.width = v % 256 ^ r.width)) ∧
        (r.host = .idle → s.linkUp = false →
          ∃ t, exec (.hostAtomicPerform c ch) s = .next t ∧ (∀ q ∈ (t.ctx c).recs, q.seq ≠ r.seq) ∧
            (t.ctx c).engFaults = x.engFaults ++ [⟨0x304, r.dst, r.post, some r.ch, r.seq, r.colour, false⟩]) ∧
        (r.host = .idle → s.linkUp = true → fallback = false →
          exec (.hostAtomicPerform c ch) s = .next (s.setCtx c (x.setRec { r with host := .waiting s.cycle }))) ∧
        (r.host = .idle → s.linkUp = true → fallback = true → ∀ l, mfind s.attic (pa / 64) = some l → l.st ≠ .s →
          ∃ t, exec (.hostAtomicPerform c ch) s = .next t ∧ leaves t ∧ (t.ctx c).evPending.getLsbD 5 = true ∧
            (r.nores = false → Memory.wf (s.tile own).sp = true → readLE (t.tile own).sp r.src r.width = old) ∧
            (pa % r.width = 0 → atPa t = word old % 256 ^ r.width ∧ t.hostMem = s.hostMem))))

/-- R207, R272, R286, R325: a completion of the host lets the record, the gather or the posted write that waits for it go on, or
fails it with the cause of the completion and the address at which it waits (the time limit is counted in cycles from the request,
log 64): 0x301, 0x302 or 0x303 for a read, 0x312, 0x311 or
0x303 for an AtomicOp; 0x310 for an AtomicOp or 0x300 when none comes in time. The address of a read of the virtual space is
its source. An AtomicOp that succeeds has read and written its word in host memory; an unsupported one with FALLBACK degrades
the tenant; its old value waits while its scratchpad bank is reserved (R344). A request is late only while an answer of the host or an
attic line is still to come: with all of it there it waits for something else. R319, R348: every record that waits for a sector
which the host has not given back in time fails with 0x300, one begun too, and as the cycle ends the sector is lost, poisoned
where the host held it exclusive. With nothing that waits, a completion or a time limit changes nothing. -/
def Obligations.HostAnswers : Prop :=
  (∀ (s : State) (c : Nat) (st : Completion),
    let x := s.ctx c
    let code := match st with
      | .success => 0 | .unsupported => 0x301 | .completerAbort => 0x302 | .poisoned => 0x303
    let faults := fun (y : Ctx) (code ea : Nat) (post : Bool) (seq colour : Nat) =>
      { y with engFaults := y.engFaults ++ [⟨code, ea, post, none, seq, colour, false⟩] }
    (∀ g since, x.headGather = some g → g.host = .waiting since →
      exec (.hostRequestCompletion c .gather st) s = .next (s.setCtx c
        (if st = .success then x.setGather { g with host := .answered since }
         else faults x code (s.gatherWaitAddr x g) g.post g.seq 0)) ∧
      ((s.gatherNeed x g).answer = true ∨ (s.gatherNeed x g).lines ≠ [] → since + s.timeout ≤ s.cycle →
        exec (.hostCompletionTimeout c .gather) s = .next (s.setCtx c (faults x 0x300 (s.gatherWaitAddr x g) g.post g.seq 0))) ∧
      ((s.gatherNeed x g).answer = false → (s.gatherNeed x g).lines = [] → s.lateSnoops (s.gatherNeed x g) = [] →
        exec (.hostCompletionTimeout c .gather) s = .next s)) ∧
    (∀ g, x.headGather = some g → s.lateSnoops (s.gatherNeed x g) ≠ [] →
      exec (.hostCompletionTimeout c .gather) s = .next (s.setCtx c (faults x 0x300 (s.gatherWaitAddr x g) g.post g.seq 0))) ∧
    (∀ p rest, x.posted = p :: rest →
      exec (.hostRequestCompletion c .posted st) s = .next (s.setCtx c
        (if st = .success then { x with posted := rest } else faults { x with posted := rest } code p.addr false p.seq p.colour)) ∧
      (p.sent + s.timeout ≤ s.cycle → exec (.hostCompletionTimeout c .posted) s =
        .next (s.setCtx c (faults { x with posted := rest } 0x300 p.addr false p.seq p.colour)))) ∧
    (∀ r, x.headCell = some r → s.lateSnoops (s.headNeed x .cells) ≠ [] → exec (.hostCompletionTimeout c .cells) s =
      .next (s.setCtx c (faults { x with cells := x.cells.eraseP (fun q => !q.held) } 0x300 r.at' r.post r.seq r.colour))) ∧
    (∀ d rest, x.drains = d :: rest → s.lateSnoops (s.headNeed x .drains) ≠ [] → exec (.hostCompletionTimeout c .drains) s =
      .next (s.setCtx c (faults { x with drains := rest } 0x300 d.at' d.post d.seq 0))) ∧
    exec (.hostRequestCompletion c .cells st) s = .next s ∧ exec (.hostRequestCompletion c .drains st) s = .next s ∧
    (x.headGather = none → exec (.hostRequestCompletion c .gather st) s = .next s ∧
      exec (.hostCompletionTimeout c .gather) s = .next s) ∧
    (x.posted = [] → exec (.hostRequestCompletion c .posted st) s = .next s ∧ exec (.hostCompletionTimeout c .posted) s = .next s) ∧
    ∀ ch : Chan, x.headRec ch.val = none → exec (.hostRequestCompletion c (.chan ch) st) s = .next s ∧
      exec (.hostCompletionTimeout c (.chan ch)) s = .next s ∧ exec (.hostAtomicopCompletion c ch st) s = .next s) ∧
  (∀ (s : State) (sec : Nat) (b : BackInv), mfind s.backInv sec = some b → b.since + s.timeout ≤ s.cycle → s.power ≠ .off →
    mwf s.snoop = true → s.fwPend = [] →
    mfind s.tick.snoop sec = none ∧ (mfind s.snoop sec = some true → s.tick.poison.contains sec = true)) ∧
  ∀ (s : State) (c : Nat) (ch : Chan) (r : CopyRec) (since : Nat),
    let x := s.ctx c
    x.headRec ch.val = some r →
    let leaves := fun (y : Ctx) (code ea : Nat) =>
      { y with recs := y.recs.filter (fun q => q.seq != r.seq)
               engFaults := y.engFaults ++ [⟨code, ea, r.post, some r.ch, r.seq, r.colour, false⟩] }
    let fails := fun (i : Instr) (code ea : Nat) => exec i s = .next (s.setCtx c (leaves x code ea))
    let one := r.moved = 0 ∧ ((4 ≤ r.kind ∧ r.kind ≤ 6) ∨ (r.n1 = 1 ∧ r.n2 = 1))
    (one → r.sloc = .virt → r.dloc ≠ .virt → r.kind ≤ 3 → s.waitAddr x r = r.src) ∧
    (one → r.sloc ≠ .virt → r.dloc = .virt → s.waitAddr x r = r.dst) ∧
    (r.host = .attic since →
      exec (.hostRequestCompletion c (.chan ch) .success) s = .next s ∧
      fails (.hostRequestCompletion c (.chan ch) .unsupported) 0x301 r.dst ∧
      fails (.hostRequestCompletion c (.chan ch) .completerAbort) 0x302 r.dst ∧
      fails (.hostRequestCompletion c (.chan ch) .poisoned) 0x303 r.dst) ∧
    (r.host = .waiting since →
      (r.kind ≠ 6 ∨ x.routeOf r.dst ≠ 1 →
        exec (.hostRequestCompletion c (.chan ch) .success) s = .next (s.setCtx c (x.setRec { r with host := .answered since })) ∧
        fails (.hostRequestCompletion c (.chan ch) .unsupported) 0x301 (s.waitAddr x r) ∧
        fails (.hostRequestCompletion c (.chan ch) .completerAbort) 0x302 (s.waitAddr x r) ∧
        fails (.hostRequestCompletion c (.chan ch) .poisoned) 0x303 (s.waitAddr x r)) ∧
      ∀ e, r.kind = 6 → x.pageOf r.dst = some e → entRoute e = 1 →
        let pa := entPhys e r.dst
        let old := (List.range r.width).foldr (fun i acc => (s.hostByte (pa + i)).toNat + 256 * acc) 0
        fails (.hostAtomicopCompletion c ch .completerAbort) 0x311 r.dst ∧
        fails (.hostAtomicopCompletion c ch .poisoned) 0x303 r.dst ∧
        (entFallback e = false → fails (.hostAtomicopCompletion c ch .unsupported) 0x312 r.dst) ∧
        (entFallback e = true → exec (.hostAtomicopCompletion c ch .unsupported) s =
          .next ((s.setTenant x.tenant { s.tenant x.tenant with degraded := true }).setCtx c
            { x.setRec { r with host := .attic s.cycle } with evPending := x.evPending ||| 32#6 })) ∧
        let busy := s.banksBusy [⟨2 + tileOf c, r.src, r.width⟩]
        ∃ t, exec (.hostAtomicopCompletion c ch .success) s = .next t ∧
          (busy = true → (t.ctx c) = x.setRec { r with host := .old old }) ∧
          (busy = false → (∀ q ∈ (t.ctx c).recs, q.seq ≠ r.seq) ∧
            mgetD (t.ctx c).done r.ch 0 = (mgetD x.done r.ch 0 + r.stream) % 2 ^ 64 ∧
            (r.nores = false → Memory.wf (s.tile (tileOf c)).sp = true → readLE (t.tile (tileOf c)).sp r.src r.width = old)) ∧
          (mfind s.attic (pa / 64) = none → mfind s.attic ((pa + r.width - 1) / 64) = none → Memory.wf s.hostMem = true →
            readLE t.hostMem pa r.width = (r.newWord old).getD old % 256 ^ r.width)) ∧
    let nd := s.headNeed x (.chan ch)
    let late := (∃ t, ((r.host = .waiting t ∧ nd.answer = true) ∨
        ((r.host = .waiting t ∨ r.host = .answered t ∨ r.host = .attic t) ∧ nd.lines ≠ [])) ∧ t + s.timeout ≤ s.cycle) ∨
      s.lateSnoops nd ≠ []
    let atomicOp := decide (r.kind = 6) && x.routeOf r.dst == 1 && match r.host with
      | .waiting _ => true
      | _ => false
    (late → fails (.hostCompletionTimeout c (.chan ch)) (if atomicOp = true then 0x310 else 0x300) (s.waitAddr x r)) ∧
    (¬ late → exec (.hostCompletionTimeout c (.chan ch)) s = .next s)

/-- R383, R218, R221, R225: the oldest released push of the cell queue adds its next addend to a cell, makes its next cell anew, or
copies its next cell raw into the scratchpad, and goes on to the next or leaves. That the pushes that are released perform in push
order, past those still held, is the model's choice (log 54). -/
def Obligations.CellPushesPerform : Prop :=
  ∀ (s : State) (c : Nat) (r : CellRec) (kept rest : List CellRec),
    let x := s.ctx c
    x.cells = kept ++ r :: rest → (∀ q ∈ kept, q.held = true) → (∀ q ∈ kept ++ rest, q.seq ≠ r.seq) → r.held = false → s.cellBlocked c x r = false →
    let ready := fun (nd : Need) => nd.fault = none ∧ nd.holds false = false ∧ s.admitted c (some r.seq) nd = true
    (∀ a f more, r.op = .ladd ((a, f) :: more) → ready (s.rangeNeed x true true a 32) →
      let cell := ((Cell.ofNat (s.vreadLE x a 32)).add (decodeFloat F32 f) (x.anchorAt a)).toNat
      ∃ t, exec (.cellAddPerform c) s = .next t ∧ t.dev = (s.vwriteLE x a 32 cell).dev ∧
        (t.ctx c).cells = kept ++ if more = [] then rest else { r with op := .ladd more, gone := r.gone + 1 } :: rest) ∧
    (∀ a n, r.op = .linit a (n + 1) → ready (s.rangeNeed x false true a 32) →
      ∃ t, exec (.cellInitPerform c) s = .next t ∧ t.dev = (s.vwriteLE x a 32 (2 ^ 246)).dev ∧
        (t.ctx c).cells = kept ++ if n = 0 then rest else { r with op := .linit (a + 32) n, gone := r.gone + 1 } :: rest) ∧
    (∀ a d n, r.op = .lraw a d (n + 1) → ready (s.rangeNeed x true false a 32) → Memory.wf (s.tile (tileOf c)).sp = true →
      ∃ t, exec (.lrawPerform c) s = .next t ∧ t.dev = s.dev ∧
        readLE (t.tile (tileOf c)).sp d 32 = s.vreadLE x a 32 ∧
        (t.ctx c).cells = kept ++ if n = 0 then rest else { r with op := .lraw (a + 32) (d + 32) n, gone := r.gone + 1 } :: rest)

/-- R218, R219, R224: an addition counts its addend, or sets GX when COUNT is full; a NaN, an infinity or an addend beyond the
window sets its flag and leaves INT; any other adds its value in units of 2^A, truncated toward zero, modulo 2^216, and sets UNF
when that is not exact; no other flag changes. The cell that two addends leave does not depend on their order, nor does what a converting
read gives; that read leaves out UNF, gives the canonical NaN for a cell without INIT, with NAN, with both infinities, with OVF
or with GX, and an infinity before OVF and GX; any other it gives as sext(216, INT) * 2^A rounded by RNE into f32, and beyond the
range of f32 as the largest value of that sign. -/
def Obligations.CellAdditionsCommute : Prop :=
  (∀ (k : Cell) (x y : XVal) (a : Int), (k.add x a).add y a = (k.add y a).add x a ∧
    ((k.add x a).add y a).read a = ((k.add y a).add x a).read a) ∧
  ∀ (k : Cell) (a : Int),
    let full := k.count = 2 ^ 24 - 1
    let counts := fun (j : Cell) => { j with count := if full then k.count else k.count + 1, gx := k.gx || decide full }
    (∀ n, k.add (.nan n) a = counts { k with nan := true }) ∧
    k.add (.inf false) a = counts { k with pinf := true } ∧ k.add (.inf true) a = counts { k with ninf := true } ∧
    (∀ (neg : Bool) (m : Nat) (e : Int),
      -- the addend m * 2^e is num / den units of 2^A
      let num := m * 2 ^ (e - a).toNat
      let den := 2 ^ (a - e).toNat
      (2 ^ 191 ≤ num / den → k.add (.fin neg m e) a = counts { k with ovf := true }) ∧
      (num / den < 2 ^ 191 → k.add (.fin neg m e) a = counts { k with
        unf := k.unf || decide (num % den ≠ 0)
        int := (((k.int : Int) + (if neg then -((num / den : Nat) : Int) else (num / den : Nat))) % 2 ^ 216).toNat })) ∧
    (k.init = false ∨ k.nan = true ∨ (k.pinf = true ∧ k.ninf = true) → k.read a = 0x7FC00000) ∧
    (k.init = true → k.nan = false →
      (k.pinf = true → k.ninf = false → k.read a = 0x7F800000) ∧ (k.pinf = false → k.ninf = true → k.read a = 0xFF800000) ∧
      (k.pinf = false → k.ninf = false → k.ovf = true ∨ k.gx = true → k.read a = 0x7FC00000) ∧
      (k.pinf = false → k.ninf = false → k.ovf = false → k.gx = false → k.int % 2 ^ 216 = 0 → k.read a = 0) ∧
      (k.pinf = false → k.ninf = false → k.ovf = false → k.gx = false → k.int % 2 ^ 216 ≠ 0 →
        let i := k.int % 2 ^ 216
        let neg := decide (2 ^ 215 ≤ i)
        let m := if neg then 2 ^ 216 - i else i
        -- The value lies in the binade of 2^b, and the grid there has the spacing 2^q.
        let b := (m.log2 : Int) + a
        let q := max b (-126) - 23
        let n := (roundMag .rne 0 neg m a q).1
        let beyond := 127 < b ∨ (b = 127 ∧ n = 2 ^ 24)
        (beyond → k.read a = if neg then 0xFF7FFFFF else 0x7F7FFFFF) ∧
        (¬ beyond → ∃ m' e', decodeFloat F32 (k.read a) = .fin neg m' e' ∧ xeq (.fin neg m' e') (.fin neg n q) = true))) ∧
    ∀ u, { k with unf := u }.read a = k.read a

/-- R257, R377, R260, R261, R246, R247, R223, R268: a gather reads its words; a collective whose members have pushed descriptors
that agree leaves the same result in every member's scratchpad, the root's source for BCAST, else the tree of R261 over the members'
sources; a drain push stores or adds its next row, into the scratchpad, into words of the virtual space or into larder cells;
an overlay copy makes its segment resident. R200: a MACCD row in the own scratchpad is added as it performs (R212, R247, R392), but
before the stores that its context has issued since the push: it reads what their bytes held, and they stand over its words (that
reading of R200 is log 66). R247, R223: the word and the addend of MACCD, with the clamp; R261: the nodes of the tree. -/
def Obligations.EngineQueuesPerform : Prop :=
  (∀ (s : State) (c : Nat),
    let x := s.ctx c
    (∀ g, x.headGather = some g →
      (∀ a, g.bad = some a → exec (.gatherComplete c) s =
        .next (s.setCtx c { x with engFaults := x.engFaults ++ [⟨0x103, a, g.post, none, g.seq, 0, false⟩] })) ∧
      (g.bad = none → (s.gatherNeed x g).fault = none → (s.gatherNeed x g).holds g.host.isAnswered = false →
        s.admitted c (some g.seq) (s.gatherNeed x g) = true → (x.gathers.map (·.seq)).Nodup →
        ∃ t g', exec (.gatherComplete c) s = .next t ∧ g' ∈ (t.ctx c).gathers ∧ g'.seq = g.seq ∧
          g'.results = some (g.addrs.map (fun a => match a with
            | none => 0
            | some a => s.vreadLE x a g.wbytes)) ∧ t.dev = s.dev ∧ (t.ctx c).v = x.v)) ∧
    (∀ r, x.colls.find? (fun r => r.st == .pending) = some r → s.collReady c r = true →
      let cs := s.collUnion c r
      let recOf := fun (d : Nat) => s.joined d r.level r.ordinal
      (∀ d ∈ cs, ∃ q, recOf d = some q ∧ q.agrees r = true ∧ q.bad = none) → c ∈ r.members → (cs.map tileOf).Nodup →
      (∀ d ∈ cs, Memory.wf (s.tile (tileOf d)).sp = true) →
      let n := collBytes r.ty r.count
      let leaves := fun (t : State) (v : Nat) => ∀ d ∈ cs, ∀ q, recOf d = some q →
        readLE (t.tile (tileOf d)).sp q.dst n = v % 256 ^ n ∧ { q with st := .done } ∈ (t.ctx d).colls
      (r.op ≠ 6 → ∃ t, exec (.collectiveComplete c) s = .next t ∧ leaves t (collResult r (cs.filterMap (fun d => (recOf d).map (·.snap))))) ∧
      (r.op = 6 → ∀ root q, s.rootOf r = some root → recOf root = some q →
        ∃ t, exec (.collectiveComplete c) s = .next t ∧ leaves t (collResult r [q.snap]))) ∧
    (∀ d i v more rest, x.drains = d :: rest → s.drainBlocked c x d = false → d.rows = (i, v) :: more →
      let goesOn := fun (t : State) => (t.ctx c).drains = if more = [] then rest else { d with rows := more } :: rest
      let unkept := fun (ds : List DrainRec) => ds.map (fun q => { q with kept := [] })
      (engIsSp d.base = true → Memory.wf (s.tile (tileOf c)).sp = true →
        let a := ((engSp d.base : Int) + i * d.stride).toNat
        (d.accd = false → ∃ t, exec (.drainPushPerform c) s = .next t ∧
          readLE (t.tile (tileOf c)).sp a d.rowBytes = v % 256 ^ d.rowBytes ∧ t.dev = s.dev ∧ goesOn t) ∧
        (d.accd = true → (s.tile (tileOf c)).firstBad [(a, 512)] = none →
          -- A byte of the row as the update finds it: what a later store of the context has taken was kept.
          let kept := fun (b : Nat) => d.kept.find? (fun k => k.at' == b)
          let before := fun (b : Nat) => (((kept b).map (·.val)).getD (mread (s.tile (tileOf c)).sp b)).toNat
          let word := fun (j : Nat) => before (a + 4 * j) + 2 ^ 8 * before (a + 4 * j + 1) + 2 ^ 16 * before (a + 4 * j + 2)
            + 2 ^ 24 * before (a + 4 * j + 3)
          let new := fun (b : Nat) => byteOf (accdWord d.prof d.clamp (word ((b - a) / 4)) (elem v 32 ((b - a) / 4))) ((b - a) % 4)
          ∃ t, exec (.drainPushPerform c) s = .next t ∧
            (∀ b, mread (t.tile (tileOf c)).sp b =
              if a ≤ b ∧ b < a + 512 ∧ kept b = none then new b else mread (s.tile (tileOf c)).sp b) ∧
            (d.kept = [] → goesOn t) ∧
            unkept (t.ctx c).drains = unkept (if more = [] then rest else { d with rows := more } :: rest) ∧
            -- The other updates that wait for a byte under the same store find this one's.
            ∀ q ∈ (t.ctx c).drains, ∀ k ∈ q.kept, a ≤ k.at' → k.at' < a + 512 → (kept k.at').map (·.when') = some k.when' →
              k.val = new k.at')) ∧
      (engIsSp d.base = false →
        let va := (d.base : Int) + i * d.stride
        let n := x.accdRow va
        let nd := s.rangeNeed x true true va n
        let a := va.toNat
        nd.fault = none → nd.holds false = false → s.admitted c (some d.seq) nd = true →
        ∃ t, exec (.drainPushPerform c) s = .next t ∧ goesOn t ∧
          (Memory.wf s.dev = true → (∀ j < n, ∃ e, x.pageOf (a + j) = some e ∧ entRoute e = 0) →
            (∀ j < n, ∀ k < n, x.placeOf c .virt (a + j) = x.placeOf c .virt (a + k) → j = k) →
            (n = 512 → ∀ j < 128, elem (t.vreadLE x a 512) 32 j =
              accdWord d.prof d.clamp (elem (s.vreadLE x a 512) 32 j) (elem v 32 j) % 2 ^ 32) ∧
            (n = 4096 → ∀ j < 128, t.vreadLE x (a + 32 * j) 32 =
              ((Cell.ofNat (s.vreadLE x (a + 32 * j) 32)).add
                (accdAddend d.prof d.clamp (x.anchorAt (a + 32 * j)) (elem v 32 j)) (x.anchorAt (a + 32 * j))).toNat) ∧
            ∀ w, (∀ j < n, x.placeOf c .virt (a + j) ≠ some w) → t.placeByte w = s.placeByte w))) ∧
    ∀ k, x.ovCopy = some k →
      let im := x.segImage (k.seg + 1)
      let nd := s.rangeNeed x true false im.1 im.2
      pickFault (x.rangeFaults .fetch im.1 im.2 0 1) = none → nd.fault = none → nd.holds true = false →
      s.admitted c (some k.seq) nd = true →
      ∃ t, exec (.segmentResident c) s = .next t ∧ (t.ctx c).ovCopy = none ∧
        (if k.half = 0 then (t.ctx c).half0 else (t.ctx c).half1) = some k.seg ∧ (t.ctx c).pc = x.pc ∧ t.dev = s.dev ∧
        (Memory.wf x.imem = true → ∀ j < im.2, mread (t.ctx c).imem (0x10000 * k.half + x.rsize + j) = s.vread x (im.1 + j))) ∧
  (∀ (op : Nat) (ty : ETy) (a b e f g : Nat),
    let node := collNode op ty
    let tree := fun (xs : List Nat) => collTree op ty (bitLen xs.length) xs
    tree [a] = a ∧ tree [a, b] = node a b ∧ tree [a, b, e] = node (node a b) e ∧
    tree [a, b, e, f] = node (node a b) (node e f) ∧ tree [a, b, e, f, g] = node (node (node a b) (node e f)) g) ∧
  (∀ (ty : ETy) (a b : Nat),
    (ty.isF = false → collNode 0 ty a b = truncI ty.cw (intVal ty a + intVal ty b)) ∧
    (ty.isF = true → collNode 0 ty a b = (addRound (fmtOf ty) a b).1) ∧
    collNode 3 ty a b = a &&& b ∧ collNode 4 ty a b = a ||| b ∧ collNode 5 ty a b = a ^^^ b ∧
    (ty.isF = false → collNode 1 ty a b = truncI ty.cw (min (intVal ty a) (intVal ty b)) ∧
      collNode 2 ty a b = truncI ty.cw (max (intVal ty a) (intVal ty b))) ∧
    (ty = .f32 ∨ ty = .f16 ∨ ty = .bf16 → a < 2 ^ ty.cw → b < 2 ^ ty.cw →
      let half := 2 ^ (ty.cw - 1)
      let inf := if ty = .f32 then 0x7F800000 else if ty = .f16 then 0x7C00 else 0x7F80
      let isNan := fun (p : Nat) => inf < p % half
      -- Patterns in the order of their numbers, -0 below +0.
      let key := fun (p : Nat) => if half ≤ p then -((p % half : Nat) : Int) - 1 else (p : Int)
      (isNan a ∨ isNan b → ∀ op, op = 1 ∨ op = 2 → collNode op ty a b = if ty = .f32 then 0x7FC00000 else if ty = .f16 then 0x7E00 else 0x7FC0) ∧
      (¬ isNan a → ¬ isNan b → collNode 1 ty a b = (if key a ≤ key b then a else b) ∧
        collNode 2 ty a b = if key a ≤ key b then b else a))) ∧
  (∀ (prof word e : Nat) (clamp : Bool) (a : Int),
    let sum := (addRound F32 word e).1
    (accdWord 3 clamp word e = truncI 32 (sextN 32 word + sextN 32 e)) ∧
    (prof ≠ 3 → accdWord prof clamp word e =
      if clamp = true ∧ sum = 0x7F800000 then 0x7F7FFFFF else if clamp = true ∧ sum = 0xFF800000 then 0xFF7FFFFF else sum) ∧
    let v := if prof = 3 then XVal.ofInt (sextN 32 e) else decodeFloat F32 e
    accdAddend prof false a e = v ∧ (∀ n, v = .nan n → accdAddend prof true a e = v) ∧
    (∀ n, v = .inf n → accdAddend prof true a e = .fin n (2 ^ 191 - 1) a) ∧
    ∀ n m x, v = .fin n m x →
      -- The addend is m * 2^x, truncated to units of 2^a.
      let units := m * 2 ^ (x - a).toNat / 2 ^ (a - x).toNat
      accdAddend prof true a e = if 2 ^ 191 ≤ units then .fin n (2 ^ 191 - 1) a else v) ∧
  ∀ (r : CollRec) (srcs : List Nat) (i : Nat), i < r.count →
    let ty := tyOfCode r.ty
    elem (collResult r srcs) ty.cw i =
      collTree r.op ty (bitLen srcs.length) (srcs.map (fun v => elem v ty.cw i)) % 2 ^ ty.valBits

/-! ### The host, tenants, firmware, debugging, power (R183, R188, R286, R317 to R322, R332 to R337, R351) -/

/-- R188, R322: a MIGRATE packet that passes enters its migration, one at a time for each tenant; a bad field halts its queue, and one
that R322 refuses leaves with a record of REASON 10. At the end of its cycle every loaded entry of the page is in transit; when
nothing uses the page and the host holds none of it, its bytes move (R213: an entry of the page that a launch unit loads meanwhile is in
transit as well, log 36); then, once the host has given back what it holds of the
listed image entries, every loaded entry and every listed one names the new frame and is valid again on one cycle, and a
completion record follows. (That the owner is the tenant of the page's key, and that the PF is limited to no window, is log 36;
the TAG of the halt record, log 14.) -/
def Obligations.MigrationsMove : Prop :=
  (∀ (s : State) (fn q : Nat) (p : Packet), s.packet fn q = some p → s.headerBad fn q p = none → p.type = 4 →
    s.isHome [(p.at', 64 * p.len)] = true →
    (s.migrateFieldBad fn p = true → exec (.migrate fn q) s = .next
      ((s.setQueue fn q { s.queue fn q with halted := true }).record fn 3 10 p.tag 0 0 (s.queue fn q).head 0)) ∧
    (s.migrateFieldBad fn p = false →
      let old := s.pword p 1
      let z := bits p.w0 24 5
      let owner := ((s.rangeKey old (pageBytes z)).bind (mfind s.keys)).getD fn
      (s.migrations.any (fun m => m.fn == owner) = true → exec (.migrate fn q) s = .next s) ∧
      (s.migrations.any (fun m => m.fn == owner) = false → s.isHome (s.migrateReads p) = true →
        (s.migrateRefused fn p = true → exec (.migrate fn q) s = .next ((s.pop fn q p).record fn 2 10 p.tag 0 0 0 0)) ∧
        (s.migrateRefused fn p = false → exec (.migrate fn q) s = .next { s.pop fn q p with
          migrations := s.migrations ++ [⟨owner, 4 * fn + q, p.tag, old, s.pword p 2, z, s.migrateList p, false, false⟩] })))) ∧
  (∀ (s : State) (m : Migration), s.migrations.filter (fun m => !m.marked) = [m] →
    let t := s.markMigrations
    (∀ n ∈ t.migrations, n.marked = true) ∧ t.dev = s.dev ∧
      ∀ c, (t.ctx c).window = (s.ctx c).window.map (fun e =>
        if entAt e.2.toNat m.old m.lsize then (e.1, BitVec.ofNat 128 (entSetState e.2.toNat 2)) else e)) ∧
  (∀ (s : State) (n ry rx i e : Nat) (l : Launch) (m : Migration), (i, e) ∈ usedEntries (s.tableImage l.wtabAddr) →
    m ∈ s.migrations → m.marked = true → entAt e m.old m.lsize = true →
      (i, BitVec.ofNat 128 (entSetState e 2)) ∈ (s.prepare n l ry rx).window) ∧
  (∀ (s : State) (fn : Nat) (m : Migration), s.migrations.find? (fun m => m.fn == fn && m.marked && !m.copied) = some m →
    let n := pageBytes m.lsize
    s.unused m.old m.lsize = true → s.hostCopies m.old n = [] → s.hostCopies m.new n = [] → Memory.wf s.dev = true →
    ∃ t, exec (.migrationCopy fn) s = .next t ∧ t.ctxs = s.ctxs ∧ { m with copied := true } ∈ t.migrations ∧
      ∀ b, t.devByte b = if m.new ≤ b ∧ b < m.new + n then s.devByte (m.old + (b - m.new)) else s.devByte b) ∧
  ∀ (s : State) (fn : Nat) (m : Migration), s.migrations.find? (fun m => m.fn == fn && m.copied) = some m →
    let back := (s.entryNeed m.entries).snoops
    (back ≠ [] → ∃ t, exec (.migrationCommit fn) s = .next t ∧ t.dev = s.dev ∧ t.ctxs = s.ctxs ∧ t.migrations = s.migrations ∧
      ∀ p ∈ back, (mfind t.backInv p.1).isSome = true) ∧
    (back = [] →
    let placed := fun (e : Nat) => entSetState (entSetFrame e m.new) 1
    ∃ u : State, exec (.migrationCommit fn) s = .next (u.record (m.q / 4) 0 0 m.tag 0 0 0 0) ∧
      u.migrations = s.migrations.filter (fun q => q != m) ∧
      (∀ c, (u.ctx c).window = (s.ctx c).window.map (fun e =>
        if entAt e.2.toNat m.old m.lsize then (e.1, BitVec.ofNat 128 (placed e.2.toNat)) else e)) ∧
      (Memory.wf s.dev = true → m.entries.Nodup → (∀ a ∈ m.entries, a % 16 = 0) → ∀ a ∈ m.entries,
        u.devLE a 16 = placed (s.devLE a 16) % 2 ^ 128))

/-- R318, R319, R332, R317, R183: a host read inside the window gets the sector and a filter entry, shared or exclusive; while the
filter is full it waits and an entry is called back, and it is served once the host gives one up; one outside the window gets
poisoned data, one of the carve-out all ones, and one without CXL an unsupported request, with no entry. A host write inside
the window stores the enabled bytes, and is dropped elsewhere. Inside the window are the sectors of frames of the function's own
keys that the SLC does not hold under another key (what that last check answers is log 31; that poisoned data reads 0, log 51). -/
def Obligations.HostMemoryAccesses : Prop :=
  ∀ (s : State) (fn a : Nat),
    let sec := a / 64
    let answers := fun (m : HostMsg) (health : Bool) (i : Instr) => ∃ t, exec i s = .next t ∧ t.hostOut = s.hostOut ++ [m] ∧
      t.snoop = s.snoop ∧ t.dev = s.dev ∧ (t.health ≠ s.health ↔ health = true)
    (∀ p ∈ [(Instr.hostReadShared fn a, false), (.hostReadOwn fn a, true)],
      (s.hostBar fn a = none → s.filterFull sec = false →
        exec p.1 s = .next ({ s with snoop := mput s.snoop sec p.2 }.tell
          (.readData fn (64 * sec) (s.devLE (64 * sec) 64) (s.poison.contains sec)))) ∧
      (s.hostBar fn a = none → s.filterFull sec = true → ∃ t, exec p.1 s = .next t ∧
        t.hostReads = s.hostReads ++ [(fn, a, p.2)] ∧ t.snoop = s.snoop ∧ t.dev = s.dev ∧ t.backInv ≠ [] ∧
        (s.backInv = [] → ∃ v, (mfind s.snoop v).isSome = true ∧ t.backInv = [(v, ⟨true, s.cycle⟩)])) ∧
      (∀ n since data, mfind s.backInv n = some ⟨true, since⟩ → mfind s.snoop n = some false → s.hostReads = [(fn, a, p.2)] →
        s.fwPend = [] →
        let u := { s with backInv := merase s.backInv n, snoop := merase s.snoop n, hostReads := [] }
        u.hostBar fn a = none → u.filterFull sec = false → exec (.backInvalidateResponse n data) s =
          .next ({ u with snoop := mput u.snoop sec p.2 }.tell
            (.readData fn (64 * sec) (s.devLE (64 * sec) 64) (s.poison.contains sec)))) ∧
      (s.hostBar fn a = some .outside → answers (.readData fn a 0 true) true p.1) ∧
      (s.hostBar fn a = some .carveOut → answers (.readData fn a (2 ^ 512 - 1) false) true p.1) ∧
      (s.hostBar fn a = some .noCxl → answers (.unsupported fn a) false p.1)) ∧
    (∀ (en : BitVec 64) (data : BitVec 512),
      (s.hostBar fn a = none → Memory.wf s.dev = true → ∃ t, exec (.hostMemWrite fn a en data) s = .next t ∧
        (∀ b, t.devByte b = if b / 64 = sec ∧ en.getLsbD (b % 64) = true then byteOf data.toNat (b % 64) else s.devByte b) ∧
        (en = BitVec.allOnes 64 → t.poison.contains sec = false) ∧ t.snoop = s.snoop) ∧
      (s.hostBar fn a = some .outside ∨ s.hostBar fn a = some .carveOut → ∃ t, exec (.hostMemWrite fn a en data) s = .next t ∧
        t.dev = s.dev ∧ t.health ≠ s.health) ∧
      (s.hostBar fn a = some .noCxl → exec (.hostMemWrite fn a en data) s = .next (s.tell (.unsupported fn a)))) ∧
    (s.linkUp = false ∨ s.linkRate ≠ 64000 → s.hostBar fn a = some .noCxl) ∧
    (s.linkUp = true → s.linkRate = 64000 → s.power = .d0 →
      (s.inCarveOut sec = true → s.hostBar fn a = some .carveOut) ∧
      (s.inCarveOut sec = false →
        (mfind s.frameKey (a / 2 ^ 21) = none → s.hostBar fn a = some .outside) ∧
        ∀ k, mfind s.frameKey (a / 2 ^ 21) = some k →
          (mfind s.keys k ≠ some fn → s.hostBar fn a = some .outside) ∧
          (∀ e, mfind s.slc sec = some e → e.key ≠ k → s.hostBar fn a = some .outside) ∧
          (64 * sec + 64 ≤ Config.devBytes → mfind s.keys k = some fn → (∀ e, mfind s.slc sec = some e → e.key = k) →
            s.hostBar fn a = none)))

/-- R319, R320, R321, R332, R24: an answer to a back-invalidate writes back what the host held exclusive, unless the sector is in
the carve-out, which adds a health record, and ends the host's copy, or leaves it shared; what firmware wrote meanwhile then
stands. The attic answers a snoop with its line, a dirty one written back first; a line that arrives stands in the attic with
the state the host gave and the tenants that asked for it, and a full attic gives up another line for it, a dirty one written
back (which one is log 59); none arrives in a gated attic (R337). (What the carve-out does with the host's data is log 9, that firmware's
bytes stand log 11.) R317, R286: the link comes up at a width and a rate that it supports; when it goes down, requests for lines
are dropped and each read behind a host-io write fails with 0x304. -/
def Obligations.CachesAndLink : Prop :=
  (∀ (s : State) (n : Nat),
      (∀ (b : BackInv) (data : BitVec 512), mfind s.backInv n = some b → Memory.wf s.dev = true → mwf s.snoop = true →
        mwf s.backInv = true → mwf s.fwPend = true → s.hostReads = [] →
        let exclusive := mfind s.snoop n = some true
        let given := fun (a : Nat) =>
          if exclusive ∧ a / 64 = n ∧ s.inCarveOut n = false then byteOf data.toNat (a % 64) else s.devByte a
        ∃ t, exec (.backInvalidateResponse n data) s = .next t ∧ mfind t.backInv n = none ∧
          (b.invalidate = true → mfind t.snoop n = none) ∧ (b.invalidate = false → mfind t.snoop n = some false) ∧
          (∀ a, t.devByte a = if b.invalidate = true ∧ a / 64 = n then (mfind s.fwPend a).getD (given a) else given a) ∧
          (exclusive → (t.health ≠ s.health ↔ s.inCarveOut n = true)) ∧ t.ctxs = s.ctxs) ∧
      (∀ inv, mfind s.attic n = none → exec (.hostSnoop n inv) s = .next (s.tell (.snoopMiss n))) ∧
      (∀ inv l, mfind s.attic n = some l → mwf s.attic = true → Memory.wf s.hostMem = true →
        ∃ t, exec (.hostSnoop n inv) s = .next t ∧ t.hostOut = s.hostOut ++ [.snoopData n l.data (l.st == .m)] ∧
          mfind t.attic n = (if inv then none else some { l with st := .s }) ∧
          (∀ a, mread t.hostMem a = if l.st = .m ∧ a / 64 = n then byteOf l.data (a % 64) else mread s.hostMem a)) ∧
      (∀ own, s.power ≠ .d0 → exec (.atticLineFill n own) s = .next s) ∧
      ∀ want own, mfind s.atticReq n = some want → s.cxlUp = true → s.power = .d0 → (want.own = true → own = true) → mfind s.attic n = none →
        let line : Line := ⟨if own then .e else .s, readLE s.hostMem (64 * n) 64, want.fns⟩
        (s.attic.length < 262144 → exec (.atticLineFill n own) s = .next { s with
          atticReq := merase s.atticReq n, attic := mput s.attic n line }) ∧
        (262144 ≤ s.attic.length → mwf s.attic = true → Memory.wf s.hostMem = true →
          ∃ t v l, exec (.atticLineFill n own) s = .next t ∧ (mfind t.attic n).isSome = true ∧ mfind s.attic v = some l ∧
            mfind t.attic v = none ∧ t.attic.length ≤ s.attic.length ∧
            (l.st = .m → ∀ i < 64, mread t.hostMem (64 * v + i) = byteOf l.data i))) ∧
  (∀ (s : State),
      (∀ lanes ∈ [16, 8, 4, 2, 1], ∀ rate ∈ [64000, 32000, 16000, 8000, 5000, 2500],
        exec (.linkTraining lanes rate) s = .next { s with linkLanes := lanes, linkRate := rate, linkUp := true }) ∧
      ∃ t, exec .linkDown s = .next t ∧ t = { s with linkUp := false, atticReq := [], hostReads := [], ctxs := t.ctxs } ∧
        ∀ c, t.ctx c = { s.ctx c with
          posted := []
          engFaults := (s.ctx c).engFaults
            ++ (s.ctx c).posted.map (fun p => ⟨0x304, p.addr, false, none, p.seq, p.colour, false⟩) })

/-- R335, R321, R183: a tenant reset ends the tenant's launches, writes back and drops every attic line that its pages reached, ends
its debug sessions, unbinds its keys, leaves their frames unassigned, unpins its sectors and clears DEGRADED; the snoop filter keeps
its entries until the host has answered (R319). R25: whatever key such a frame is given next, the bytes it held read as opaque ones. A
function's reset
also resets its queues. R337: D3hot is entered only with no live task; it keeps keys and device memory, and loses the tiles, the
caches, requests for lines and the debug sessions. Power loss loses keys and device memory too, and keeps host memory; power on
again is reset (what of the model's own fields goes on is log 3; that the skip marks, the spares, the cycle count and host memory
do is log 39). -/
def Obligations.TenantResetsAndPower : Prop :=
  (∀ (s : State) (fn : Nat), mwf s.attic = true → mwf s.frameKey = true → mwf s.rings = true → Memory.wf s.hostMem = true →
      let done := fun (t : State) =>
        (∀ n l, mfind t.launches n = some l → l.fn = fn → l.st = .over) ∧
        (∀ n l, mfind t.attic n = some l → fn ∉ l.tenants) ∧
        (∀ n l, mfind s.attic n = some l → fn ∈ l.tenants → l.st = .m → ∀ i < 64, mread t.hostMem (64 * n + i) = byteOf l.data i) ∧
        (∀ n l, mfind s.attic n = some l → fn ∉ l.tenants → mfind t.attic n = some l) ∧
        (∀ k, mfind t.keys k ≠ some fn) ∧
        (∀ f k, mfind s.frameKey f = some k → mfind s.keys k = some fn → mfind t.frameKey f = none) ∧
        (∀ f k, mfind s.frameKey f = some k → mfind s.keys k = some fn → mfind s.seals f = none → k < 128 → ∀ k' < 128,
          let u := { t with frameKey := mput t.frameKey f k' }
          s.genOf k ≠ u.genOf k' ∧
            ∀ b, b / 2 ^ 21 = f → u.devByte b = Config.otherKey (s.genOf k) (u.genOf k') b (readLE t.dev (b / 64 * 64) 64)) ∧
        (mwf s.snoop = true → ∀ sec, (mfind t.snoop sec).isSome = (mfind s.snoop sec).isSome) ∧
        (∀ q ∈ t.slc, q.2.pinned ≠ some fn) ∧ (t.tenant fn).degraded = false ∧ ∀ k ∈ t.consents, k.tenant ≠ fn
      (∃ t, exec (.tenantReset fn) s = .next t ∧ done t) ∧
      ∃ t, exec (.functionLevelReset fn) s = .next t ∧ done t ∧ (∀ q < 4, t.queue fn q = Queue.reset) ∧ mfind t.rings fn = none) ∧
  (∀ (s : State),
      (s.power = .d0 → s.liveCtxs ≠ [] → exec .d3hotEntry s = .next s) ∧
      (s.power = .d0 → s.liveCtxs = [] → s.launches.any (fun p => p.2.st.placed') = false → s.snoop = [] → mwf s.attic = true →
        ∃ t, exec .d3hotEntry s = .next t ∧ t.power = .d3hot ∧ t.ctxs = [] ∧ t.tiles = [] ∧ t.slc = [] ∧ t.attic = [] ∧
          t.consents = [] ∧ t.atticReq = [] ∧ t.hostReads = [] ∧ t.hints = [] ∧ t.keys = s.keys ∧ t.keyGen = s.keyGen ∧
          t.seals = s.seals ∧ t.dev = s.dev ∧ t.launches = s.launches) ∧
      (s.power = .d3hot → exec .d3hotExit s = .next { s with power := .d0 }) ∧
      (∃ t, exec .powerLoss s = .next t ∧ t.power = .off ∧ t.ctxs = [] ∧ t.tiles = [] ∧ t.keys = [] ∧ t.frameKey = [] ∧
        t.dev = [] ∧ t.slc = [] ∧ t.attic = [] ∧ t.consents = [] ∧ t.launches = [] ∧ t.hostMem = s.hostMem ∧ t.cskip = s.cskip) ∧
      (s.power = .off → ∃ t, exec .reset s = .next t ∧ t = { State.reset with
        cycle := s.cycle, cal := { Calendar.reset with start := s.cycle }, hostMem := s.hostMem, hostOut := s.hostOut
        cskip := s.cskip, spares := s.spares, unavailable := s.unavailable, agenda := s.agenda, inputs := s.inputs
        free := s.free }))

/-- R332 to R334, R337: FWRANGE takes one write and the image is checked; with a verified image PREPARE tells every VF and suspends
debug sessions; PAUSED is noted once for each VF, whose background launches are then evicted (that only a VF that has paused is
quiesced is log 32; that a suspended session's contexts go on is log 15); ACTIVATE restarts the firmware once every VF has paused and nothing runs, and the restart takes the image
of the carve-out, tells every VF and keeps contexts and tiles; an SPDM request is answered with a signed measurement. -/
def Obligations.FirmwareChanges : Prop :=
  ∀ (s : State),
    (∀ lo hi, (s.fwrange = none → exec (.fwrangeWrite lo hi) s = .next { s with
        fwrange := some (lo, hi), fwstatus := if Config.imageOk (window (s.text lo (hi - lo)) lo (hi - lo)) then fwVerified else fwFailed }) ∧
      (s.fwrange ≠ none → exec (.fwrangeWrite lo hi) s = .next s)) ∧
    (s.activation ≠ .none ∨ s.fwstatus ≠ fwVerified → exec .prepare s = .next s) ∧
    (s.activation = .none → s.fwstatus = fwVerified → ∃ t, exec .prepare s = .next t ∧
      t = { s with activation := .prepared, ctxs := t.ctxs, hostOut := s.hostOut ++ (List.range' 1 96).map (fun vf => .msix vf 1) } ∧
      ∀ c, t.ctx c = { s.ctx c with
        halted := false, haltNext := false, stepOnce := false
        frameFrom := if (s.ctx c).halted ∧ (s.ctx c).strict then s.cycle else (s.ctx c).frameFrom }) ∧
    (s.activation = .prepared →
      (∀ fn, 1 ≤ fn → fn ≤ 96 →
        ((s.tenant fn).paused ≠ none → exec (.paused fn) s = .next s) ∧
        ((s.tenant fn).paused = none → ∃ t, exec (.paused fn) s = .next t ∧
          (∀ f, t.tenant f = if f = fn then { s.tenant fn with paused := some s.cycle } else s.tenant f) ∧
          ∀ n l, mfind s.launches n = some l → l.fn = fn → l.cls = 2 → l.st = .running → l.failing = false →
            mfind t.launches n = some { l with st := .evicting s.cycle, saved := [] })) ∧
      (s.quiesced = true → exec .activate s = .next { s with activation := .restarting s.cycle }) ∧
      (s.quiesced = false → exec .activate s = .next s)) ∧
    (∀ a, s.activation = .restarting a → ∃ t, exec .firmwareRestart s = .next t ∧
      t = { s with activation := .none, firmware := s.firmware + 1, tenants := t.tenants
                   image := (match s.fwrange with
                     | none => []
                     | some r => window (s.text r.1 (r.2 - r.1)) r.1 (r.2 - r.1))
                   hostOut := s.hostOut ++ (List.range' 1 96).map (fun vf => .msix vf 2) } ∧
      ∀ fn, t.tenant fn = { s.tenant fn with paused := none }) ∧
    (s.quiesced = true ↔ (∀ vf, 1 ≤ vf → vf ≤ 96 → (s.tenant vf).paused ≠ none) ∧ ∀ p ∈ s.launches, p.2.st.placed' = false) ∧
    ∀ nonce, exec (.spdmRequest nonce) s = .next { s with
      hostOut := s.hostOut ++ [.spdm s.measured (Config.spdmSignature nonce s.measured)] }

/-- R336, R337, R351, R83: a signed consent enables debugging of its launches; with consent a context halts at a boundary, its
registers (s, q, v, k and control registers, the address next to issue, the pending-branch state, the accumulators and the weight
planes) are read and written while it is halted; a register that only the device writes keeps its value (the numbers are log 15), it steps and it resumes; without consent each does nothing. An expired consent ends and its halted
contexts resume (that the expiry is a frame number is log 38). -/
def Obligations.DebuggerActs : Prop :=
  ∀ (s : State) (c : Nat),
    let x := s.ctx c
    (∀ fn tid ex, exec (.debugConsent fn tid ex false) s = .next s ∧
      ∃ t, exec (.debugConsent fn tid ex true) s = .next t ∧ ⟨fn, tid, ex⟩ ∈ t.consents ∧
        ∀ l, x.isLive = true → mfind s.launches x.launch = some l → l.fn = fn → l.tid = tid → t.ctx c = { x with dbg := true }) ∧
    (s.debugged x = true →
      (x.atBoundary = true → ∃ t, exec (.debugHalt c) s = .next t ∧ t = s.setCtx c (t.ctx c) ∧ (t.ctx c).halted = true ∧
        (t.ctx c).s = x.s ∧ (t.ctx c).pc = x.pc ∧ (t.ctx c).pend = x.pend) ∧
      (x.halted = true →
        (∀ reg v, reg < 64 → exec (.debugRegisterAccess c false reg v) s = .next (s.tell (.debugValue (x.rs reg)))) ∧
        (∀ reg v, 0 < reg → reg < 64 → ∃ t, exec (.debugRegisterAccess c true reg v) s = .next t ∧
          t = s.setCtx c { x with s := (t.ctx c).s } ∧ (t.ctx c).rs reg = v ∧ ∀ r, r ≠ reg → (t.ctx c).rs r = x.rs r) ∧
        (∀ n v, n < 8 →
          exec (.debugRegisterAccess c false (64 + n) v) s = .next (s.tell (.debugValue (if x.rq n = true then 1#64 else 0#64))) ∧
          ∃ t, exec (.debugRegisterAccess c true (64 + n) v) s = .next t ∧ t = s.setCtx c { x with q := (t.ctx c).q } ∧
            ∀ m < 8, (t.ctx c).rq m = if m = n ∧ n ≠ 0 then v.getLsbD 0 else x.rq m) ∧
        (∀ v, exec (.debugRegisterAccess c false 72 v) s = .next (s.tell (.debugValue (x.pc.zeroExtend 64))) ∧
          exec (.debugRegisterAccess c true 72 v) s = .next (s.setCtx c { x with pc := BitVec.ofNat 32 v.toNat })) ∧
        (∀ num v, num < 0x1000 →
          exec (.debugRegisterAccess c false (0x1000 + num) v) s = .next (s.tell (.debugValue ((s.creg c num).getD 0#64))) ∧
          ∃ t, exec (.debugRegisterAccess c true (0x1000 + num) v) s = .next t ∧ t = s.setCtx c (t.ctx c) ∧
            (∀ k, k ≠ num → t.creg c k = s.creg c k) ∧
            (∀ p ∈ [(0x005, 4), (0x006, 18), (0x010, 32), (0x011, 12), (0x012, 64), (0x013, 4), (0x014, 64), (0x015, 8), (0x020, 64),
              (0x021, 64), (0x022, 32), (0x023, 64), (0x024, 5)], num = p.1 → t.creg c num = some (BitVec.ofNat 64 (v.toNat % 2 ^ p.2))) ∧
            (num = 0x016 → (t.ctx c).evEnable = BitVec.ofNat 6 (v.toNat / 2 ^ 8) ∧
              (t.ctx c).evPending = x.evPending &&& ~~~ BitVec.ofNat 6 v.toNat) ∧
            (num ≤ 0x004 ∨ num = 0x007 ∨ num = 0x008 ∨ 0x030 ≤ num → t = s.setCtx c x)) ∧
        (∀ n w v, n < 64 → w < 256 →
          let word := fun (y : Ctx) (m j : Nat) => (y.rv m (j / 32)).toNat / 2 ^ (64 * (j % 32)) % 2 ^ 64
          exec (.debugRegisterAccess c false (0x10000 + 256 * n + w) v) s = .next (s.tell (.debugValue (BitVec.ofNat 64 (word x n w)))) ∧
          ∃ t, exec (.debugRegisterAccess c true (0x10000 + 256 * n + w) v) s = .next t ∧ t = s.setCtx c { x with v := (t.ctx c).v } ∧
            ∀ m < 64, ∀ j < 256, word (t.ctx c) m j = if m = n ∧ j = w then v.toNat else word x m j) ∧
        (∀ n w v, n < 8 → w < 32 →
          let word := fun (y : Ctx) (m j : Nat) => (y.rk m (j / 4)).toNat / 2 ^ (64 * (j % 4)) % 2 ^ 64
          exec (.debugRegisterAccess c false (0x20000 + 32 * n + w) v) s = .next (s.tell (.debugValue (BitVec.ofNat 64 (word x n w)))) ∧
          ∃ t, exec (.debugRegisterAccess c true (0x20000 + 32 * n + w) v) s = .next t ∧ t = s.setCtx c { x with k := (t.ctx c).k } ∧
            ∀ m < 8, ∀ j < 32, word (t.ctx c) m j = if m = n ∧ n ≠ 0 ∧ j = w then v.toNat else word x m j) ∧
        (∀ a r w v, a < x.accCnt.toNat → r < 128 → w < 64 →
          let reg := 0x30000 + 8192 * a + 64 * r + w
          let key := 128 * (x.accBase.toNat + a) + r
          let word := fun (t : State) (j : Nat) => (mgetD (t.tile (tileOf c)).acc key 0#4096).toNat / 2 ^ (64 * j) % 2 ^ 64
          exec (.debugRegisterAccess c false reg v) s = .next (s.tell (.debugValue (BitVec.ofNat 64 (word s w)))) ∧
          ∃ t, exec (.debugRegisterAccess c true reg v) s = .next t ∧ t.ctxs = s.ctxs ∧ t.dev = s.dev ∧
            (∀ j < 64, word t j = if j = w then v.toNat else word s j) ∧
            ∀ k, k ≠ key → mfind (t.tile (tileOf c)).acc k = mfind (s.tile (tileOf c)).acc k) ∧
        (∀ v,
          let counts := BitVec.ofNat 8 v.toNat
          exec (.debugRegisterAccess c false 73 v) s = .next (s.tell (.debugValue (etgtOf x.pend))) ∧
          exec (.debugRegisterAccess c false 74 v) s =
            .next (s.tell (.debugValue ((edlyOf x.pend x.annul).zeroExtend 64))) ∧
          exec (.debugRegisterAccess c true 73 v) s = .next (s.setCtx c { x with pend := pendOf v (edlyOf x.pend x.annul) }) ∧
          (edlyOk counts = true → exec (.debugRegisterAccess c true 74 v) s =
            .next (s.setCtx c { x with pend := pendOf (etgtOf x.pend) counts, annul := counts.toNat / 64 })) ∧
          (edlyOk counts = false → exec (.debugRegisterAccess c true 74 v) s = .next (s.setCtx c x))) ∧
        (∀ p b k w v, p < 2 → b < 4 → k < 3 → w < 4096 →
          let reg := 0x50000 + 0x10000 * p + 0x4000 * b + 0x1000 * k + w
          let plane := fun (y : Ctx) (n : Nat) => if n = 0 then y.activePlane else y.shadowPlane
          let word := fun (y : Ctx) (n b k j : Nat) => ((plane y n).band b).part k / 2 ^ (64 * j) % 2 ^ 64
          exec (.debugRegisterAccess c false reg v) s = .next (s.tell (.debugValue (BitVec.ofNat 64 (word x p b k w)))) ∧
          (8 * w < (plane x p).partBytes k → ∃ t, exec (.debugRegisterAccess c true reg v) s = .next t ∧
            t = s.setCtx c { x with plane0 := (t.ctx c).plane0, plane1 := (t.ctx c).plane1 } ∧
            plane (t.ctx c) (1 - p) = plane x (1 - p) ∧
            (plane (t.ctx c) p).fmt = (plane x p).fmt ∧ (plane (t.ctx c) p).sparse = (plane x p).sparse ∧
            ∀ b' < 4, ∀ k' < 3, ∀ j, word (t.ctx c) p b' k' j = if b' = b ∧ k' = k ∧ j = w then v.toNat else word x p b' k' j)) ∧
        (∃ t, exec (.debugSingleStep c) s = .next t ∧ t = s.setCtx c (t.ctx c) ∧ (t.ctx c).halted = false ∧
          (t.ctx c).stepOnce = true ∧ (t.ctx c).s = x.s ∧ (t.ctx c).pc = x.pc) ∧
        ∃ t, exec (.debugResume c) s = .next t ∧ t = s.setCtx c (t.ctx c) ∧ (t.ctx c).halted = false ∧
          (t.ctx c).stepOnce = false ∧ (t.ctx c).s = x.s ∧ (t.ctx c).pc = x.pc)) ∧
    (s.debugged x = false → ∀ w reg v, ∀ i ∈ [Instr.debugHalt c, .debugRegisterAccess c w reg v, .debugSingleStep c,
      .debugResume c], exec i s = .next s) ∧
    ∀ k ∈ s.consents, k.expiry < s.cal.mfn → ∃ t, exec (.consentExpiry k.tenant k.tid) s = .next t ∧ k ∉ t.consents ∧
      ∀ l, mfind s.launches x.launch = some l → l.fn = k.tenant → l.tid = k.tid →
        (t.ctx c).halted = false ∧ (t.ctx c).dbg = false ∧ (t.ctx c).s = x.s ∧ (t.ctx c).pc = x.pc

/-! ### Maintenance, shedding, bandwidth (R16, R190, R191, R309, R310, R314, R338) -/

/-- R309, R310: an announcement at least 4,096 frames ahead enters the calendar and sets CAL in every live context; an extension
by a multiple of 64 cycles, 4,096 in all, delays the boundary, and on the planned boundary sets OVR in elastic contexts and
raises 0x283 in a strict one that waits for it, after a transit fault of its bundle, 0x183. R16, R17, R23, R27, R338, R173: in a
slot, the first tile of a row that fails is served by the row's spare and the logical tile stays, a further one or one whose
spare has failed is unavailable; a row of a scratchpad bank that is replaced loses its data and no other byte changes; the spare core
takes the role of the firmware or scheduler core that fails; every spare adds a health record, and one that is used up is not
brought in. (That the logical tile keeps its data and which core is which are log 40; 0x183 before 0x283, log 28.) -/
def Obligations.MaintenanceAndSpares : Prop :=
  (∀ (s : State) (n c : Nat),
      let x := s.ctx c
      let k := s.cal
      (4096 ≤ n → k.ext = none → ∃ t, exec (.extendedFrameAnnounce n) s = .next t ∧
        t = { s with cal := { k with ext := some (k.mfn + n) }, ctxs := t.ctxs } ∧
        (x.isLive = true → t.ctx c = { x with evPending := x.evPending ||| 2#6 })) ∧
      (n % 64 = 0 → 0 < n → s.cycle < k.planned → k.slip + k.slipNext + n ≤ 4096 →
        ∃ kind, exec (.unannouncedExtension n) s = .next
          { s with cal := { k with slipNext := k.slipNext + n }, health := s.health ++ [(kind, n)] }) ∧
      (n % 64 = 0 → 0 < k.slipNext + n → k.planned ≤ s.cycle → k.slip + k.slipNext + n ≤ 4096 →
        ∃ t, exec (.unannouncedExtension n) s = .next t ∧
        t.cal = { k with slip := k.slip + k.slipNext + n, slipNext := 0 } ∧ t.cal.next = k.next + k.slipNext + n ∧
        (0 < n → t.health ≠ s.health) ∧ (n = 0 → t.health = s.health) ∧
        (s.cycle = k.planned → x.isLive = true →
          (x.strict = false → (t.ctx c).evPending = x.evPending ||| 16#6) ∧
          (∀ b len, x.strict = true → s.waitsBoundary c = true → x.fetch = .bundle b len → (s.ctxs.map (·.1)).Nodup →
            (∃ r, (t.ctx c).rollback = some r ∧ r.pc = x.pc ∧ (r.code = 0x283 ∨ r.code = 0x183)) ∧
            let u : State := { s with cal := t.cal, health := t.health }
            (s.ctxs = [(c, x)] →
              (u.transitFault c b len = none → (t.ctx c).rollback = some ⟨0x283, 0, 10, x.pc⟩) ∧
              ∀ r, u.transitFault c b len = some r → (t.ctx c).rollback = some ⟨0x183, r.eaddr, r.eslot, x.pc⟩))))) ∧
  (∀ (s : State), s.cal.slot = true →
      (∀ row col, row < 12 → col < 13 →
        let skip := mgetD s.cskip row 12
        let spare := skip = 12 ∧ s.spares.colDead.contains row = false
        (spare → ∃ t, exec (.spareBringIn (.tile row col)) s = .next t ∧ mgetD t.cskip row 12 = col ∧
          t.unavailable = s.unavailable ∧ t.ctxs = s.ctxs ∧ t.tiles = s.tiles ∧ t.health ≠ s.health ∧
          (col = 12 → t.spares.colDead.contains row = true)) ∧
        (¬ spare → col ≠ skip → ∃ t, exec (.spareBringIn (.tile row col)) s = .next t ∧ t.cskip = s.cskip ∧
          t.unavailable.contains (12 * row + if col < skip then col else col - 1) = true ∧ t.ctxs = s.ctxs ∧ t.health ≠ s.health)) ∧
      (∀ tile bank row, tile < 144 → bank < 64 → row < 768 →
        let used := mgetD s.spares.rows (64 * tile + bank) 0
        (2 ≤ used → exec (.spareBringIn (.bankRow tile bank row)) s = .next s) ∧
        (used < 2 → ∃ t, exec (.spareBringIn (.bankRow tile bank row)) s = .next t ∧
          mgetD t.spares.rows (64 * tile + bank) 0 = used + 1 ∧
          t.health ≠ s.health ∧ t.ctxs = s.ctxs ∧ (∀ u, u ≠ tile → t.tile u = s.tile u) ∧
          ∀ a, a < 4096 * row + 64 * bank ∨ 4096 * row + 64 * bank + 64 ≤ a → mread (t.tile tile).sp a = mread (s.tile tile).sp a)) ∧
      (∀ tile bank, tile < 144 → bank < 64 →
        (tile ∈ s.spares.banks → exec (.spareBringIn (.bank tile bank)) s = .next s) ∧
        (tile ∉ s.spares.banks → ∃ t, exec (.spareBringIn (.bank tile bank)) s = .next t ∧
          tile ∈ t.spares.banks ∧ t.health ≠ s.health ∧ t.ctxs = s.ctxs ∧
          ∀ a, a / 64 % 64 ≠ bank → mread (t.tile tile).sp a = mread (s.tile tile).sp a)) ∧
      ∀ n,
        (n ∈ s.spares.lanes → exec (.spareBringIn (.dqLane n)) s = .next s) ∧
        (n < 64 → n ∉ s.spares.lanes → ∃ h, exec (.spareBringIn (.dqLane n)) s =
          .next { s with spares := { s.spares with lanes := s.spares.lanes ++ [n] }, health := s.health ++ [h] }) ∧
        let roles := s.spares.cores
        let takes := fun (cores : List CoreRole) => ∃ h, exec (.spareBringIn (.core n)) s =
          .next { s with spares := { s.spares with cores := cores }, health := s.health ++ [h] }
        (roles[n]? = none ∨ roles[n]? = some .failed → exec (.spareBringIn (.core n)) s = .next s) ∧
        (roles[n]? = some .spare → takes (roles.set n .failed)) ∧
        ∀ r, roles[n]? = some r → r = .firmware ∨ r = .scheduler →
          (.spare ∉ roles → exec (.spareBringIn (.core n)) s = .next s) ∧
          ∀ i, roles[i]? = some .spare → (∀ j < i, roles[j]? ≠ some .spare) → takes ((roles.set i r).set n .failed))

/-- R314: a sweep that finds temperature or power high advances a shedding step, four calm sweeps in a row go one back and end the SHED
of the step left, every sweep in step 3 raises SHED of standard contexts and in step 4 that of both classes, and at TH4 every
launch ends, the caches hold nothing dirty, pinned sectors stay pinned, and the debug sessions are over. (That undoing a step sets SHED of its class to 0 in one sweep
is the model's choice, log 18.) -/
def Obligations.SweepsShed : Prop :=
  ∀ (s : State) (j w : Nat), s.cal.mfn % 16 = 0 → s.cal.slot = true → s.power = .d0 → mwf s.attic = true →
    ∃ t, exec (.sensorSweep j w) s = .next t ∧
      (Config.threshold 4 ≤ j → t.tripped = true ∧ (∀ n l, mfind t.launches n = some l → l.st = .over) ∧
        (∀ p ∈ t.slc, p.2.dirty = false) ∧ (∀ sec, (mfind t.slc sec).bind (·.pinned) = (mfind s.slc sec).bind (·.pinned)) ∧
        (∀ p ∈ t.attic, p.2.st ≠ .m) ∧ t.consents = []) ∧
      (j < Config.threshold 4 →
        let high := Config.threshold 1 ≤ j ∨ 700 < w
        let low := j + 5 < Config.threshold 1 ∧ w < 680
        let back := low ∧ s.calm = 3
        let std := if back ∧ s.shedStep = 3 then 0 else s.shedStd
        let int := if back ∧ s.shedStep = 4 then 0 else s.shedInt
        t.shedStd = (if 3 ≤ t.shedStep then min 15 (std + 1) else std) ∧
        t.shedInt = (if 4 ≤ t.shedStep then min 15 (int + 1) else int) ∧
        (high → t.calm = 0 ∧
          (s.shedStep ≤ 2 → t.shedStep = s.shedStep + 1) ∧
          (s.shedStep = 3 → t.shedStep = if s.shedStd = 15 ∨ s.standardLive = false then 4 else 3) ∧
          (4 ≤ s.shedStep → t.shedStep = s.shedStep)) ∧
        (¬ high → ¬ low → t.calm = 0 ∧ t.shedStep = s.shedStep) ∧
        (low → ¬ high → s.calm ≠ 3 → t.calm = s.calm + 1 ∧ t.shedStep = s.shedStep) ∧
        (low → ¬ high → s.calm = 3 → t.calm = 0 ∧ t.shedStep = s.shedStep - 1))

/-- R190, R191: a token that is owed enters its bucket, else the pool, else is lost. A port admits one request on a cycle:
interactive before standard before background, the planes of a class in rotation, the oldest of a plane, and of the last
two classes only one whose tokens are there. Such a request takes its tokens from the bucket before the pool; an
interactive request of one sector never waits for tokens and, with both empty, runs into debt down to the floor. (What a bucket holds
at reset and how tokens spread over cycles is log 3; that a request of two sectors waits for two tokens, log 66; that DEBT counts
for the tenant of the request, log 16.) -/
def Obligations.TokensPay : Prop :=
  ∀ (s : State) (slice : Nat),
    let pool := s.poolOf slice
    (∀ b,
      let k := 12 * slice + b
      let tk := s.bucket k
      let u := { s with refills := s.refills.erase (slice, b) }
      ((slice, b) ∉ s.refills → exec (.tokenRefill slice b) s = .next s) ∧
      ((slice, b) ∈ s.refills →
        (tk < s.bucketTop k → exec (.tokenRefill slice b) s = .next { u with tokens := mput s.tokens k (tk + 1) }) ∧
        (s.bucketTop k ≤ tk → pool < s.poolTop slice →
          exec (.tokenRefill slice b) s = .next { u with pool := mput s.pool slice (pool + 1) }) ∧
        (s.bucketTop k ≤ tk → s.poolTop slice ≤ pool → exec (.tokenRefill slice b) s = .next u))) ∧
    ∀ plane cls n,
      let k := 12 * slice + 3 * plane + cls
      let tk := s.bucket k
      let last := mgetD s.portTurn (3 * slice + cls) 3
      let req := Instr.slcRequestAdmit slice plane cls n
      (s.portChoice slice ≠ some (plane, cls, n) → exec req s = .next s) ∧
      (s.portChoice slice = some (plane, cls, n) →
        slice ∉ s.portUsed ∧ cls < 3 ∧ plane < 4 ∧ (cls ≠ 0 → n ≤ tk.toNat + pool) ∧
        (∀ cls' < cls, ∀ p < 4, ∀ q, s.waiting slice p cls' = some q → s.canPay slice p cls' q.2.secs.length = false) ∧
        (∀ i j, i < j → j < 4 → (last + 1 + j) % 4 = plane → ∀ q, s.waiting slice ((last + 1 + i) % 4) cls = some q →
          s.canPay slice ((last + 1 + i) % 4) cls q.2.secs.length = false) ∧
        ∀ e, s.waiting slice plane cls = some e → e.2.secs.length = n ∧ ∃ t, exec req s = .next t ∧
          slice ∈ t.portUsed ∧ mgetD t.portTurn (3 * slice + cls) 3 = plane ∧
          (cls ≠ 0 → s.bucket k - min tk.toNat n = t.bucket k ∧ t.poolOf slice = pool - (n - tk.toNat)) ∧
          (cls = 0 → n = 1 →
            (0 < tk → t.tokens = mput s.tokens k (tk - 1) ∧ t.pool = s.pool) ∧
            (tk ≤ 0 → 0 < pool → t.tokens = s.tokens ∧ t.pool = mput s.pool slice (pool - 1)) ∧
            (tk ≤ 0 → pool = 0 → -4096 < tk → t.tokens = mput s.tokens k (tk - 1) ∧ t.pool = s.pool) ∧
            (tk ≤ -4096 → pool = 0 → t.tokens = s.tokens ∧ t.pool = s.pool ∧
              mgetD (t.tenant (s.payer e.1)).counters 13 0 =
                min (2 ^ 32 - 1) (mgetD (s.tenant (s.payer e.1)).counters 13 0 + 1))))

/-! ### Encodings (R72 to R76, R81, R94 to R112) -/

/-- R81, R98 to R112: words written out field by field, one or two of each slot map, and words that R96 and R97 refuse. -/
def Obligations.DecodedWords : Prop :=
  decodeWord .sa 0b00000001_000011_000001_000010_000000 = .ok (.add 3 1 2) ∧
  decodeWord .sb 0b00100000_000101_000110_111111111111 = .ok (.addi 5 6 0xFFF#12) ∧
  decodeWord .sa 0b00010011_000010_000001_000111_1_00_010 = .ok (.cmp 2 1 (.imm 7) .lt) ∧
  decodeWord .sa 0b01000001_011_1_11111111111111111111 = .ok (.brn 3 true 0xFFFFF#20) ∧
  decodeWord .sa 0b01010011_000000_000100_000000100011 = .ok (.mtc 0x023#12 4) ∧
  decodeWord .va 0b00000001_000011_000001_000010_0000_10 = .ok (.vadd 3 1 2 .f32 2) ∧
  decodeWord .vc 0b00100001_000011_000001_1_0_1000_0001_00 = .ok (.vcvt .rtz 3 1 true .s32 .f16 0) ∧
  decodeWord .vc 0b01000000_000011_000001_000010_0000_00 = .ok (.kand 3 1 2) ∧
  decodeWord .f 0b00000011_000011_000001_000000_0010_01 = .ok (.frcp 3 1 .bf16 1) ∧
  decodeWord .mb 0b00000110_000011_000001_111111111110 = .ok (.ld .z32 3 1 0xFFE#12) ∧
  decodeWord .ma 0b00110001_000011_000001_000010_1_1_0_101 = .ok (.amin 3 1 2 true true 5) ∧
  decodeWord .x 0b00000100_0011_000001_000010_1_0_0110_00 = .ok (.mmul 3 1 2 true 6#4) ∧
  decodeWord .c 0b00001101_000000_000000_10_00_10100101 = .ok (.sync 2 0xA5#8) ∧
  (∀ sl : Slot, decodeWord sl 0 = .error .unassigned) ∧
  decodeWord .sb 0b01010000_000000_000000_000000000101 = .error .unassigned ∧
  decodeWord .sa 0b01010000_000000_000000_000000000101 = .ok (.trap 5) ∧
  decodeWord .sa 0b01010000_000000_000000_000010000000 = .error .limit ∧
  decodeWord .sa 0b00000001_000011_000001_000010_000001 = .error .rz ∧
  decodeWord .vc 0b00000001_000011_000001_000010_0000_10 = .error .limit ∧
  decodeWord .vc 0b00000100_000011_000001_000010_0000_10 = .error .unassigned

/-- R81, R95 to R112: for every slot and every instruction that its map admits, with every operand, decode of encode is the
instruction; and a word that a slot decodes is the encoding of what it decodes to, so that no bit is dropped. -/
def Obligations.WordsRoundTrip : Prop :=
  (∀ (sl : Slot) (i : Instr), wfIn sl i = true →
    ∃ w, encodeWord? i = some w ∧ w < 2 ^ 32 ∧ decodeWord sl w = .ok i) ∧
  ∀ (sl : Slot) (w : Nat) (i : Instr), w < 2 ^ 32 → decodeWord sl w = .ok i →
    wfIn sl i = true ∧ encodeWord? i = some w

/-- R76: CHK is the exclusive or of the other bytes of the bundle and 0x5A, and a bundle whose CHK differs raises 0x001. -/
def Obligations.CheckByteIsChecked : Prop :=
  ∀ avail : List Byte, 8 ≤ avail.length → (let len := bundleLen (headerOf (leNat (avail.take 8))).pres
    len ≤ avail.length →
    let chk := (List.range len).foldl (fun acc j => if j = 7 then acc else acc ^^^ avail.getD j 0#8) 0x5A#8
    (avail.getD 7 0#8 ≠ chk → decodeBundle avail = .error (0x001, 10)) ∧
    (avail.getD 7 0#8 = chk → decodeBundle avail ≠ .error (0x001, 10)))

/-- R72 to R76: a bundle with a word for each slot of its PRES decodes from its encoding, whatever follows it. R94, R97: the order
of the other checks of a bundle: its length, its reserved header bits, PROF, and then the first slot word that is refused,
with the code that R97 gives the slot. -/
def Obligations.BundlesDecode : Prop :=
  (∀ (b : Bundle) (rest : List Byte), b.words.map (·.1) = presSlots b.hdr.pres → (∀ p ∈ b.words, wfIn p.1 p.2 = true) →
      b.hdr.stamp < 2 ^ 14 → b.hdr.prof < 4 → decodeBundle (encode b ++ rest) = .ok b) ∧
  (∀ avail : List Byte,
      let h := leNat (avail.take 8)
      let hdr := headerOf h
      let len := bundleLen hdr.pres
      let slots := presSlots hdr.pres
      let word := fun (j : Nat) => leNat ((avail.drop (8 + 4 * j)).take 4)
      (avail.length < 8 ∨ avail.length < len → decodeBundle avail = .error (0x005, 10)) ∧
      (8 ≤ avail.length → len ≤ avail.length → avail.getD 7 0#8 = chkOf (avail.take len) →
        (h / 2 ^ 10 % 2 ^ 14 ≠ 0 → decodeBundle avail = .error (0x002, 10)) ∧
        (h / 2 ^ 10 % 2 ^ 14 = 0 →
          (4 ≤ hdr.prof → decodeBundle avail = .error (0x004, 10)) ∧
          (hdr.prof < 4 →
            (∀ j sl e, slots[j]? = some sl → decodeWord sl (word j) = .error e →
              (∀ m < j, ∀ sl', slots[m]? = some sl' → ∃ i, decodeWord sl' (word m) = .ok i) →
              decodeBundle avail = .error (e.base + sl.num, sl.num)) ∧
            ((∀ j sl, slots[j]? = some sl → ∃ i, decodeWord sl (word j) = .ok i) →
              ∃ ws, decodeBundle avail = .ok ⟨hdr, ws⟩ ∧ ws.map (·.1) = slots ∧
                ∀ j sl i, ws[j]? = some (sl, i) → decodeWord sl (word j) = .ok i)))))

/-! ### The machine as a whole -/

/-- R305, R337, R332, R83, R27: what reset leaves: cycle 0 of frame 0, D0, no live task, no key, no frame, empty caches and queues,
FWRANGE not written, two firmware cores, six others and a spare; its memories are canonical and its logs within their entries. That
general registers are 0 and ASHAPE is 0xF is the model's choice (log 1), that nothing is loaded, bound or cached then, in D0, is
log 39. (That blank memory reads as zero is log 2; it is not stated here.) -/
def Obligations.ResetLeaves : Prop :=
  State.reset.cycle = 0 ∧ State.reset.cal.mfn = 0 ∧ State.reset.cal.start = 0 ∧ State.reset.power = .d0 ∧
  State.reset.liveCtxs = [] ∧ State.reset.launches = [] ∧ State.reset.keys = [] ∧ State.reset.frameKey = [] ∧
  State.reset.slc = [] ∧ State.reset.attic = [] ∧ State.reset.snoop = [] ∧ State.reset.queues = [] ∧
  State.reset.fwrange = none ∧ State.reset.consents = [] ∧ State.reset.memOk = true ∧ State.reset.logsOk = true ∧
  (∀ c r, (State.reset.ctx c).rs r = 0#64) ∧ (∀ c, (State.reset.ctx c).rq 0 = true) ∧
  (∀ c d, d < 8 → (State.reset.ctx c).rk 0 d = BitVec.allOnes 256) ∧ (∀ c, (State.reset.ctx c).ashape = 0xF#4) ∧
  State.reset.spares.cores.count .firmware = 2 ∧ State.reset.spares.cores.count .scheduler = 6 ∧
  State.reset.spares.cores.count .spare = 1

/-- Device memory, host memory and every scratchpad keep their canonical form over every step. -/
def Obligations.StepKeepsMemory : Prop :=
  ∀ s t : State, s.memOk = true → step s = .next t → t.memOk = true

/-- R279, R280: no step fills the undo log of a context beyond 64 scalar and 32 vector entries, nor its gate beyond 128. -/
def Obligations.StepKeepsLogs : Prop :=
  ∀ s t : State, s.logsOk = true → step s = .next t → t.logsOk = true

/-- R83 to R88, R42: the frame of slot words. A register word changes only the context in hand, and of that only the undo log and
what is in flight (where R279 finds no entry, also the fault that the bundle then raises). No slot word changes device memory,
host memory, another context or another tile, and only a storing word changes a scratchpad. -/
def Obligations.SlotWordFrames : Prop :=
  (∀ (s t : State) (i : Instr), registerWord i = true → exec i s = .next t →
    t = { s with ctxs := t.ctxs, issue := { s.issue with raised := t.issue.raised } } ∧
      t.cx = { s.cx with undo := t.cx.undo, inFlight := t.cx.inFlight } ∧ ∀ c, c ≠ s.issue.ctx → t.ctx c = s.ctx c) ∧
  ∀ (sl : Slot) (s t : State) (i : Instr), wfIn sl i = true → exec i s = .next t →
    t.dev = s.dev ∧ t.hostMem = s.hostMem ∧ t.cycle = s.cycle ∧ (∀ c, c ≠ s.issue.ctx → t.ctx c = s.ctx c) ∧
      (∀ u, u ≠ tileOf s.issue.ctx → t.tile u = s.tile u) ∧ (storingWord i = false → t.tl.sp = s.tl.sp)

/-- Every instruction answers a next state in every state, but for a write, in D0, of a host register that no rule describes, which
ends in a fault of that name: one above 7 that is no management register of the PF (the numbers are log 13). Nothing is refused. -/
def Obligations.EveryInstructionRuns : Prop :=
  ∀ (i : Instr) (s : State), (∃ t, exec i s = .next t) ∨
    ∃ fn reg v, i = .hostRegisterWrite fn reg v ∧ exec i s = .fault (.unknownHostRegister reg) ∧
      s.power = .d0 ∧ fn ≤ 96 ∧ 7 < reg ∧
      (fn ≠ 0 ∨ reg ∉ [0x10, 0x11, 0x20, 0x21, 0x22, 0x23, 0x24, 0x25, 0x26, 0x27, 0x30, 0x31, 0x32, 0x33])

/-- R42, R92, R94, R194: a step carries out the event that comes next, or ends the cycle when none is left. When the event is a
bundle's issue, the bytes at the address next to issue decode to the bundle, and none of its checks fails, the step performs
the bundle's words in order, each as exec gives it with its own slot, and goes on at the next address. (Which event comes next is
the model's choice, log 4.) -/
def Obligations.StepRunsDecoded : Prop :=
  (∀ s i s', s.pick = (some i, s') → step s = exec i s') ∧
  (∀ s s', s.pick = (none, s') → step s = .next s'.tick ∧ s'.tick.cycle = s'.cycle + 1) ∧
  (∀ (sl : Slot) (i : Instr) (s : State), wfIn sl i = true →
    exec i { s with issue := { s.issue with slot := sl } } = .next (s.word (sl, i))) ∧
  (∀ (x : Ctx) (b : Bundle), x.annul = 0 → x.svcMode = false → x.performs b = b.words) ∧
  ∀ (s : State) (tile c : Nat) (b : Bundle) (off stop : Nat), s.pick = (some (.bundleIssue tile), s) →
    s.issued.contains tile = false →
    let p : State := { (s.pollTile tile).watchTile tile with issued := tile :: s.issued }
    let ch := p.choose tile
    let u := p.setTile tile { p.tile tile with
      holder := ch.holder, quantum := if ch.restart then 0 else (p.tile tile).quantum, expired := ch.expired, yielded := ch.yielded
      strictTook := if ch.strict then some (planeOf c) else (p.tile tile).strictTook
      width := (((if ch.strict then some (planeOf c) else (p.tile tile).strictTook) <|> ch.holder).map (fun n =>
        p.ctx (144 * n + tile))).bind (fun y => if y.isLive then some y.tenant else none) }
    let v := u.issueSamples c
    let x := v.ctx c
    ch.ctx = some c → x.locate x.pc.toNat = .at' off stop → x.pc.toNat % 4 = 0 → decodeBundle (x.avail off stop) = .ok b →
    let ws := x.performs b
    let w := (inOrder ws).foldl State.word ((v.setCtx c (x.open' v.cycle b)).take c b (bundleLen b.hdr.pres) x.pc ws)
    x.headFault b.hdr = none → v.flagFault c b = none → w.issue.raised = none →
      step s = .next (w.close (decide (x.annul ≠ 0)))
end

