-- ==== Sys2Proof/Laws/Store.lean ====
section
/-! SUPPORT. Sparse maps and byte memories: a read after a write, and every operation keeps the canonical form. -/

namespace Sys2Proof.Machine

/-! ### Reads after writes of maps -/

@[simp] theorem mfind_mput_self {α : Type} (m : AMap α) (n : Nat) (x : α) : mfind (mput m n x) n = some x := by
  induction m with
  | nil => simp [mput, mfind]
  | cons p m ih =>
    obtain ⟨k, v⟩ := p
    simp only [mput]
    split
    · simp [mfind]
    · split
      · simp [mfind]
      · rename_i h1 h2
        simp [mfind, ih, Ne.symm h2]

theorem mfind_mput_ne {α : Type} (m : AMap α) {n k : Nat} (x : α) (h : k ≠ n) :
    mfind (mput m n x) k = mfind m k := by
  induction m with
  | nil => simp [mput, mfind, Ne.symm h]
  | cons p m ih =>
    obtain ⟨j, v⟩ := p
    simp only [mput]
    split
    · simp [mfind, Ne.symm h]
    · split
      · rename_i h1 h2
        subst h2
        simp [mfind, Ne.symm h]
      · simp only [mfind, ih]

@[simp] theorem mput_mput {α : Type} (m : AMap α) (n : Nat) (x y : α) : mput (mput m n x) n y = mput m n y := by
  induction m with
  | nil => simp [mput]
  | cons p m ih =>
    obtain ⟨k, v⟩ := p
    simp only [mput]
    split
    · simp [mput]
    · split
      · simp [mput]
      · rename_i h1 h2
        simp [mput, h1, h2, ih]

@[simp] theorem mgetD_mput_self {α : Type} (m : AMap α) (n : Nat) (x d : α) : mgetD (mput m n x) n d = x := by
  simp [mgetD]

theorem mgetD_mput_ne {α : Type} (m : AMap α) {n k : Nat} (x d : α) (h : k ≠ n) :
    mgetD (mput m n x) k d = mgetD m k d := by
  simp [mgetD, mfind_mput_ne m x h]

/-! ### Keys rise -/

/-- Every key of a map is greater than `n`. -/
def keysAbove {α : Type} (n : Nat) (m : AMap α) : Prop := ∀ p ∈ m, n < p.1

theorem mwf_cons {α : Type} (k : Nat) (v : α) (m : AMap α) :
    mwf ((k, v) :: m) = true ↔ keysAbove k m ∧ mwf m = true := by
  induction m generalizing k v with
  | nil => simp [mwf, keysAbove]
  | cons p m ih =>
    obtain ⟨j, w⟩ := p
    simp only [mwf, Bool.and_eq_true, decide_eq_true_eq]
    constructor
    · rintro ⟨hlt, hm⟩
      refine ⟨?_, hm⟩
      intro q hq
      rcases List.mem_cons.mp hq with rfl | hq
      · exact hlt
      · exact Nat.lt_trans hlt (((ih j w).mp hm).1 q hq)
    · rintro ⟨ha, hm⟩
      exact ⟨ha (j, w) (by simp), hm⟩

theorem keysAbove_mput {α : Type} {b n : Nat} {m : AMap α} (x : α) (hb : b < n) (h : keysAbove b m) :
    keysAbove b (mput m n x) := by
  induction m with
  | nil => intro p hp; simp [mput] at hp; subst hp; exact hb
  | cons q m ih =>
    obtain ⟨k, v⟩ := q
    have hk : b < k := h (k, v) (by simp)
    have hm : keysAbove b m := fun p hp => h p (List.mem_cons_of_mem _ hp)
    simp only [mput]
    intro p hp
    split at hp
    · rcases List.mem_cons.mp hp with rfl | hp
      · exact hb
      · exact h p hp
    · split at hp
      · rcases List.mem_cons.mp hp with rfl | hp
        · exact hb
        · exact hm p hp
      · rcases List.mem_cons.mp hp with rfl | hp
        · exact hk
        · exact ih hm p hp

theorem mwf_mput {α : Type} (m : AMap α) (n : Nat) (x : α) (h : mwf m = true) : mwf (mput m n x) = true := by
  induction m with
  | nil => simp [mput, mwf]
  | cons q m ih =>
    obtain ⟨k, v⟩ := q
    obtain ⟨ha, hm⟩ := (mwf_cons k v m).mp h
    simp only [mput]
    split
    · rename_i hlt
      refine (mwf_cons _ _ _).mpr ⟨?_, h⟩
      intro p hp
      rcases List.mem_cons.mp hp with rfl | hp
      · exact hlt
      · exact Nat.lt_trans hlt (ha p hp)
    · split
      · rename_i h1 h2
        subst h2
        exact (mwf_cons _ _ _).mpr ⟨ha, hm⟩
      · exact (mwf_cons _ _ _).mpr ⟨keysAbove_mput x (by omega) ha, ih hm⟩

theorem mem_merase {α : Type} {m : AMap α} {n : Nat} {p : Nat × α} (h : p ∈ merase m n) : p ∈ m := by
  induction m with
  | nil => simp [merase] at h
  | cons q m ih =>
    obtain ⟨k, v⟩ := q
    simp only [merase] at h
    split at h
    · exact List.mem_cons_of_mem _ h
    · rcases List.mem_cons.mp h with rfl | h
      · simp
      · exact List.mem_cons_of_mem _ (ih h)

theorem mwf_merase {α : Type} (m : AMap α) (n : Nat) (h : mwf m = true) : mwf (merase m n) = true := by
  induction m with
  | nil => simp [merase, mwf]
  | cons q m ih =>
    obtain ⟨k, v⟩ := q
    obtain ⟨ha, hm⟩ := (mwf_cons k v m).mp h
    simp only [merase]
    split
    · exact hm
    · exact (mwf_cons _ _ _).mpr ⟨fun p hp => ha p (mem_merase hp), ih hm⟩

theorem mwf_filter {α : Type} (m : AMap α) (f : Nat × α → Bool) (h : mwf m = true) : mwf (m.filter f) = true := by
  induction m with
  | nil => simp [mwf]
  | cons q m ih =>
    obtain ⟨k, v⟩ := q
    obtain ⟨ha, hm⟩ := (mwf_cons k v m).mp h
    rw [List.filter_cons]
    split
    · exact (mwf_cons _ _ _).mpr ⟨fun p hp => ha p (List.mem_filter.mp hp).1, ih hm⟩
    · exact ih hm

theorem mfind_of_above {α : Type} {m : AMap α} {n : Nat} (h : keysAbove n m) : mfind m n = none := by
  induction m with
  | nil => rfl
  | cons q m ih =>
    obtain ⟨k, v⟩ := q
    have hk : n < k := h (k, v) (by simp)
    simp [mfind, Nat.ne_of_gt hk, ih (fun p hp => h p (List.mem_cons_of_mem _ hp))]

theorem mfind_merase_self {α : Type} (m : AMap α) (n : Nat) (h : mwf m = true) : mfind (merase m n) n = none := by
  induction m with
  | nil => rfl
  | cons q m ih =>
    obtain ⟨k, v⟩ := q
    obtain ⟨ha, hm⟩ := (mwf_cons k v m).mp h
    simp only [merase]
    split
    · rename_i hk
      subst hk
      exact mfind_of_above ha
    · rename_i hk
      simp [mfind, hk, ih hm]

theorem mfind_merase_ne {α : Type} (m : AMap α) {n k : Nat} (h : k ≠ n) : mfind (merase m n) k = mfind m k := by
  induction m with
  | nil => rfl
  | cons q m ih =>
    obtain ⟨j, v⟩ := q
    simp only [merase]
    split
    · rename_i hj
      subst hj
      simp [mfind, Ne.symm h]
    · simp only [mfind, ih]

/-! ### Byte memories -/

theorem wf_iff (m : Memory) : Memory.wf m = true ↔ mwf m = true ∧ ∀ c ∈ m, c.2 ≠ blank := by
  simp [Memory.wf, List.all_eq_true]

@[simp] theorem wf_nil : Memory.wf [] = true := rfl

theorem mem_mput {α : Type} {m : AMap α} {n : Nat} {x : α} {p : Nat × α} (h : p ∈ mput m n x) : p = (n, x) ∨ p ∈ m := by
  induction m with
  | nil => simp [mput] at h; exact .inl h
  | cons q m ih =>
    obtain ⟨k, v⟩ := q
    simp only [mput] at h
    split at h
    · rcases List.mem_cons.mp h with h | h
      · exact .inl h
      · exact .inr h
    · split at h
      · rcases List.mem_cons.mp h with h | h
        · exact .inl h
        · exact .inr (List.mem_cons_of_mem _ h)
      · rcases List.mem_cons.mp h with h | h
        · exact .inr (by simp [h])
        · exact (ih h).imp id (List.mem_cons_of_mem _)

theorem wf_mwrite {m : Memory} (a : Nat) (b : Byte) (h : Memory.wf m = true) : Memory.wf (mwrite m a b) = true := by
  obtain ⟨hw, hb⟩ := (wf_iff m).mp h
  unfold mwrite
  split
  · exact (wf_iff _).mpr ⟨mwf_merase m a hw, fun c hc => hb c (mem_merase hc)⟩
  · rename_i hne
    refine (wf_iff _).mpr ⟨mwf_mput m a b hw, fun c hc => ?_⟩
    rcases mem_mput hc with rfl | hc
    · exact hne
    · exact hb c hc

theorem wf_writeLE {m : Memory} (a n v : Nat) (h : Memory.wf m = true) : Memory.wf (writeLE m a n v) = true := by
  induction n generalizing m a v with
  | zero => exact h
  | succ n ih => exact ih (a + 1) (v / 256) (wf_mwrite a _ h)

theorem wf_writeMasked {m : Memory} (a n mask v : Nat) (h : Memory.wf m = true) :
    Memory.wf (writeMasked m a n mask v) = true := by
  induction n generalizing m a mask v with
  | zero => exact h
  | succ n ih =>
    refine ih (a + 1) (mask / 2) (v / 256) ?_
    split
    · exact wf_mwrite a _ h
    · exact h

theorem wf_writeBytes {m : Memory} (a : Nat) (bs : List Byte) (h : Memory.wf m = true) :
    Memory.wf (writeBytes m a bs) = true := by
  induction bs generalizing m a with
  | nil => exact h
  | cons b bs ih => exact ih (a + 1) (wf_mwrite a b h)

theorem wf_filter {m : Memory} (f : Host.Cell → Bool) (h : Memory.wf m = true) : Memory.wf (m.filter f) = true := by
  obtain ⟨hw, hb⟩ := (wf_iff m).mp h
  exact (wf_iff _).mpr ⟨mwf_filter m f hw, fun c hc => hb c (List.mem_filter.mp hc).1⟩

theorem wf_clearRange {m : Memory} (a n : Nat) (h : Memory.wf m = true) : Memory.wf (clearRange m a n) = true :=
  wf_filter _ h

theorem wf_foldl_mwrite {α : Type} {m : Memory} (xs : List α) (f : α → Nat) (g : α → Byte) (h : Memory.wf m = true) :
    Memory.wf (xs.foldl (fun m x => mwrite m (f x) (g x)) m) = true := by
  induction xs generalizing m with
  | nil => exact h
  | cons x xs ih => exact ih (wf_mwrite _ _ h)

theorem mread_mwrite_self {m : Memory} (a : Nat) (b : Byte) (h : Memory.wf m = true) : mread (mwrite m a b) a = b := by
  unfold mwrite mread mgetD
  split
  · rename_i hb
    simp [mfind_merase_self m a ((wf_iff m).mp h).1, hb]
  · simp

theorem mread_mwrite_ne (m : Memory) {a n : Nat} (b : Byte) (h : n ≠ a) : mread (mwrite m a b) n = mread m n := by
  unfold mwrite mread mgetD
  split
  · rw [mfind_merase_ne m h]
  · rw [mfind_mput_ne m b h]

/-- Bytes outside the bytes written read as before. -/
theorem mread_writeLE_out (m : Memory) (a n v k : Nat) (h : k < a ∨ a + n ≤ k) : mread (writeLE m a n v) k = mread m k := by
  induction n generalizing m a v with
  | zero => rfl
  | succ n ih =>
    rw [writeLE, ih _ _ _ (by omega), mread_mwrite_ne _ _ (by omega)]

/-- Byte `i` written by `writeLE` is byte `i` of the value. -/
theorem mread_writeLE_in (m : Memory) (a n v i : Nat) (hw : Memory.wf m = true) (h : i < n) :
    mread (writeLE m a n v) (a + i) = BitVec.ofNat 8 (v / 256 ^ i) := by
  induction n generalizing m a v i with
  | zero => omega
  | succ n ih =>
    rw [writeLE]
    cases i with
    | zero =>
      show mread (writeLE (mwrite m a (BitVec.ofNat 8 v)) (a + 1) n (v / 256)) a = _
      rw [mread_writeLE_out _ (a + 1) _ _ a (.inl (by omega)), mread_mwrite_self _ _ hw]
      simp
    | succ i =>
      have := ih (mwrite m a (BitVec.ofNat 8 v)) (a + 1) (v / 256) i (wf_mwrite _ _ hw) (by omega)
      rw [show a + (i + 1) = a + 1 + i by omega, this, Nat.div_div_eq_div_mul, Nat.pow_succ, Nat.mul_comm]

/-- A value read back where it was written (R5). -/
theorem readLE_writeLE (m : Memory) (a n v : Nat) (hw : Memory.wf m = true) :
    readLE (writeLE m a n v) a n = v % 256 ^ n := by
  have key : ∀ (k : Nat) (m' : Memory) (a v : Nat), (∀ i < k, mread m' (a + i) = BitVec.ofNat 8 (v / 256 ^ i)) →
      readLE m' a k = v % 256 ^ k := by
    intro k
    induction k with
    | zero => intro m' a v _; simp [readLE, Nat.mod_one]
    | succ k ih =>
      intro m' a v h
      have h0 := h 0 (by omega)
      simp only [Nat.add_zero, Nat.pow_zero, Nat.div_one] at h0
      have hr := ih m' (a + 1) (v / 256) (fun i hi => by
        have := h (i + 1) (by omega)
        rw [show a + 1 + i = a + (i + 1) by omega, this, Nat.div_div_eq_div_mul, Nat.pow_succ, Nat.mul_comm])
      rw [readLE, h0, hr, BitVec.toNat_ofNat, show 256 ^ (k + 1) = 256 * 256 ^ k from Nat.pow_succ', Nat.mod_mul]
  exact key n _ a v (fun i hi => mread_writeLE_in m a n v i hw hi)

theorem mread_writeBytes_out (m : Memory) (bs : List Byte) (a k : Nat) (h : k < a ∨ a + bs.length ≤ k) :
    mread (writeBytes m a bs) k = mread m k := by
  induction bs generalizing m a with
  | nil => rfl
  | cons b bs ih =>
    simp only [List.length_cons] at h
    rw [writeBytes, ih _ _ (by omega), mread_mwrite_ne _ _ (by omega)]

theorem mread_foldl_mwrite_out (m : Memory) (bs : List (Nat × Byte)) (k : Nat) (h : ∀ b ∈ bs, b.1 ≠ k) :
    mread (bs.foldl (fun m b => mwrite m b.1 b.2) m) k = mread m k := by
  induction bs generalizing m with
  | nil => rfl
  | cons b bs ih =>
    rw [List.foldl_cons, ih _ (fun c hc => h c (List.mem_cons_of_mem _ hc)), mread_mwrite_ne _ _ (Ne.symm (h b (by simp)))]

/-- What an unwritten address reads as (log 2). -/
@[simp] theorem mread_nil (a : Nat) : mread [] a = blank := rfl

end Sys2Proof.Machine
end

