-- ==== Sys2Proof/Laws/State.lean ====
section
/-! SUPPORT. The small lemmas of the state's updates: what each reads, and every field it leaves. -/

namespace Sys2Proof.Machine

/-! ### Reading what was written -/


@[simp] theorem State.ctx_setCtx (s : State) (c : Nat) (x : Ctx) : (s.setCtx c x).ctx c = x := by
  simp [State.ctx, State.setCtx]
theorem State.ctx_setCtx_ne (s : State) {c d : Nat} (x : Ctx) (h : d ≠ c) : (s.setCtx c x).ctx d = s.ctx d :=
  mgetD_mput_ne _ _ _ h
@[simp] theorem State.setCtx_setCtx (s : State) (c : Nat) (x y : Ctx) : (s.setCtx c x).setCtx c y = s.setCtx c y := by
  simp [State.setCtx]
@[simp] theorem State.tile_setTile (s : State) (t : Nat) (x : Tile) : (s.setTile t x).tile t = x := by
  simp [State.tile, State.setTile]
theorem State.tile_setTile_ne (s : State) {t u : Nat} (x : Tile) (h : u ≠ t) : (s.setTile t x).tile u = s.tile u :=
  mgetD_mput_ne _ _ _ h
@[simp] theorem State.setTile_setTile (s : State) (t : Nat) (x y : Tile) : (s.setTile t x).setTile t y = s.setTile t y := by
  simp [State.setTile]
@[simp] theorem State.tenant_setTenant (s : State) (f : Nat) (x : Tenant) : (s.setTenant f x).tenant f = x := by
  simp [State.tenant, State.setTenant]
@[simp] theorem State.tile_setCtx (s : State) (c : Nat) (x : Ctx) (t : Nat) : (s.setCtx c x).tile t = s.tile t := rfl
@[simp] theorem State.ctx_setTile (s : State) (t : Nat) (x : Tile) (c : Nat) : (s.setTile t x).ctx c = s.ctx c := rfl
@[simp] theorem State.tenant_setCtx (s : State) (c : Nat) (x : Ctx) (f : Nat) : (s.setCtx c x).tenant f = s.tenant f := rfl
@[simp] theorem State.tenant_setTile (s : State) (t : Nat) (x : Tile) (f : Nat) : (s.setTile t x).tenant f = s.tenant f := rfl
@[simp] theorem State.ctx_setTenant (s : State) (f : Nat) (x : Tenant) (c : Nat) : (s.setTenant f x).ctx c = s.ctx c := rfl
@[simp] theorem State.tile_setTenant (s : State) (f : Nat) (x : Tenant) (t : Nat) : (s.setTenant f x).tile t = s.tile t := rfl

/-! ### The context and the tile of the bundle in hand -/

@[simp] theorem State.cx_setCx (s : State) (x : Ctx) : (s.setCx x).cx = x := by
  simp [State.cx, State.setCx, State.ctx, State.setCtx]
@[simp] theorem State.setCx_setCx (s : State) (x y : Ctx) : (s.setCx x).setCx y = s.setCx y := by
  simp [State.setCx, State.setCtx]
@[simp] theorem State.tl_setTl (s : State) (x : Tile) : (s.setTl x).tl = x := by
  simp [State.tl, State.setTl, State.tile, State.setTile]
@[simp] theorem State.setTl_setTl (s : State) (x y : Tile) : (s.setTl x).setTl y = s.setTl y := by
  simp [State.setTl, State.setTile]
@[simp] theorem State.tl_setCx (s : State) (x : Ctx) : (s.setCx x).tl = s.tl := rfl
@[simp] theorem State.cx_setTl (s : State) (x : Tile) : (s.setTl x).cx = s.cx := rfl
theorem State.setTl_setCx (s : State) (t : Tile) (x : Ctx) : (s.setTl t).setCx x = (s.setCx x).setTl t := rfl
theorem State.cx_eq (s : State) : s.cx = s.ctx s.issue.ctx := rfl
theorem State.setCx_eq (s : State) (x : Ctx) : s.setCx x = s.setCtx s.issue.ctx x := rfl
theorem State.tl_eq (s : State) : s.tl = s.tile (tileOf s.issue.ctx) := rfl
theorem State.setTl_eq (s : State) (x : Tile) : s.setTl x = s.setTile (tileOf s.issue.ctx) x := rfl

/-! ### Fields that `setCtx` leaves -/

@[simp] theorem State.setCtx_cycle (s : State) (c : Nat) (x : Ctx) : (s.setCtx c x).cycle = s.cycle := rfl
@[simp] theorem State.setCtx_cal (s : State) (c : Nat) (x : Ctx) : (s.setCtx c x).cal = s.cal := rfl
@[simp] theorem State.setCtx_tiles (s : State) (c : Nat) (x : Ctx) : (s.setCtx c x).tiles = s.tiles := rfl
@[simp] theorem State.setCtx_launches (s : State) (c : Nat) (x : Ctx) : (s.setCtx c x).launches = s.launches := rfl
@[simp] theorem State.setCtx_nextLaunch (s : State) (c : Nat) (x : Ctx) : (s.setCtx c x).nextLaunch = s.nextLaunch := rfl
@[simp] theorem State.setCtx_tenants (s : State) (c : Nat) (x : Ctx) : (s.setCtx c x).tenants = s.tenants := rfl
@[simp] theorem State.setCtx_queues (s : State) (c : Nat) (x : Ctx) : (s.setCtx c x).queues = s.queues := rfl
@[simp] theorem State.setCtx_rings (s : State) (c : Nat) (x : Ctx) : (s.setCtx c x).rings = s.rings := rfl
@[simp] theorem State.setCtx_keys (s : State) (c : Nat) (x : Ctx) : (s.setCtx c x).keys = s.keys := rfl
@[simp] theorem State.setCtx_frameKey (s : State) (c : Nat) (x : Ctx) : (s.setCtx c x).frameKey = s.frameKey := rfl
@[simp] theorem State.setCtx_keyGen (s : State) (c : Nat) (x : Ctx) : (s.setCtx c x).keyGen = s.keyGen := rfl
@[simp] theorem State.setCtx_seals (s : State) (c : Nat) (x : Ctx) : (s.setCtx c x).seals = s.seals := rfl
@[simp] theorem State.setCtx_hostReads (s : State) (c : Nat) (x : Ctx) : (s.setCtx c x).hostReads = s.hostReads := rfl
@[simp] theorem State.setCtx_dev (s : State) (c : Nat) (x : Ctx) : (s.setCtx c x).dev = s.dev := rfl
@[simp] theorem State.setCtx_poison (s : State) (c : Nat) (x : Ctx) : (s.setCtx c x).poison = s.poison := rfl
@[simp] theorem State.setCtx_slc (s : State) (c : Nat) (x : Ctx) : (s.setCtx c x).slc = s.slc := rfl
@[simp] theorem State.setCtx_snoop (s : State) (c : Nat) (x : Ctx) : (s.setCtx c x).snoop = s.snoop := rfl
@[simp] theorem State.setCtx_backInv (s : State) (c : Nat) (x : Ctx) : (s.setCtx c x).backInv = s.backInv := rfl
@[simp] theorem State.setCtx_tokens (s : State) (c : Nat) (x : Ctx) : (s.setCtx c x).tokens = s.tokens := rfl
@[simp] theorem State.setCtx_depth (s : State) (c : Nat) (x : Ctx) : (s.setCtx c x).depth = s.depth := rfl
@[simp] theorem State.setCtx_rate (s : State) (c : Nat) (x : Ctx) : (s.setCtx c x).rate = s.rate := rfl
@[simp] theorem State.setCtx_pool (s : State) (c : Nat) (x : Ctx) : (s.setCtx c x).pool = s.pool := rfl
@[simp] theorem State.setCtx_poolDepth (s : State) (c : Nat) (x : Ctx) : (s.setCtx c x).poolDepth = s.poolDepth := rfl
@[simp] theorem State.setCtx_refills (s : State) (c : Nat) (x : Ctx) : (s.setCtx c x).refills = s.refills := rfl
@[simp] theorem State.setCtx_tickets (s : State) (c : Nat) (x : Ctx) : (s.setCtx c x).tickets = s.tickets := rfl
@[simp] theorem State.setCtx_portUsed (s : State) (c : Nat) (x : Ctx) : (s.setCtx c x).portUsed = s.portUsed := rfl
@[simp] theorem State.setCtx_portTurn (s : State) (c : Nat) (x : Ctx) : (s.setCtx c x).portTurn = s.portTurn := rfl
@[simp] theorem State.setCtx_hints (s : State) (c : Nat) (x : Ctx) : (s.setCtx c x).hints = s.hints := rfl
@[simp] theorem State.setCtx_hostMem (s : State) (c : Nat) (x : Ctx) : (s.setCtx c x).hostMem = s.hostMem := rfl
@[simp] theorem State.setCtx_attic (s : State) (c : Nat) (x : Ctx) : (s.setCtx c x).attic = s.attic := rfl
@[simp] theorem State.setCtx_atticReq (s : State) (c : Nat) (x : Ctx) : (s.setCtx c x).atticReq = s.atticReq := rfl
@[simp] theorem State.setCtx_migrations (s : State) (c : Nat) (x : Ctx) : (s.setCtx c x).migrations = s.migrations := rfl
@[simp] theorem State.setCtx_rails (s : State) (c : Nat) (x : Ctx) : (s.setCtx c x).rails = s.rails := rfl
@[simp] theorem State.setCtx_shedStep (s : State) (c : Nat) (x : Ctx) : (s.setCtx c x).shedStep = s.shedStep := rfl
@[simp] theorem State.setCtx_shedStd (s : State) (c : Nat) (x : Ctx) : (s.setCtx c x).shedStd = s.shedStd := rfl
@[simp] theorem State.setCtx_shedInt (s : State) (c : Nat) (x : Ctx) : (s.setCtx c x).shedInt = s.shedInt := rfl
@[simp] theorem State.setCtx_calm (s : State) (c : Nat) (x : Ctx) : (s.setCtx c x).calm = s.calm := rfl
@[simp] theorem State.setCtx_linkLanes (s : State) (c : Nat) (x : Ctx) : (s.setCtx c x).linkLanes = s.linkLanes := rfl
@[simp] theorem State.setCtx_linkRate (s : State) (c : Nat) (x : Ctx) : (s.setCtx c x).linkRate = s.linkRate := rfl
@[simp] theorem State.setCtx_linkUp (s : State) (c : Nat) (x : Ctx) : (s.setCtx c x).linkUp = s.linkUp := rfl
@[simp] theorem State.setCtx_timeout (s : State) (c : Nat) (x : Ctx) : (s.setCtx c x).timeout = s.timeout := rfl
@[simp] theorem State.setCtx_fwrange (s : State) (c : Nat) (x : Ctx) : (s.setCtx c x).fwrange = s.fwrange := rfl
@[simp] theorem State.setCtx_fwstatus (s : State) (c : Nat) (x : Ctx) : (s.setCtx c x).fwstatus = s.fwstatus := rfl
@[simp] theorem State.setCtx_activation (s : State) (c : Nat) (x : Ctx) : (s.setCtx c x).activation = s.activation := rfl
@[simp] theorem State.setCtx_firmware (s : State) (c : Nat) (x : Ctx) : (s.setCtx c x).firmware = s.firmware := rfl
@[simp] theorem State.setCtx_image (s : State) (c : Nat) (x : Ctx) : (s.setCtx c x).image = s.image := rfl
@[simp] theorem State.setCtx_fwPend (s : State) (c : Nat) (x : Ctx) : (s.setCtx c x).fwPend = s.fwPend := rfl
@[simp] theorem State.setCtx_rotor (s : State) (c : Nat) (x : Ctx) : (s.setCtx c x).rotor = s.rotor := rfl
@[simp] theorem State.setCtx_consents (s : State) (c : Nat) (x : Ctx) : (s.setCtx c x).consents = s.consents := rfl
@[simp] theorem State.setCtx_power (s : State) (c : Nat) (x : Ctx) : (s.setCtx c x).power = s.power := rfl
@[simp] theorem State.setCtx_tripped (s : State) (c : Nat) (x : Ctx) : (s.setCtx c x).tripped = s.tripped := rfl
@[simp] theorem State.setCtx_cskip (s : State) (c : Nat) (x : Ctx) : (s.setCtx c x).cskip = s.cskip := rfl
@[simp] theorem State.setCtx_spares (s : State) (c : Nat) (x : Ctx) : (s.setCtx c x).spares = s.spares := rfl
@[simp] theorem State.setCtx_unavailable (s : State) (c : Nat) (x : Ctx) : (s.setCtx c x).unavailable = s.unavailable := rfl
@[simp] theorem State.setCtx_health (s : State) (c : Nat) (x : Ctx) : (s.setCtx c x).health = s.health := rfl
@[simp] theorem State.setCtx_hostOut (s : State) (c : Nat) (x : Ctx) : (s.setCtx c x).hostOut = s.hostOut := rfl
@[simp] theorem State.setCtx_agenda (s : State) (c : Nat) (x : Ctx) : (s.setCtx c x).agenda = s.agenda := rfl
@[simp] theorem State.setCtx_inputs (s : State) (c : Nat) (x : Ctx) : (s.setCtx c x).inputs = s.inputs := rfl
@[simp] theorem State.setCtx_issue (s : State) (c : Nat) (x : Ctx) : (s.setCtx c x).issue = s.issue := rfl
@[simp] theorem State.setCtx_issued (s : State) (c : Nat) (x : Ctx) : (s.setCtx c x).issued = s.issued := rfl
@[simp] theorem State.setCtx_free (s : State) (c : Nat) (x : Ctx) : (s.setCtx c x).free = s.free := rfl

/-! ### Fields that `setTile` leaves -/

@[simp] theorem State.setTile_cycle (s : State) (t : Nat) (x : Tile) : (s.setTile t x).cycle = s.cycle := rfl
@[simp] theorem State.setTile_cal (s : State) (t : Nat) (x : Tile) : (s.setTile t x).cal = s.cal := rfl
@[simp] theorem State.setTile_ctxs (s : State) (t : Nat) (x : Tile) : (s.setTile t x).ctxs = s.ctxs := rfl
@[simp] theorem State.setTile_launches (s : State) (t : Nat) (x : Tile) : (s.setTile t x).launches = s.launches := rfl
@[simp] theorem State.setTile_nextLaunch (s : State) (t : Nat) (x : Tile) : (s.setTile t x).nextLaunch = s.nextLaunch := rfl
@[simp] theorem State.setTile_tenants (s : State) (t : Nat) (x : Tile) : (s.setTile t x).tenants = s.tenants := rfl
@[simp] theorem State.setTile_queues (s : State) (t : Nat) (x : Tile) : (s.setTile t x).queues = s.queues := rfl
@[simp] theorem State.setTile_rings (s : State) (t : Nat) (x : Tile) : (s.setTile t x).rings = s.rings := rfl
@[simp] theorem State.setTile_keys (s : State) (t : Nat) (x : Tile) : (s.setTile t x).keys = s.keys := rfl
@[simp] theorem State.setTile_frameKey (s : State) (t : Nat) (x : Tile) : (s.setTile t x).frameKey = s.frameKey := rfl
@[simp] theorem State.setTile_keyGen (s : State) (t : Nat) (x : Tile) : (s.setTile t x).keyGen = s.keyGen := rfl
@[simp] theorem State.setTile_seals (s : State) (t : Nat) (x : Tile) : (s.setTile t x).seals = s.seals := rfl
@[simp] theorem State.setTile_hostReads (s : State) (t : Nat) (x : Tile) : (s.setTile t x).hostReads = s.hostReads := rfl
@[simp] theorem State.setTile_dev (s : State) (t : Nat) (x : Tile) : (s.setTile t x).dev = s.dev := rfl
@[simp] theorem State.setTile_poison (s : State) (t : Nat) (x : Tile) : (s.setTile t x).poison = s.poison := rfl
@[simp] theorem State.setTile_slc (s : State) (t : Nat) (x : Tile) : (s.setTile t x).slc = s.slc := rfl
@[simp] theorem State.setTile_snoop (s : State) (t : Nat) (x : Tile) : (s.setTile t x).snoop = s.snoop := rfl
@[simp] theorem State.setTile_backInv (s : State) (t : Nat) (x : Tile) : (s.setTile t x).backInv = s.backInv := rfl
@[simp] theorem State.setTile_tokens (s : State) (t : Nat) (x : Tile) : (s.setTile t x).tokens = s.tokens := rfl
@[simp] theorem State.setTile_depth (s : State) (t : Nat) (x : Tile) : (s.setTile t x).depth = s.depth := rfl
@[simp] theorem State.setTile_rate (s : State) (t : Nat) (x : Tile) : (s.setTile t x).rate = s.rate := rfl
@[simp] theorem State.setTile_pool (s : State) (t : Nat) (x : Tile) : (s.setTile t x).pool = s.pool := rfl
@[simp] theorem State.setTile_poolDepth (s : State) (t : Nat) (x : Tile) : (s.setTile t x).poolDepth = s.poolDepth := rfl
@[simp] theorem State.setTile_refills (s : State) (t : Nat) (x : Tile) : (s.setTile t x).refills = s.refills := rfl
@[simp] theorem State.setTile_tickets (s : State) (t : Nat) (x : Tile) : (s.setTile t x).tickets = s.tickets := rfl
@[simp] theorem State.setTile_portUsed (s : State) (t : Nat) (x : Tile) : (s.setTile t x).portUsed = s.portUsed := rfl
@[simp] theorem State.setTile_portTurn (s : State) (t : Nat) (x : Tile) : (s.setTile t x).portTurn = s.portTurn := rfl
@[simp] theorem State.setTile_hints (s : State) (t : Nat) (x : Tile) : (s.setTile t x).hints = s.hints := rfl
@[simp] theorem State.setTile_hostMem (s : State) (t : Nat) (x : Tile) : (s.setTile t x).hostMem = s.hostMem := rfl
@[simp] theorem State.setTile_attic (s : State) (t : Nat) (x : Tile) : (s.setTile t x).attic = s.attic := rfl
@[simp] theorem State.setTile_atticReq (s : State) (t : Nat) (x : Tile) : (s.setTile t x).atticReq = s.atticReq := rfl
@[simp] theorem State.setTile_migrations (s : State) (t : Nat) (x : Tile) : (s.setTile t x).migrations = s.migrations := rfl
@[simp] theorem State.setTile_rails (s : State) (t : Nat) (x : Tile) : (s.setTile t x).rails = s.rails := rfl
@[simp] theorem State.setTile_shedStep (s : State) (t : Nat) (x : Tile) : (s.setTile t x).shedStep = s.shedStep := rfl
@[simp] theorem State.setTile_shedStd (s : State) (t : Nat) (x : Tile) : (s.setTile t x).shedStd = s.shedStd := rfl
@[simp] theorem State.setTile_shedInt (s : State) (t : Nat) (x : Tile) : (s.setTile t x).shedInt = s.shedInt := rfl
@[simp] theorem State.setTile_calm (s : State) (t : Nat) (x : Tile) : (s.setTile t x).calm = s.calm := rfl
@[simp] theorem State.setTile_linkLanes (s : State) (t : Nat) (x : Tile) : (s.setTile t x).linkLanes = s.linkLanes := rfl
@[simp] theorem State.setTile_linkRate (s : State) (t : Nat) (x : Tile) : (s.setTile t x).linkRate = s.linkRate := rfl
@[simp] theorem State.setTile_linkUp (s : State) (t : Nat) (x : Tile) : (s.setTile t x).linkUp = s.linkUp := rfl
@[simp] theorem State.setTile_timeout (s : State) (t : Nat) (x : Tile) : (s.setTile t x).timeout = s.timeout := rfl
@[simp] theorem State.setTile_fwrange (s : State) (t : Nat) (x : Tile) : (s.setTile t x).fwrange = s.fwrange := rfl
@[simp] theorem State.setTile_fwstatus (s : State) (t : Nat) (x : Tile) : (s.setTile t x).fwstatus = s.fwstatus := rfl
@[simp] theorem State.setTile_activation (s : State) (t : Nat) (x : Tile) : (s.setTile t x).activation = s.activation := rfl
@[simp] theorem State.setTile_firmware (s : State) (t : Nat) (x : Tile) : (s.setTile t x).firmware = s.firmware := rfl
@[simp] theorem State.setTile_image (s : State) (t : Nat) (x : Tile) : (s.setTile t x).image = s.image := rfl
@[simp] theorem State.setTile_fwPend (s : State) (t : Nat) (x : Tile) : (s.setTile t x).fwPend = s.fwPend := rfl
@[simp] theorem State.setTile_rotor (s : State) (t : Nat) (x : Tile) : (s.setTile t x).rotor = s.rotor := rfl
@[simp] theorem State.setTile_consents (s : State) (t : Nat) (x : Tile) : (s.setTile t x).consents = s.consents := rfl
@[simp] theorem State.setTile_power (s : State) (t : Nat) (x : Tile) : (s.setTile t x).power = s.power := rfl
@[simp] theorem State.setTile_tripped (s : State) (t : Nat) (x : Tile) : (s.setTile t x).tripped = s.tripped := rfl
@[simp] theorem State.setTile_cskip (s : State) (t : Nat) (x : Tile) : (s.setTile t x).cskip = s.cskip := rfl
@[simp] theorem State.setTile_spares (s : State) (t : Nat) (x : Tile) : (s.setTile t x).spares = s.spares := rfl
@[simp] theorem State.setTile_unavailable (s : State) (t : Nat) (x : Tile) : (s.setTile t x).unavailable = s.unavailable := rfl
@[simp] theorem State.setTile_health (s : State) (t : Nat) (x : Tile) : (s.setTile t x).health = s.health := rfl
@[simp] theorem State.setTile_hostOut (s : State) (t : Nat) (x : Tile) : (s.setTile t x).hostOut = s.hostOut := rfl
@[simp] theorem State.setTile_agenda (s : State) (t : Nat) (x : Tile) : (s.setTile t x).agenda = s.agenda := rfl
@[simp] theorem State.setTile_inputs (s : State) (t : Nat) (x : Tile) : (s.setTile t x).inputs = s.inputs := rfl
@[simp] theorem State.setTile_issue (s : State) (t : Nat) (x : Tile) : (s.setTile t x).issue = s.issue := rfl
@[simp] theorem State.setTile_issued (s : State) (t : Nat) (x : Tile) : (s.setTile t x).issued = s.issued := rfl
@[simp] theorem State.setTile_free (s : State) (t : Nat) (x : Tile) : (s.setTile t x).free = s.free := rfl

/-! ### Fields that `setTenant` leaves -/

@[simp] theorem State.setTenant_cycle (s : State) (f : Nat) (x : Tenant) : (s.setTenant f x).cycle = s.cycle := rfl
@[simp] theorem State.setTenant_cal (s : State) (f : Nat) (x : Tenant) : (s.setTenant f x).cal = s.cal := rfl
@[simp] theorem State.setTenant_ctxs (s : State) (f : Nat) (x : Tenant) : (s.setTenant f x).ctxs = s.ctxs := rfl
@[simp] theorem State.setTenant_tiles (s : State) (f : Nat) (x : Tenant) : (s.setTenant f x).tiles = s.tiles := rfl
@[simp] theorem State.setTenant_launches (s : State) (f : Nat) (x : Tenant) : (s.setTenant f x).launches = s.launches := rfl
@[simp] theorem State.setTenant_nextLaunch (s : State) (f : Nat) (x : Tenant) : (s.setTenant f x).nextLaunch = s.nextLaunch := rfl
@[simp] theorem State.setTenant_queues (s : State) (f : Nat) (x : Tenant) : (s.setTenant f x).queues = s.queues := rfl
@[simp] theorem State.setTenant_rings (s : State) (f : Nat) (x : Tenant) : (s.setTenant f x).rings = s.rings := rfl
@[simp] theorem State.setTenant_keys (s : State) (f : Nat) (x : Tenant) : (s.setTenant f x).keys = s.keys := rfl
@[simp] theorem State.setTenant_frameKey (s : State) (f : Nat) (x : Tenant) : (s.setTenant f x).frameKey = s.frameKey := rfl
@[simp] theorem State.setTenant_keyGen (s : State) (f : Nat) (x : Tenant) : (s.setTenant f x).keyGen = s.keyGen := rfl
@[simp] theorem State.setTenant_seals (s : State) (f : Nat) (x : Tenant) : (s.setTenant f x).seals = s.seals := rfl
@[simp] theorem State.setTenant_hostReads (s : State) (f : Nat) (x : Tenant) : (s.setTenant f x).hostReads = s.hostReads := rfl
@[simp] theorem State.setTenant_dev (s : State) (f : Nat) (x : Tenant) : (s.setTenant f x).dev = s.dev := rfl
@[simp] theorem State.setTenant_poison (s : State) (f : Nat) (x : Tenant) : (s.setTenant f x).poison = s.poison := rfl
@[simp] theorem State.setTenant_slc (s : State) (f : Nat) (x : Tenant) : (s.setTenant f x).slc = s.slc := rfl
@[simp] theorem State.setTenant_snoop (s : State) (f : Nat) (x : Tenant) : (s.setTenant f x).snoop = s.snoop := rfl
@[simp] theorem State.setTenant_backInv (s : State) (f : Nat) (x : Tenant) : (s.setTenant f x).backInv = s.backInv := rfl
@[simp] theorem State.setTenant_tokens (s : State) (f : Nat) (x : Tenant) : (s.setTenant f x).tokens = s.tokens := rfl
@[simp] theorem State.setTenant_depth (s : State) (f : Nat) (x : Tenant) : (s.setTenant f x).depth = s.depth := rfl
@[simp] theorem State.setTenant_rate (s : State) (f : Nat) (x : Tenant) : (s.setTenant f x).rate = s.rate := rfl
@[simp] theorem State.setTenant_pool (s : State) (f : Nat) (x : Tenant) : (s.setTenant f x).pool = s.pool := rfl
@[simp] theorem State.setTenant_poolDepth (s : State) (f : Nat) (x : Tenant) : (s.setTenant f x).poolDepth = s.poolDepth := rfl
@[simp] theorem State.setTenant_refills (s : State) (f : Nat) (x : Tenant) : (s.setTenant f x).refills = s.refills := rfl
@[simp] theorem State.setTenant_tickets (s : State) (f : Nat) (x : Tenant) : (s.setTenant f x).tickets = s.tickets := rfl
@[simp] theorem State.setTenant_portUsed (s : State) (f : Nat) (x : Tenant) : (s.setTenant f x).portUsed = s.portUsed := rfl
@[simp] theorem State.setTenant_portTurn (s : State) (f : Nat) (x : Tenant) : (s.setTenant f x).portTurn = s.portTurn := rfl
@[simp] theorem State.setTenant_hints (s : State) (f : Nat) (x : Tenant) : (s.setTenant f x).hints = s.hints := rfl
@[simp] theorem State.setTenant_hostMem (s : State) (f : Nat) (x : Tenant) : (s.setTenant f x).hostMem = s.hostMem := rfl
@[simp] theorem State.setTenant_attic (s : State) (f : Nat) (x : Tenant) : (s.setTenant f x).attic = s.attic := rfl
@[simp] theorem State.setTenant_atticReq (s : State) (f : Nat) (x : Tenant) : (s.setTenant f x).atticReq = s.atticReq := rfl
@[simp] theorem State.setTenant_migrations (s : State) (f : Nat) (x : Tenant) : (s.setTenant f x).migrations = s.migrations := rfl
@[simp] theorem State.setTenant_rails (s : State) (f : Nat) (x : Tenant) : (s.setTenant f x).rails = s.rails := rfl
@[simp] theorem State.setTenant_shedStep (s : State) (f : Nat) (x : Tenant) : (s.setTenant f x).shedStep = s.shedStep := rfl
@[simp] theorem State.setTenant_shedStd (s : State) (f : Nat) (x : Tenant) : (s.setTenant f x).shedStd = s.shedStd := rfl
@[simp] theorem State.setTenant_shedInt (s : State) (f : Nat) (x : Tenant) : (s.setTenant f x).shedInt = s.shedInt := rfl
@[simp] theorem State.setTenant_calm (s : State) (f : Nat) (x : Tenant) : (s.setTenant f x).calm = s.calm := rfl
@[simp] theorem State.setTenant_linkLanes (s : State) (f : Nat) (x : Tenant) : (s.setTenant f x).linkLanes = s.linkLanes := rfl
@[simp] theorem State.setTenant_linkRate (s : State) (f : Nat) (x : Tenant) : (s.setTenant f x).linkRate = s.linkRate := rfl
@[simp] theorem State.setTenant_linkUp (s : State) (f : Nat) (x : Tenant) : (s.setTenant f x).linkUp = s.linkUp := rfl
@[simp] theorem State.setTenant_timeout (s : State) (f : Nat) (x : Tenant) : (s.setTenant f x).timeout = s.timeout := rfl
@[simp] theorem State.setTenant_fwrange (s : State) (f : Nat) (x : Tenant) : (s.setTenant f x).fwrange = s.fwrange := rfl
@[simp] theorem State.setTenant_fwstatus (s : State) (f : Nat) (x : Tenant) : (s.setTenant f x).fwstatus = s.fwstatus := rfl
@[simp] theorem State.setTenant_activation (s : State) (f : Nat) (x : Tenant) : (s.setTenant f x).activation = s.activation := rfl
@[simp] theorem State.setTenant_firmware (s : State) (f : Nat) (x : Tenant) : (s.setTenant f x).firmware = s.firmware := rfl
@[simp] theorem State.setTenant_image (s : State) (f : Nat) (x : Tenant) : (s.setTenant f x).image = s.image := rfl
@[simp] theorem State.setTenant_fwPend (s : State) (f : Nat) (x : Tenant) : (s.setTenant f x).fwPend = s.fwPend := rfl
@[simp] theorem State.setTenant_rotor (s : State) (f : Nat) (x : Tenant) : (s.setTenant f x).rotor = s.rotor := rfl
@[simp] theorem State.setTenant_consents (s : State) (f : Nat) (x : Tenant) : (s.setTenant f x).consents = s.consents := rfl
@[simp] theorem State.setTenant_power (s : State) (f : Nat) (x : Tenant) : (s.setTenant f x).power = s.power := rfl
@[simp] theorem State.setTenant_tripped (s : State) (f : Nat) (x : Tenant) : (s.setTenant f x).tripped = s.tripped := rfl
@[simp] theorem State.setTenant_cskip (s : State) (f : Nat) (x : Tenant) : (s.setTenant f x).cskip = s.cskip := rfl
@[simp] theorem State.setTenant_spares (s : State) (f : Nat) (x : Tenant) : (s.setTenant f x).spares = s.spares := rfl
@[simp] theorem State.setTenant_unavailable (s : State) (f : Nat) (x : Tenant) : (s.setTenant f x).unavailable = s.unavailable := rfl
@[simp] theorem State.setTenant_health (s : State) (f : Nat) (x : Tenant) : (s.setTenant f x).health = s.health := rfl
@[simp] theorem State.setTenant_hostOut (s : State) (f : Nat) (x : Tenant) : (s.setTenant f x).hostOut = s.hostOut := rfl
@[simp] theorem State.setTenant_agenda (s : State) (f : Nat) (x : Tenant) : (s.setTenant f x).agenda = s.agenda := rfl
@[simp] theorem State.setTenant_inputs (s : State) (f : Nat) (x : Tenant) : (s.setTenant f x).inputs = s.inputs := rfl
@[simp] theorem State.setTenant_issue (s : State) (f : Nat) (x : Tenant) : (s.setTenant f x).issue = s.issue := rfl
@[simp] theorem State.setTenant_issued (s : State) (f : Nat) (x : Tenant) : (s.setTenant f x).issued = s.issued := rfl
@[simp] theorem State.setTenant_free (s : State) (f : Nat) (x : Tenant) : (s.setTenant f x).free = s.free := rfl

/-! ### Fields that `setCx` and `setTl` leave -/

@[simp] theorem State.setCx_cycle (s : State) (x : Ctx) : (s.setCx x).cycle = s.cycle := rfl
@[simp] theorem State.setCx_cal (s : State) (x : Ctx) : (s.setCx x).cal = s.cal := rfl
@[simp] theorem State.setCx_tiles (s : State) (x : Ctx) : (s.setCx x).tiles = s.tiles := rfl
@[simp] theorem State.setCx_launches (s : State) (x : Ctx) : (s.setCx x).launches = s.launches := rfl
@[simp] theorem State.setCx_nextLaunch (s : State) (x : Ctx) : (s.setCx x).nextLaunch = s.nextLaunch := rfl
@[simp] theorem State.setCx_tenants (s : State) (x : Ctx) : (s.setCx x).tenants = s.tenants := rfl
@[simp] theorem State.setCx_queues (s : State) (x : Ctx) : (s.setCx x).queues = s.queues := rfl
@[simp] theorem State.setCx_rings (s : State) (x : Ctx) : (s.setCx x).rings = s.rings := rfl
@[simp] theorem State.setCx_keys (s : State) (x : Ctx) : (s.setCx x).keys = s.keys := rfl
@[simp] theorem State.setCx_frameKey (s : State) (x : Ctx) : (s.setCx x).frameKey = s.frameKey := rfl
@[simp] theorem State.setCx_keyGen (s : State) (x : Ctx) : (s.setCx x).keyGen = s.keyGen := rfl
@[simp] theorem State.setCx_seals (s : State) (x : Ctx) : (s.setCx x).seals = s.seals := rfl
@[simp] theorem State.setCx_hostReads (s : State) (x : Ctx) : (s.setCx x).hostReads = s.hostReads := rfl
@[simp] theorem State.setCx_dev (s : State) (x : Ctx) : (s.setCx x).dev = s.dev := rfl
@[simp] theorem State.setCx_poison (s : State) (x : Ctx) : (s.setCx x).poison = s.poison := rfl
@[simp] theorem State.setCx_slc (s : State) (x : Ctx) : (s.setCx x).slc = s.slc := rfl
@[simp] theorem State.setCx_snoop (s : State) (x : Ctx) : (s.setCx x).snoop = s.snoop := rfl
@[simp] theorem State.setCx_backInv (s : State) (x : Ctx) : (s.setCx x).backInv = s.backInv := rfl
@[simp] theorem State.setCx_tokens (s : State) (x : Ctx) : (s.setCx x).tokens = s.tokens := rfl
@[simp] theorem State.setCx_depth (s : State) (x : Ctx) : (s.setCx x).depth = s.depth := rfl
@[simp] theorem State.setCx_rate (s : State) (x : Ctx) : (s.setCx x).rate = s.rate := rfl
@[simp] theorem State.setCx_pool (s : State) (x : Ctx) : (s.setCx x).pool = s.pool := rfl
@[simp] theorem State.setCx_poolDepth (s : State) (x : Ctx) : (s.setCx x).poolDepth = s.poolDepth := rfl
@[simp] theorem State.setCx_refills (s : State) (x : Ctx) : (s.setCx x).refills = s.refills := rfl
@[simp] theorem State.setCx_tickets (s : State) (x : Ctx) : (s.setCx x).tickets = s.tickets := rfl
@[simp] theorem State.setCx_portUsed (s : State) (x : Ctx) : (s.setCx x).portUsed = s.portUsed := rfl
@[simp] theorem State.setCx_portTurn (s : State) (x : Ctx) : (s.setCx x).portTurn = s.portTurn := rfl
@[simp] theorem State.setCx_hints (s : State) (x : Ctx) : (s.setCx x).hints = s.hints := rfl
@[simp] theorem State.setCx_hostMem (s : State) (x : Ctx) : (s.setCx x).hostMem = s.hostMem := rfl
@[simp] theorem State.setCx_attic (s : State) (x : Ctx) : (s.setCx x).attic = s.attic := rfl
@[simp] theorem State.setCx_atticReq (s : State) (x : Ctx) : (s.setCx x).atticReq = s.atticReq := rfl
@[simp] theorem State.setCx_migrations (s : State) (x : Ctx) : (s.setCx x).migrations = s.migrations := rfl
@[simp] theorem State.setCx_rails (s : State) (x : Ctx) : (s.setCx x).rails = s.rails := rfl
@[simp] theorem State.setCx_shedStep (s : State) (x : Ctx) : (s.setCx x).shedStep = s.shedStep := rfl
@[simp] theorem State.setCx_shedStd (s : State) (x : Ctx) : (s.setCx x).shedStd = s.shedStd := rfl
@[simp] theorem State.setCx_shedInt (s : State) (x : Ctx) : (s.setCx x).shedInt = s.shedInt := rfl
@[simp] theorem State.setCx_calm (s : State) (x : Ctx) : (s.setCx x).calm = s.calm := rfl
@[simp] theorem State.setCx_linkLanes (s : State) (x : Ctx) : (s.setCx x).linkLanes = s.linkLanes := rfl
@[simp] theorem State.setCx_linkRate (s : State) (x : Ctx) : (s.setCx x).linkRate = s.linkRate := rfl
@[simp] theorem State.setCx_linkUp (s : State) (x : Ctx) : (s.setCx x).linkUp = s.linkUp := rfl
@[simp] theorem State.setCx_timeout (s : State) (x : Ctx) : (s.setCx x).timeout = s.timeout := rfl
@[simp] theorem State.setCx_fwrange (s : State) (x : Ctx) : (s.setCx x).fwrange = s.fwrange := rfl
@[simp] theorem State.setCx_fwstatus (s : State) (x : Ctx) : (s.setCx x).fwstatus = s.fwstatus := rfl
@[simp] theorem State.setCx_activation (s : State) (x : Ctx) : (s.setCx x).activation = s.activation := rfl
@[simp] theorem State.setCx_firmware (s : State) (x : Ctx) : (s.setCx x).firmware = s.firmware := rfl
@[simp] theorem State.setCx_image (s : State) (x : Ctx) : (s.setCx x).image = s.image := rfl
@[simp] theorem State.setCx_fwPend (s : State) (x : Ctx) : (s.setCx x).fwPend = s.fwPend := rfl
@[simp] theorem State.setCx_rotor (s : State) (x : Ctx) : (s.setCx x).rotor = s.rotor := rfl
@[simp] theorem State.setCx_consents (s : State) (x : Ctx) : (s.setCx x).consents = s.consents := rfl
@[simp] theorem State.setCx_power (s : State) (x : Ctx) : (s.setCx x).power = s.power := rfl
@[simp] theorem State.setCx_tripped (s : State) (x : Ctx) : (s.setCx x).tripped = s.tripped := rfl
@[simp] theorem State.setCx_cskip (s : State) (x : Ctx) : (s.setCx x).cskip = s.cskip := rfl
@[simp] theorem State.setCx_spares (s : State) (x : Ctx) : (s.setCx x).spares = s.spares := rfl
@[simp] theorem State.setCx_unavailable (s : State) (x : Ctx) : (s.setCx x).unavailable = s.unavailable := rfl
@[simp] theorem State.setCx_health (s : State) (x : Ctx) : (s.setCx x).health = s.health := rfl
@[simp] theorem State.setCx_hostOut (s : State) (x : Ctx) : (s.setCx x).hostOut = s.hostOut := rfl
@[simp] theorem State.setCx_agenda (s : State) (x : Ctx) : (s.setCx x).agenda = s.agenda := rfl
@[simp] theorem State.setCx_inputs (s : State) (x : Ctx) : (s.setCx x).inputs = s.inputs := rfl
@[simp] theorem State.setCx_issue (s : State) (x : Ctx) : (s.setCx x).issue = s.issue := rfl
@[simp] theorem State.setCx_issued (s : State) (x : Ctx) : (s.setCx x).issued = s.issued := rfl
@[simp] theorem State.setCx_free (s : State) (x : Ctx) : (s.setCx x).free = s.free := rfl
@[simp] theorem State.setTl_cycle (s : State) (x : Tile) : (s.setTl x).cycle = s.cycle := rfl
@[simp] theorem State.setTl_cal (s : State) (x : Tile) : (s.setTl x).cal = s.cal := rfl
@[simp] theorem State.setTl_ctxs (s : State) (x : Tile) : (s.setTl x).ctxs = s.ctxs := rfl
@[simp] theorem State.setTl_launches (s : State) (x : Tile) : (s.setTl x).launches = s.launches := rfl
@[simp] theorem State.setTl_nextLaunch (s : State) (x : Tile) : (s.setTl x).nextLaunch = s.nextLaunch := rfl
@[simp] theorem State.setTl_tenants (s : State) (x : Tile) : (s.setTl x).tenants = s.tenants := rfl
@[simp] theorem State.setTl_queues (s : State) (x : Tile) : (s.setTl x).queues = s.queues := rfl
@[simp] theorem State.setTl_rings (s : State) (x : Tile) : (s.setTl x).rings = s.rings := rfl
@[simp] theorem State.setTl_keys (s : State) (x : Tile) : (s.setTl x).keys = s.keys := rfl
@[simp] theorem State.setTl_frameKey (s : State) (x : Tile) : (s.setTl x).frameKey = s.frameKey := rfl
@[simp] theorem State.setTl_keyGen (s : State) (x : Tile) : (s.setTl x).keyGen = s.keyGen := rfl
@[simp] theorem State.setTl_seals (s : State) (x : Tile) : (s.setTl x).seals = s.seals := rfl
@[simp] theorem State.setTl_hostReads (s : State) (x : Tile) : (s.setTl x).hostReads = s.hostReads := rfl
@[simp] theorem State.setTl_dev (s : State) (x : Tile) : (s.setTl x).dev = s.dev := rfl
@[simp] theorem State.setTl_poison (s : State) (x : Tile) : (s.setTl x).poison = s.poison := rfl
@[simp] theorem State.setTl_slc (s : State) (x : Tile) : (s.setTl x).slc = s.slc := rfl
@[simp] theorem State.setTl_snoop (s : State) (x : Tile) : (s.setTl x).snoop = s.snoop := rfl
@[simp] theorem State.setTl_backInv (s : State) (x : Tile) : (s.setTl x).backInv = s.backInv := rfl
@[simp] theorem State.setTl_tokens (s : State) (x : Tile) : (s.setTl x).tokens = s.tokens := rfl
@[simp] theorem State.setTl_depth (s : State) (x : Tile) : (s.setTl x).depth = s.depth := rfl
@[simp] theorem State.setTl_rate (s : State) (x : Tile) : (s.setTl x).rate = s.rate := rfl
@[simp] theorem State.setTl_pool (s : State) (x : Tile) : (s.setTl x).pool = s.pool := rfl
@[simp] theorem State.setTl_poolDepth (s : State) (x : Tile) : (s.setTl x).poolDepth = s.poolDepth := rfl
@[simp] theorem State.setTl_refills (s : State) (x : Tile) : (s.setTl x).refills = s.refills := rfl
@[simp] theorem State.setTl_tickets (s : State) (x : Tile) : (s.setTl x).tickets = s.tickets := rfl
@[simp] theorem State.setTl_portUsed (s : State) (x : Tile) : (s.setTl x).portUsed = s.portUsed := rfl
@[simp] theorem State.setTl_portTurn (s : State) (x : Tile) : (s.setTl x).portTurn = s.portTurn := rfl
@[simp] theorem State.setTl_hints (s : State) (x : Tile) : (s.setTl x).hints = s.hints := rfl
@[simp] theorem State.setTl_hostMem (s : State) (x : Tile) : (s.setTl x).hostMem = s.hostMem := rfl
@[simp] theorem State.setTl_attic (s : State) (x : Tile) : (s.setTl x).attic = s.attic := rfl
@[simp] theorem State.setTl_atticReq (s : State) (x : Tile) : (s.setTl x).atticReq = s.atticReq := rfl
@[simp] theorem State.setTl_migrations (s : State) (x : Tile) : (s.setTl x).migrations = s.migrations := rfl
@[simp] theorem State.setTl_rails (s : State) (x : Tile) : (s.setTl x).rails = s.rails := rfl
@[simp] theorem State.setTl_shedStep (s : State) (x : Tile) : (s.setTl x).shedStep = s.shedStep := rfl
@[simp] theorem State.setTl_shedStd (s : State) (x : Tile) : (s.setTl x).shedStd = s.shedStd := rfl
@[simp] theorem State.setTl_shedInt (s : State) (x : Tile) : (s.setTl x).shedInt = s.shedInt := rfl
@[simp] theorem State.setTl_calm (s : State) (x : Tile) : (s.setTl x).calm = s.calm := rfl
@[simp] theorem State.setTl_linkLanes (s : State) (x : Tile) : (s.setTl x).linkLanes = s.linkLanes := rfl
@[simp] theorem State.setTl_linkRate (s : State) (x : Tile) : (s.setTl x).linkRate = s.linkRate := rfl
@[simp] theorem State.setTl_linkUp (s : State) (x : Tile) : (s.setTl x).linkUp = s.linkUp := rfl
@[simp] theorem State.setTl_timeout (s : State) (x : Tile) : (s.setTl x).timeout = s.timeout := rfl
@[simp] theorem State.setTl_fwrange (s : State) (x : Tile) : (s.setTl x).fwrange = s.fwrange := rfl
@[simp] theorem State.setTl_fwstatus (s : State) (x : Tile) : (s.setTl x).fwstatus = s.fwstatus := rfl
@[simp] theorem State.setTl_activation (s : State) (x : Tile) : (s.setTl x).activation = s.activation := rfl
@[simp] theorem State.setTl_firmware (s : State) (x : Tile) : (s.setTl x).firmware = s.firmware := rfl
@[simp] theorem State.setTl_image (s : State) (x : Tile) : (s.setTl x).image = s.image := rfl
@[simp] theorem State.setTl_fwPend (s : State) (x : Tile) : (s.setTl x).fwPend = s.fwPend := rfl
@[simp] theorem State.setTl_rotor (s : State) (x : Tile) : (s.setTl x).rotor = s.rotor := rfl
@[simp] theorem State.setTl_consents (s : State) (x : Tile) : (s.setTl x).consents = s.consents := rfl
@[simp] theorem State.setTl_power (s : State) (x : Tile) : (s.setTl x).power = s.power := rfl
@[simp] theorem State.setTl_tripped (s : State) (x : Tile) : (s.setTl x).tripped = s.tripped := rfl
@[simp] theorem State.setTl_cskip (s : State) (x : Tile) : (s.setTl x).cskip = s.cskip := rfl
@[simp] theorem State.setTl_spares (s : State) (x : Tile) : (s.setTl x).spares = s.spares := rfl
@[simp] theorem State.setTl_unavailable (s : State) (x : Tile) : (s.setTl x).unavailable = s.unavailable := rfl
@[simp] theorem State.setTl_health (s : State) (x : Tile) : (s.setTl x).health = s.health := rfl
@[simp] theorem State.setTl_hostOut (s : State) (x : Tile) : (s.setTl x).hostOut = s.hostOut := rfl
@[simp] theorem State.setTl_agenda (s : State) (x : Tile) : (s.setTl x).agenda = s.agenda := rfl
@[simp] theorem State.setTl_inputs (s : State) (x : Tile) : (s.setTl x).inputs = s.inputs := rfl
@[simp] theorem State.setTl_issue (s : State) (x : Tile) : (s.setTl x).issue = s.issue := rfl
@[simp] theorem State.setTl_issued (s : State) (x : Tile) : (s.setTl x).issued = s.issued := rfl
@[simp] theorem State.setTl_free (s : State) (x : Tile) : (s.setTl x).free = s.free := rfl

end Sys2Proof.Machine
end

