-- ==== Sys2Proof/Laws/Keys.lean ====
section
/-! SUPPORT. Device memory under its keys (R25, R182): what a sector that is about to be written keeps, and what a range reads as. -/

namespace Sys2Proof.Machine

/-! ### Entries of a map that change -/

theorem mfind_mmodify_self {α : Type} (m : AMap α) (n : Nat) (f : α → α) : mfind (mmodify m n f) n = (mfind m n).map f := by
  induction m with
  | nil => rfl
  | cons p m ih =>
    obtain ⟨k, v⟩ := p
    by_cases h : k = n <;> simp [mmodify, mfind, h, ih]

theorem mfind_mmodify_ne {α : Type} (m : AMap α) {n k : Nat} (f : α → α) (h : k ≠ n) : mfind (mmodify m n f) k = mfind m k := by
  induction m with
  | nil => rfl
  | cons p m ih =>
    obtain ⟨j, v⟩ := p
    by_cases hj : j = n
    · subst hj; simp [mmodify, mfind, Ne.symm h]
    · simp [mmodify, mfind, hj, ih]

/-! ### Without a seal nothing is foreign -/

theorem State.foreign_of_noSeal {s : State} {u : Nat} (h : mfind s.seals (64 * u / 2 ^ 21) = none) : s.foreign u = none := by
  unfold State.foreign; rw [h]

theorem State.devByte_of_own {s : State} {a : Nat} (h : s.foreign (a / 64) = none) : s.devByte a = mread s.dev a := by
  simp [State.devByte, h]

theorem State.claim_of_own {s : State} {u : Nat} (h : s.foreign u = none) : s.claim u = s := by
  simp [State.claim, h]

@[simp] theorem State.text_of_noSeals {s : State} (h : s.seals = []) (a n : Nat) : s.text a n = s.dev := by
  simp [State.text, h]

@[simp] theorem State.claimRange_of_noSeals {s : State} (h : s.seals = []) (a n : Nat) : s.claimRange a n = s := by
  simp [State.claimRange, h]

/-! ### Sectors of a range -/

theorem mem_sectorsOf {a n u : Nat} : u ∈ sectorsOf a n ↔ 0 < n ∧ a / 64 ≤ u ∧ u ≤ (a + n - 1) / 64 := by
  unfold sectorsOf
  by_cases h : n = 0
  · simp [h]
  · simp only [h, if_false, List.mem_map, List.mem_range]
    constructor
    · rintro ⟨i, hi, rfl⟩; omega
    · rintro ⟨_, h1, h2⟩; exact ⟨u - a / 64, by omega, by omega⟩

theorem sectorsOf_sector (u : Nat) : sectorsOf (64 * u) 64 = [u] := by
  unfold sectorsOf
  have h : (64 * u + 64 - 1) / 64 - 64 * u / 64 + 1 = 1 := by omega
  rw [h, if_neg (by omega)]
  simp

/-! ### What a range reads as -/

/-- Writing one sector byte by byte. -/
theorem mread_sector (g : Nat → Byte) (u b : Nat) {d : Memory} (h : Memory.wf d = true) (k : Nat) (hk : k ≤ 64) :
    mread ((List.range k).foldl (fun d i => mwrite d (64 * u + i) (g (64 * u + i))) d) b =
      if 64 * u ≤ b ∧ b < 64 * u + k then g b else mread d b := by
  induction k with
  | zero => rw [if_neg (by omega)]; rfl
  | succ k ih =>
    rw [List.range_succ, List.foldl_append, List.foldl_cons, List.foldl_nil]
    by_cases hb : b = 64 * u + k
    · subst hb
      rw [mread_mwrite_self _ _ (wf_foldl_mwrite _ _ _ h), if_pos (by omega)]
    · rw [mread_mwrite_ne _ _ hb, ih (by omega)]
      by_cases hc : 64 * u ≤ b ∧ b < 64 * u + k
      · rw [if_pos hc, if_pos (by omega)]
      · rw [if_neg hc, if_neg (by omega)]

theorem foldl_sectors (g : Nat → Byte) (b : Nat) (us : List Nat) {d : Memory} (h : Memory.wf d = true) :
    Memory.wf (us.foldl (fun d u => (List.range 64).foldl (fun d i => mwrite d (64 * u + i) (g (64 * u + i))) d) d) = true ∧
    mread (us.foldl (fun d u => (List.range 64).foldl (fun d i => mwrite d (64 * u + i) (g (64 * u + i))) d) d) b =
      if b / 64 ∈ us then g b else mread d b := by
  induction us generalizing d with
  | nil => simp [h]
  | cons u us ih =>
    have hw : Memory.wf ((List.range 64).foldl (fun d i => mwrite d (64 * u + i) (g (64 * u + i))) d) = true :=
      wf_foldl_mwrite _ _ _ h
    refine ⟨(ih hw).1, ?_⟩
    rw [List.foldl_cons, (ih hw).2, mread_sector g u b h 64 le_rfl]
    by_cases hu : b / 64 = u
    · subst hu
      by_cases hm : b / 64 ∈ us
      · simp [hm]
      · rw [if_neg hm, if_pos (by omega)]; simp
    · by_cases hm : b / 64 ∈ us
      · simp [hm]
      · rw [if_neg hm, if_neg (by omega), if_neg (by simp [hu, hm])]

theorem State.wf_text {s : State} (h : Memory.wf s.dev = true) (a n : Nat) : Memory.wf (s.text a n) = true := by
  unfold State.text
  split
  · exact h
  · exact (foldl_sectors s.devByte 0 _ h).1

/-- In a range, a byte of the text is the byte of device memory as its frame's key gives it. -/
theorem State.mread_text {s : State} (h : Memory.wf s.dev = true) {a n b : Nat} (h1 : a ≤ b) (h2 : b < a + n) :
    mread (s.text a n) b = s.devByte b := by
  unfold State.text
  split
  · rename_i he
    rw [s.devByte_of_own (s.foreign_of_noSeal (by rw [List.isEmpty_iff] at he; rw [he]; rfl))]
  · rw [(foldl_sectors s.devByte b _ h).2]
    by_cases hf : s.foreign (b / 64) = none
    · simp [hf, s.devByte_of_own hf]
    · rw [if_pos]
      simp only [List.mem_filter, mem_sectorsOf]
      exact ⟨⟨by omega, by omega, by omega⟩, Option.isSome_iff_ne_none.mpr hf⟩

/-! ### A sector that is about to be written -/

@[simp] theorem State.claim_frameKey (s : State) (u : Nat) : (s.claim u).frameKey = s.frameKey := by
  unfold State.claim; split <;> rfl
@[simp] theorem State.claim_keyGen (s : State) (u : Nat) : (s.claim u).keyGen = s.keyGen := by
  unfold State.claim; split <;> rfl
@[simp] theorem State.claim_ctxs (s : State) (u : Nat) : (s.claim u).ctxs = s.ctxs := by
  unfold State.claim; split <;> rfl
@[simp] theorem State.claim_tiles (s : State) (u : Nat) : (s.claim u).tiles = s.tiles := by
  unfold State.claim; split <;> rfl

theorem State.wf_claim {s : State} (h : Memory.wf s.dev = true) (u : Nat) : Memory.wf (s.claim u).dev = true := by
  unfold State.claim
  split
  · exact h
  · exact s.wf_text h _ _

theorem State.foreign_eq {s : State} {u k : Nat} {z : Seal} (hz : mfind s.seals (64 * u / 2 ^ 21) = some z)
    (hk : mfind s.frameKey (64 * u / 2 ^ 21) = some k) :
    s.foreign u = if mgetD z.others u z.base = s.genOf k then none else some (mgetD z.others u z.base, s.genOf k) := by
  unfold State.foreign; rw [hz, hk]

/-- A foreign sector lies in a frame that has a seal and a key. -/
theorem State.foreign_some {s : State} {u : Nat} {p : Nat × Nat} (h : s.foreign u = some p) :
    ∃ z k, mfind s.seals (64 * u / 2 ^ 21) = some z ∧ mfind s.frameKey (64 * u / 2 ^ 21) = some k ∧ p.2 = s.genOf k := by
  unfold State.foreign at h
  split at h
  · rename_i z k hz hk
    refine ⟨z, k, hz, hk, ?_⟩
    dsimp only at h
    split at h
    · cases h
    · cases h; rfl
  · cases h

/-- It then stands under the generation in force, and every other sector under the one it did. -/
theorem State.foreign_claim (s : State) (u v : Nat) : (s.claim u).foreign v = if v = u then none else s.foreign v := by
  cases hu : s.foreign u with
  | none => rw [s.claim_of_own hu]; by_cases h : v = u <;> simp [h, hu]
  | some p =>
    obtain ⟨z, k, hz, hk, hp⟩ := s.foreign_some hu
    have hs : (s.claim u).seals =
        mmodify s.seals (64 * u / 2 ^ 21) (fun z => { z with others := mput z.others u (s.genOf k) }) := by
      unfold State.claim; rw [hu, ← hp]
    have hg : ∀ k', (s.claim u).genOf k' = s.genOf k' := by intro k'; unfold State.genOf; rw [s.claim_keyGen]
    by_cases hf : 64 * v / 2 ^ 21 = 64 * u / 2 ^ 21
    · have hz' : mfind (s.claim u).seals (64 * v / 2 ^ 21) = some { z with others := mput z.others u (s.genOf k) } := by
        rw [hs, hf, mfind_mmodify_self, hz]; rfl
      have hk' : mfind (s.claim u).frameKey (64 * v / 2 ^ 21) = some k := by rw [s.claim_frameKey, hf, hk]
      rw [State.foreign_eq hz' hk', hg]
      by_cases hv : v = u
      · subst hv; simp
      · rw [if_neg hv, State.foreign_eq (hf ▸ hz) (hf ▸ hk)]
        dsimp only
        rw [mgetD_mput_ne _ _ _ hv]
    · rw [if_neg (by rintro rfl; exact hf rfl)]
      unfold State.foreign
      rw [hs, mfind_mmodify_ne _ _ hf, s.claim_frameKey]
      simp only [hg]

/-- Its bytes, and all others, read as before. -/
theorem State.devByte_claim {s : State} (h : Memory.wf s.dev = true) (u b : Nat) : (s.claim u).devByte b = s.devByte b := by
  by_cases hu : s.foreign u = none
  · rw [s.claim_of_own hu]
  · obtain ⟨⟨g, k⟩, hg⟩ := Option.ne_none_iff_exists'.mp hu
    have hd : (s.claim u).dev = s.text (64 * u) 64 := by simp [State.claim, hg]
    have hout : ∀ c, c / 64 ≠ u → mread (s.text (64 * u) 64) c = mread s.dev c := by
      intro c hc
      unfold State.text
      split
      · rfl
      · rw [(foldl_sectors s.devByte c _ h).2, sectorsOf_sector, if_neg (by simp [hg, hc])]
    by_cases hb : b / 64 = u
    · rw [(s.claim u).devByte_of_own (by rw [s.foreign_claim]; simp [hb]), hd]
      exact s.mread_text h (by omega) (by omega)
    · have hl : readLE (s.text (64 * u) 64) (b / 64 * 64) 64 = readLE s.dev (b / 64 * 64) 64 := by
        have : ∀ n a, (∀ c, a ≤ c → c < a + n → c / 64 ≠ u) →
            readLE (s.text (64 * u) 64) a n = readLE s.dev a n := by
          intro n
          induction n with
          | zero => intros; rfl
          | succ n ih =>
            intro a ha
            rw [readLE, readLE, hout a (ha a le_rfl (by omega)), ih (a + 1) (fun c h1 h2 => ha c (by omega) (by omega))]
        exact this 64 _ (fun c h1 h2 => by omega)
      unfold State.devByte
      rw [s.foreign_claim, if_neg hb, hd, hl, hout b hb]

end Sys2Proof.Machine
end

