-- ==== Sys2Proof/Laws/Ops.lean ====
section
/-! SUPPORT. What each shared operation can do, said once: faults of words, undo entries, writes in flight, landings,
taking an exception and the return from it. -/

namespace Sys2Proof.Machine

/-! ### Faults of words -/

/-- The first fault stands; a later one changes nothing. -/
theorem State.raise_cases (s : State) (code ea : Nat) :
    s.raise code ea = s ∧ s.issue.raised.isSome ∨ s.raise code ea = s.raises code ea ∧ s.issue.raised = none := by
  unfold State.raise State.raises
  split
  · rename_i r h; exact .inl ⟨rfl, by simp [h]⟩
  · rename_i h; exact .inr ⟨rfl, h⟩

theorem State.raise_eq {s : State} (h : s.issue.raised = none) (code ea : Nat) : s.raise code ea = s.raises code ea := by
  simp [State.raise, State.raises, h]

@[simp] theorem State.check_false (s : State) (code ea : Nat) (k : State → State) : s.check false code ea k = k s := rfl
@[simp] theorem State.check_true (s : State) (code ea : Nat) (k : State → State) : s.check true code ea k = s.raise code ea := rfl

/-! ### Undo entries and writes in flight -/

theorem State.setCtx_ctx_pend (s : State) (lat : Nat) (d : Dst) (mask val : Nat) :
    s.pend lat d mask val = s.setCx { s.cx with inFlight := s.cx.inFlight ++ [⟨s.cycle + lat, true, d, mask, val⟩] } := rfl

/-- With room in the log an undo entry is taken, and nothing else happens. -/
theorem State.needUndo_eq {s : State} {key : UKey} (h : s.cx.undoFits key = true) :
    s.needUndo key = if hasKey s.cx.undo key then s else s.setCx (s.cx.logged key) := by
  unfold Ctx.undoFits at h
  unfold State.needUndo Ctx.logged
  by_cases hk : hasKey s.cx.undo key = true
  · simp [hk]
  · rw [Bool.not_eq_true] at hk
    simp only [hk, Bool.false_or, decide_eq_true_eq] at h
    cases hv : key.vector <;> simp [hk, hv] at h ⊢ <;> omega

/-- A full log raises 0x105 for a scalar and 0x106 for a vector register (R279). -/
theorem State.needUndo_full {s : State} {key : UKey} (h : s.cx.undoFits key = false) :
    s.needUndo key = s.raise (if key.vector then 0x106 else 0x105) 0 := by
  unfold Ctx.undoFits at h
  simp only [Bool.or_eq_false_iff, decide_eq_false_iff_not, Nat.not_lt] at h
  unfold State.needUndo
  cases hv : key.vector <;> simp [h.1, hv] at h ⊢ <;> omega

/-- An undo entry followed by one write in flight. -/
theorem State.needUndo_pend {s : State} {key : UKey} (h : s.cx.undoFits key = true) (lat : Nat) (d : Dst) (mask val : Nat) :
    (s.needUndo key).pend lat d mask val = s.sent key [⟨s.cycle + lat, true, d, mask, val⟩] := by
  rw [State.needUndo_eq h]
  unfold State.sent Ctx.logged
  split <;> simp [State.pend]

theorem State.writeS_eq {s : State} {d : SReg} (h : s.scalarFits d = true) (lat : Nat) (v : Word) :
    s.writeS lat d v = s.scalarResult lat d v := by
  unfold State.scalarFits at h
  unfold State.writeS State.scalarResult
  split
  · rfl
  · rename_i hd
    exact State.needUndo_pend (by simpa [hd] using h) _ _ _ _

theorem State.writeQ_eq {s : State} {d : QReg} (h : s.qFits d = true) (b : Bool) :
    s.writeQ 1 d b = s.qResult d b := by
  unfold State.qFits at h
  unfold State.writeQ State.qResult
  split
  · rfl
  · rename_i hd
    exact State.needUndo_pend (by simpa [hd] using h) _ _ _ _

/-! ### What is in flight -/

/-- Writes join those in flight. -/
def State.sendAll (s : State) (ws : List PendWrite) : State :=
  s.setCx { s.cx with inFlight := s.cx.inFlight ++ ws }

theorem State.pend_eq (s : State) (lat : Nat) (d : Dst) (mask val : Nat) :
    s.pend lat d mask val = s.sendAll [⟨s.cycle + lat, true, d, mask, val⟩] := rfl

@[simp] theorem State.sendAll_cycle (s : State) (ws : List PendWrite) : (s.sendAll ws).cycle = s.cycle := rfl
@[simp] theorem State.sendAll_issue (s : State) (ws : List PendWrite) : (s.sendAll ws).issue = s.issue := rfl
@[simp] theorem State.sendAll_append (s : State) (ws vs : List PendWrite) :
    (s.sendAll ws).sendAll vs = s.sendAll (ws ++ vs) := by
  simp [State.sendAll, List.append_assoc]

/-- Sending list after list sends their concatenation. -/
theorem State.foldl_sendAll {α : Type} (f : State → α → State) (g : Nat → α → List PendWrite)
    (h : ∀ s x, f s x = s.sendAll (g s.cycle x)) (s : State) (ws : List PendWrite) (xs : List α) :
    xs.foldl f (s.sendAll ws) = s.sendAll (ws ++ xs.flatMap (g s.cycle)) := by
  induction xs generalizing ws with
  | nil => simp
  | cons x xs ih => rw [List.foldl_cons, h, State.sendAll_append, ih]; simp [List.append_assoc]

/-! ### Landings (R87, R88) -/

theorem Ctx.land_rs (x : Ctx) (w : PendWrite) (n : Nat) (hd : w.dst = .s n) (hn : n ≠ 0) :
    (x.land w).rs n = BitVec.ofNat 64 w.val := by
  simp [Ctx.land, hd, Ctx.setDst, Ctx.rs, hn]

/-! ### Taking an exception -/

/-- Where a fault goes: the task fails, or service code is entered (R271, R274). -/
theorem State.deliver_cases (s : State) (c cause ea es : Nat) (epc : PAddr) :
    (s.ctx c).svcMode = true ∧ s.deliver c cause ea es epc = s.failTask c 1 (cause % 1024) epc.toNat (s.ctx c).ecause.toNat ∨
    (s.ctx c).svcMode = false ∧ (s.ctx c).svcv = false ∧ s.deliver c cause ea es epc = s.failTask c 1 (cause % 1024) epc.toNat ea ∨
    (s.ctx c).svcMode = false ∧ (s.ctx c).svcv = true ∧
      s.deliver c cause ea es epc = s.setCtx c ((s.ctx c).enterService s.cycle cause ea es epc) := by
  unfold State.deliver
  cases h1 : (s.ctx c).svcMode <;> cases h2 : (s.ctx c).svcv <;> simp [h1, h2]

/-- A restartable fault outside service mode rolls back, any other is delivered at once (R283). -/
theorem State.takeFault_cases (s : State) (c code ea es : Nat) (post : Bool) :
    (restartable code = true ∧ post = true ∧ (s.ctx c).svcMode = false ∧
      s.takeFault c code ea es post = s.setCtx c { s.ctx c with rollback := some ⟨code, ea, es, (s.ctx c).pc⟩, wait := .none
                                                                pauseTo := none, syncWait := false }) ∨
    s.takeFault c code ea es post = s.deliver c code ea es (s.ctx c).pc := by
  unfold State.takeFault
  cases h1 : restartable code <;> cases h2 : post <;> cases h3 : (s.ctx c).svcMode <;> simp [h3]

/-! ### Held pushes -/

@[simp] theorem Ctx.releaseAll_s (x : Ctx) : x.releaseAll.s = x.s := rfl
@[simp] theorem Ctx.releaseAll_pc (x : Ctx) : x.releaseAll.pc = x.pc := rfl
@[simp] theorem Ctx.releaseAll_seq (x : Ctx) : x.releaseAll.seq = x.seq := rfl

theorem Ctx.releaseAll_held (x : Ctx) : x.releaseAll.held = [] := by
  simp [Ctx.releaseAll, Ctx.releaseWhere, Ctx.held, List.filter_map, Function.comp_def]

end Sys2Proof.Machine
end

