-- ==== Sys2Proof/Laws/PerInstr.lean ====
section
/-! SUPPORT. Facts of every instruction as syntax, one lemma for each constructor. -/

namespace Sys2Proof.Laws.SlotOrStep

/-- An instruction is a slot word or a step of the part, never both: what a slot admits (R98 to R112) names no step. -/
def Statement (i : Instr) : Prop := ∀ sl : Slot, wfIn sl i = true → wfStep i = false

theorem aadd (d a b : SReg) (w : Bool) (col : Colour) : Statement (.aadd d a b w col) := fun _ _ => rfl
theorem amin (d a b : SReg) (w u : Bool) (col : Colour) : Statement (.amin d a b w u col) := fun _ _ => rfl
theorem amax (d a b : SReg) (w u : Bool) (col : Colour) : Statement (.amax d a b w u col) := fun _ _ => rfl
theorem aand (d a b : SReg) (w : Bool) (col : Colour) : Statement (.aand d a b w col) := fun _ _ => rfl
theorem aor (d a b : SReg) (w : Bool) (col : Colour) : Statement (.aor d a b w col) := fun _ _ => rfl
theorem axor (d a b : SReg) (w : Bool) (col : Colour) : Statement (.axor d a b w col) := fun _ _ => rfl
theorem aswap (d a b : SReg) (w : Bool) (col : Colour) : Statement (.aswap d a b w col) := fun _ _ => rfl
theorem acas (d a b : SReg) (w : Bool) (col : Colour) : Statement (.acas d a b w col) := fun _ _ => rfl
theorem add (d a b : SReg) : Statement (.add d a b) := fun _ _ => rfl
theorem addi (d a : SReg) (imm : BitVec 12) : Statement (.addi d a imm) := fun _ _ => rfl
theorem amog (a k : SReg) (op : AmogOp) (w : Bool) (col : Colour) (ch : Chan) : Statement (.amog a k op w col ch) := fun _ _ => rfl
theorem and (d a b : SReg) : Statement (.and d a b) := fun _ _ => rfl
theorem andi (d a : SReg) (imm : BitVec 12) : Statement (.andi d a imm) := fun _ _ => rfl
theorem bkpt : Statement (.bkpt) := fun _ _ => rfl
theorem br (q : QReg) (qn : Bool) (disp : BitVec 20) : Statement (.br q qn disp) := fun _ _ => rfl
theorem brn (q : QReg) (qn : Bool) (disp : BitVec 20) : Statement (.brn q qn disp) := fun _ _ => rfl
theorem call (disp : BitVec 20) : Statement (.call disp) := fun _ _ => rfl
theorem clz (d a : SReg) : Statement (.clz d a) := fun _ _ => rfl
theorem ctz (d a : SReg) : Statement (.ctz d a) := fun _ _ => rfl
theorem cmp (d : QReg) (a : SReg) (b : Src) (c : Cond) : Statement (.cmp d a b c) := fun _ _ => rfl
theorem coll (a : SReg) (col : Colour) : Statement (.coll a col) := fun _ _ => rfl
theorem cpop (v : VReg) (d : SReg) : Statement (.cpop v d) := fun _ _ => rfl
theorem div (d a b : SReg) (u : Bool) : Statement (.div d a b u) := fun _ _ => rfl
theorem drain (sc : Scope) (mask : BitVec 8) : Statement (.drain sc mask) := fun _ _ => rfl
theorem endTask (status : BitVec 12) : Statement (.endTask status) := fun _ _ => rfl
theorem eret : Statement (.eret) := fun _ _ => rfl
theorem fence (mask : BitVec 8) : Statement (.fence mask) := fun _ _ => rfl
theorem fexp2 (d a : VReg) (t : ETy) (k : KSel) : Statement (.fexp2 d a t k) := fun _ _ => rfl
theorem flog2 (d a : VReg) (t : ETy) (k : KSel) : Statement (.flog2 d a t k) := fun _ _ => rfl
theorem frcp (d a : VReg) (t : ETy) (k : KSel) : Statement (.frcp d a t k) := fun _ _ => rfl
theorem frsq (d a : VReg) (t : ETy) (k : KSel) : Statement (.frsq d a t k) := fun _ _ => rfl
theorem ftanh (d a : VReg) (t : ETy) (k : KSel) : Statement (.ftanh d a t k) := fun _ _ => rfl
theorem fsig (d a : VReg) (t : ETy) (k : KSel) : Statement (.fsig d a t k) := fun _ _ => rfl
theorem fsin (d a : VReg) (t : ETy) (k : KSel) : Statement (.fsin d a t k) := fun _ _ => rfl
theorem fcos (d a : VReg) (t : ETy) (k : KSel) : Statement (.fcos d a t k) := fun _ _ => rfl
theorem gpop (v : VReg) (d : SReg) : Statement (.gpop v d) := fun _ _ => rfl
theorem gthr (v : VReg) (b : SReg) (w : Width) : Statement (.gthr v b w) := fun _ _ => rfl
theorem jmp (disp : BitVec 20) : Statement (.jmp disp) := fun _ _ => rfl
theorem jmpr (a : SReg) : Statement (.jmpr a) := fun _ _ => rfl
theorem kand (d a b : KReg) : Statement (.kand d a b) := fun _ _ => rfl
theorem kor (d a b : KReg) : Statement (.kor d a b) := fun _ _ => rfl
theorem kxor (d a b : KReg) : Statement (.kxor d a b) := fun _ _ => rfl
theorem knot (d a : KReg) : Statement (.knot d a) := fun _ _ => rfl
theorem kpopc (d : SReg) (a : KReg) : Statement (.kpopc d a) := fun _ _ => rfl
theorem kfirst (d : SReg) (a : KReg) : Statement (.kfirst d a) := fun _ _ => rfl
theorem ladd (v i : VReg) (p : SReg) (col : Colour) : Statement (.ladd v i p col) := fun _ _ => rfl
theorem ld (t : LdTy) (d b : SReg) (off : BitVec 12) : Statement (.ld t d b off) := fun _ _ => rfl
theorem limm (p : LPos) (d : SReg) (imm : BitVec 18) : Statement (.limm p d imm) := fun _ _ => rfl
theorem linit (a n : SReg) (col : Colour) : Statement (.linit a n col) := fun _ _ => rfl
theorem loop (c1 : Bool) (disp : BitVec 20) : Statement (.loop c1 disp) := fun _ _ => rfl
theorem lraw (a b n : SReg) : Statement (.lraw a b n) := fun _ _ => rfl
theorem maccd (acc : ATile) (a b : SReg) (clamp : Bool) (quarters : BitVec 4) : Statement (.maccd acc a b clamp quarters) := fun _ _ => rfl
theorem min (d a b : SReg) (u : Bool) : Statement (.min d a b u) := fun _ _ => rfl
theorem max (d a b : SReg) (u : Bool) : Statement (.max d a b u) := fun _ _ => rfl
theorem mcfg (a b : SReg) : Statement (.mcfg a b) := fun _ _ => rfl
theorem mdrn (acc : ATile) (a b : SReg) (clamp : Bool) (quarters : BitVec 4) : Statement (.mdrn acc a b clamp quarters) := fun _ _ => rfl
theorem mfc (d : SReg) (num : BitVec 12) : Statement (.mfc d num) := fun _ _ => rfl
theorem mtc (num : BitVec 12) (a : SReg) : Statement (.mtc num a) := fun _ _ => rfl
theorem mtcEvent (a : SReg) : Statement (.mtcEvent a) := fun _ _ => rfl
theorem mtcDmr (a : SReg) : Statement (.mtcDmr a) := fun _ _ => rfl
theorem mtcAshape (a : SReg) : Statement (.mtcAshape a) := fun _ _ => rfl
theorem mldw (a b : SReg) (bands : BitVec 4) : Statement (.mldw a b bands) := fun _ _ => rfl
theorem mmul (acc : ATile) (a b : SReg) (aip : Bool) (bands : BitVec 4) : Statement (.mmul acc a b aip bands) := fun _ _ => rfl
theorem mswap : Statement (.mswap) := fun _ _ => rfl
theorem mul (d a b : SReg) : Statement (.mul d a b) := fun _ _ => rfl
theorem mulh (d a b : SReg) (u : Bool) : Statement (.mulh d a b u) := fun _ _ => rfl
theorem mvec (acc : ATile) (a b : SReg) (aip : Bool) (bands : BitVec 4) : Statement (.mvec acc a b aip bands) := fun _ _ => rfl
theorem mzero (acc : ATile) (quarters : BitVec 4) : Statement (.mzero acc quarters) := fun _ _ => rfl
theorem or (d a b : SReg) : Statement (.or d a b) := fun _ _ => rfl
theorem ori (d a : SReg) (imm : BitVec 12) : Statement (.ori d a imm) := fun _ _ => rfl
theorem pause (n : BitVec 12) : Statement (.pause n) := fun _ _ => rfl
theorem pfh (a b : SReg) (kind : PfhKind) : Statement (.pfh a b kind) := fun _ _ => rfl
theorem popc (d a : SReg) : Statement (.popc d a) := fun _ _ => rfl
theorem rem (d a b : SReg) (u : Bool) : Statement (.rem d a b u) := fun _ _ => rfl
theorem ret (a : SReg) : Statement (.ret a) := fun _ _ => rfl
theorem shl (d a : SReg) (b : Src) : Statement (.shl d a b) := fun _ _ => rfl
theorem shr (d a : SReg) (b : Src) : Statement (.shr d a b) := fun _ _ => rfl
theorem sra (d a : SReg) (b : Src) : Statement (.sra d a b) := fun _ _ => rfl
theorem rotl (d a : SReg) (b : Src) : Statement (.rotl d a b) := fun _ _ => rfl
theorem sel (d a b : SReg) (qn : Bool) (q : QReg) : Statement (.sel d a b qn q) := fun _ _ => rfl
theorem st (w : Width) (d b : SReg) (off : BitVec 9) (col : Colour) : Statement (.st w d b off col) := fun _ _ => rfl
theorem sub (d a b : SReg) : Statement (.sub d a b) := fun _ _ => rfl
theorem sync (level : Fin 4) (mask : BitVec 8) : Statement (.sync level mask) := fun _ _ => rfl
theorem trap (n : BitVec 12) : Statement (.trap n) := fun _ _ => rfl
theorem vadd (d a b : VReg) (t : ETy) (k : KSel) : Statement (.vadd d a b t k) := fun _ _ => rfl
theorem vsub (d a b : VReg) (t : ETy) (k : KSel) : Statement (.vsub d a b t k) := fun _ _ => rfl
theorem vmul (d a b : VReg) (t : ETy) (k : KSel) : Statement (.vmul d a b t k) := fun _ _ => rfl
theorem vfma (d a b : VReg) (t : ETy) (k : KSel) : Statement (.vfma d a b t k) := fun _ _ => rfl
theorem vmin (d a b : VReg) (t : ETy) (k : KSel) : Statement (.vmin d a b t k) := fun _ _ => rfl
theorem vmax (d a b : VReg) (t : ETy) (k : KSel) : Statement (.vmax d a b t k) := fun _ _ => rfl
theorem vabs (d a : VReg) (t : ETy) (k : KSel) : Statement (.vabs d a t k) := fun _ _ => rfl
theorem vneg (d a : VReg) (t : ETy) (k : KSel) : Statement (.vneg d a t k) := fun _ _ => rfl
theorem vand (d a b : VReg) (t : ETy) (k : KSel) : Statement (.vand d a b t k) := fun _ _ => rfl
theorem vor (d a b : VReg) (t : ETy) (k : KSel) : Statement (.vor d a b t k) := fun _ _ => rfl
theorem vxor (d a b : VReg) (t : ETy) (k : KSel) : Statement (.vxor d a b t k) := fun _ _ => rfl
theorem vshl (d a b : VReg) (t : ETy) (k : KSel) : Statement (.vshl d a b t k) := fun _ _ => rfl
theorem vshr (d a b : VReg) (t : ETy) (k : KSel) : Statement (.vshr d a b t k) := fun _ _ => rfl
theorem vsra (d a b : VReg) (t : ETy) (k : KSel) : Statement (.vsra d a b t k) := fun _ _ => rfl
theorem vsel (d a b : VReg) (t : ETy) (k : KSel) : Statement (.vsel d a b t k) := fun _ _ => rfl
theorem vclamp (d a b : VReg) (t : ETy) (k : KSel) : Statement (.vclamp d a b t k) := fun _ _ => rfl
theorem vdot (d a b : VReg) (t : ETy) (k : KSel) : Statement (.vdot d a b t k) := fun _ _ => rfl
theorem vred (d a : VReg) (op : RedOp) (t : ETy) (k : KSel) : Statement (.vred d a op t k) := fun _ _ => rfl
theorem vscan (d a : VReg) (op : RedOp) (t : ETy) (k : KSel) : Statement (.vscan d a op t k) := fun _ _ => rfl
theorem vperm (d a b : VReg) (t : ETy) (k : KSel) : Statement (.vperm d a b t k) := fun _ _ => rfl
theorem vsplat (d : VReg) (a : SReg) (t : ETy) (k : KSel) : Statement (.vsplat d a t k) := fun _ _ => rfl
theorem vmov (d a : VReg) (t : ETy) (k : KSel) : Statement (.vmov d a t k) := fun _ _ => rfl
theorem vget (d : SReg) (a : VReg) (b : SReg) (t : ETy) (k : KSel) : Statement (.vget d a b t k) := fun _ _ => rfl
theorem vput (d : VReg) (a b : SReg) (t : ETy) (k : KSel) : Statement (.vput d a b t k) := fun _ _ => rfl
theorem vxch (d a : VReg) (dist : Fin 8) (t : ETy) (k : KSel) : Statement (.vxch d a dist t k) := fun _ _ => rfl
theorem vcvt (m : RMode) (d a : VReg) (iov : Bool) (ts : ETy) (t : ETy) (k : KSel) : Statement (.vcvt m d a iov ts t k) := fun _ _ => rfl
theorem vqnt (m : RMode) (d a : VReg) (kind : Fin 4) (atype : Fin 4) (t : ETy) (k : KSel) : Statement (.vqnt m d a kind atype t k) := fun _ _ => rfl
theorem vdqnt (d a : VReg) (kind : Fin 4) (code : ETy) (t : ETy) (k : KSel) : Statement (.vdqnt d a kind code t k) := fun _ _ => rfl
theorem vcmp (c : VCond) (d : KReg) (a b : VReg) (t : ETy) (k : KSel) : Statement (.vcmp c d a b t k) := fun _ _ => rfl
theorem vcsq (d : SReg) (a : VReg) (b : SReg) (t : ETy) (k : KSel) : Statement (.vcsq d a b t k) := fun _ _ => rfl
theorem vld (d : VReg) (b : SReg) (off : BitVec 12) : Statement (.vld d b off) := fun _ _ => rfl
theorem vldb (d : VReg) (b : SReg) (off : BitVec 12) : Statement (.vldb d b off) := fun _ _ => rfl
theorem vlds (w : Width) (d : VReg) (b : SReg) (off : BitVec 12) : Statement (.vlds w d b off) := fun _ _ => rfl
theorem vstK0 (d : VReg) (b : SReg) (off : BitVec 9) (col : Colour) : Statement (.vstK0 d b off col) := fun _ _ => rfl
theorem vstK1 (d : VReg) (b : SReg) (off : BitVec 9) (col : Colour) : Statement (.vstK1 d b off col) := fun _ _ => rfl
theorem vstK2 (d : VReg) (b : SReg) (off : BitVec 9) (col : Colour) : Statement (.vstK2 d b off col) := fun _ _ => rfl
theorem vstK3 (d : VReg) (b : SReg) (off : BitVec 9) (col : Colour) : Statement (.vstK3 d b off col) := fun _ _ => rfl
theorem vsts (w : Width) (d : VReg) (b : SReg) (off : BitVec 9) (col : Colour) : Statement (.vsts w d b off col) := fun _ _ => rfl
theorem xfer (a : SReg) (col : Colour) (ch : Chan) : Statement (.xfer a col ch) := fun _ _ => rfl
theorem xor (d a b : SReg) : Statement (.xor d a b) := fun _ _ => rfl
theorem xori (d a : SReg) (imm : BitVec 12) : Statement (.xori d a imm) := fun _ _ => rfl
theorem xptr (d : SReg) (ch : Chan) : Statement (.xptr d ch) := fun _ _ => rfl
theorem xwait (a : SReg) (ch : Chan) : Statement (.xwait a ch) := fun _ _ => rfl
theorem yield : Statement (.yield) := fun _ _ => rfl
theorem bundleIssue (tile : Nat) : Statement (.bundleIssue tile) := fun _ h => Bool.noConfusion h
theorem registerWriteLands (ctx : Nat) : Statement (.registerWriteLands ctx) := fun _ h => Bool.noConfusion h
theorem matrixResultLands (ctx : Nat) : Statement (.matrixResultLands ctx) := fun _ h => Bool.noConfusion h
theorem mldwComplete (ctx : Nat) : Statement (.mldwComplete ctx) := fun _ h => Bool.noConfusion h
theorem segmentResident (ctx : Nat) : Statement (.segmentResident ctx) := fun _ h => Bool.noConfusion h
theorem copyRecordPerform (ctx : Nat) (ch : Chan) (n : Nat) : Statement (.copyRecordPerform ctx ch n) := fun _ h => Bool.noConfusion h
theorem remoteAtomicPerform (ctx : Nat) (ch : Chan) : Statement (.remoteAtomicPerform ctx ch) := fun _ h => Bool.noConfusion h
theorem hostAtomicPerform (ctx : Nat) (ch : Chan) : Statement (.hostAtomicPerform ctx ch) := fun _ h => Bool.noConfusion h
theorem cellAddPerform (ctx : Nat) : Statement (.cellAddPerform ctx) := fun _ h => Bool.noConfusion h
theorem cellInitPerform (ctx : Nat) : Statement (.cellInitPerform ctx) := fun _ h => Bool.noConfusion h
theorem lrawPerform (ctx : Nat) : Statement (.lrawPerform ctx) := fun _ h => Bool.noConfusion h
theorem gatherComplete (ctx : Nat) : Statement (.gatherComplete ctx) := fun _ h => Bool.noConfusion h
theorem collectiveComplete (ctx : Nat) : Statement (.collectiveComplete ctx) := fun _ h => Bool.noConfusion h
theorem drainPushPerform (ctx : Nat) : Statement (.drainPushPerform ctx) := fun _ h => Bool.noConfusion h
theorem engineFaultDelivery (ctx : Nat) : Statement (.engineFaultDelivery ctx) := fun _ h => Bool.noConfusion h
theorem eventTaken (ctx : Nat) : Statement (.eventTaken ctx) := fun _ h => Bool.noConfusion h
theorem rollback (ctx : Nat) : Statement (.rollback ctx) := fun _ h => Bool.noConfusion h
theorem syncRelease (ctx : Nat) : Statement (.syncRelease ctx) := fun _ h => Bool.noConfusion h
theorem quantumExpiry (tile : Nat) : Statement (.quantumExpiry tile) := fun _ h => Bool.noConfusion h
theorem pauseEnd (ctx : Nat) : Statement (.pauseEnd ctx) := fun _ h => Bool.noConfusion h
theorem watchdogExpiry (ctx : Nat) : Statement (.watchdogExpiry ctx) := fun _ h => Bool.noConfusion h
theorem drainLimitExceeded (ctx : Nat) : Statement (.drainLimitExceeded ctx) := fun _ h => Bool.noConfusion h
theorem taskEnd (ctx : Nat) : Statement (.taskEnd ctx) := fun _ h => Bool.noConfusion h
theorem launchFailureStop (ctx : Nat) : Statement (.launchFailureStop ctx) := fun _ h => Bool.noConfusion h
theorem launchStart (l plane y0 x0 : Nat) : Statement (.launchStart l plane y0 x0) := fun _ h => Bool.noConfusion h
theorem evictionRequest (l : Nat) : Statement (.evictionRequest l) := fun _ h => Bool.noConfusion h
theorem evictionStop (ctx : Nat) : Statement (.evictionStop ctx) := fun _ h => Bool.noConfusion h
theorem evictionComplete (l : Nat) : Statement (.evictionComplete l) := fun _ h => Bool.noConfusion h
theorem resume (l plane y0 x0 : Nat) : Statement (.resume l plane y0 x0) := fun _ h => Bool.noConfusion h
theorem doorbell (fn q tail : Nat) : Statement (.doorbell fn q tail) := fun _ h => Bool.noConfusion h
theorem qreset (fn q : Nat) : Statement (.qreset fn q) := fun _ h => Bool.noConfusion h
theorem hostRegisterWrite (fn reg : Nat) (v : Word) : Statement (.hostRegisterWrite fn reg v) := fun _ h => Bool.noConfusion h
theorem nop (fn q : Nat) : Statement (.nop fn q) := fun _ h => Bool.noConfusion h
theorem launch (fn q : Nat) : Statement (.launch fn q) := fun _ h => Bool.noConfusion h
theorem signal (fn q : Nat) : Statement (.signal fn q) := fun _ h => Bool.noConfusion h
theorem barrier (fn q : Nat) : Statement (.barrier fn q) := fun _ h => Bool.noConfusion h
theorem migrate (fn q : Nat) : Statement (.migrate fn q) := fun _ h => Bool.noConfusion h
theorem migrationCopy (tenant : Nat) : Statement (.migrationCopy tenant) := fun _ h => Bool.noConfusion h
theorem migrationCommit (tenant : Nat) : Statement (.migrationCommit tenant) := fun _ h => Bool.noConfusion h
theorem evict (fn q : Nat) : Statement (.evict fn q) := fun _ h => Bool.noConfusion h
theorem timestamp (fn q : Nat) : Statement (.timestamp fn q) := fun _ h => Bool.noConfusion h
theorem release (fn q : Nat) : Statement (.release fn q) := fun _ h => Bool.noConfusion h
theorem hostReadShared (fn addr : Nat) : Statement (.hostReadShared fn addr) := fun _ h => Bool.noConfusion h
theorem hostReadOwn (fn addr : Nat) : Statement (.hostReadOwn fn addr) := fun _ h => Bool.noConfusion h
theorem hostMemWrite (fn addr : Nat) (enables : BitVec 64) (data : BitVec 512) : Statement (.hostMemWrite fn addr enables data) := fun _ h => Bool.noConfusion h
theorem backInvalidateResponse (sector : Nat) (data : BitVec 512) : Statement (.backInvalidateResponse sector data) := fun _ h => Bool.noConfusion h
theorem hostSnoop (line : Nat) (invalidate : Bool) : Statement (.hostSnoop line invalidate) := fun _ h => Bool.noConfusion h
theorem atticLineFill (line : Nat) (own : Bool) : Statement (.atticLineFill line own) := fun _ h => Bool.noConfusion h
theorem hostAtomicopCompletion (ctx : Nat) (ch : Chan) (st : Completion) : Statement (.hostAtomicopCompletion ctx ch st) := fun _ h => Bool.noConfusion h
theorem hostCompletionTimeout (ctx : Nat) (src : EngSrc) : Statement (.hostCompletionTimeout ctx src) := fun _ h => Bool.noConfusion h
theorem linkTraining (lanes : Nat) (rateMTs : Nat) : Statement (.linkTraining lanes rateMTs) := fun _ h => Bool.noConfusion h
theorem linkDown : Statement (.linkDown) := fun _ h => Bool.noConfusion h
theorem functionLevelReset (fn : Nat) : Statement (.functionLevelReset fn) := fun _ h => Bool.noConfusion h
theorem tenantReset (tenant : Nat) : Statement (.tenantReset tenant) := fun _ h => Bool.noConfusion h
theorem fwrangeWrite (lo hi : Nat) : Statement (.fwrangeWrite lo hi) := fun _ h => Bool.noConfusion h
theorem prepare : Statement (.prepare) := fun _ h => Bool.noConfusion h
theorem paused (fn : Nat) : Statement (.paused fn) := fun _ h => Bool.noConfusion h
theorem activate : Statement (.activate) := fun _ h => Bool.noConfusion h
theorem firmwareRestart : Statement (.firmwareRestart) := fun _ h => Bool.noConfusion h
theorem spdmRequest (nonce : Nat) : Statement (.spdmRequest nonce) := fun _ h => Bool.noConfusion h
theorem debugConsent (tenant tid expiry : Nat) (signatureOk : Bool) : Statement (.debugConsent tenant tid expiry signatureOk) := fun _ h => Bool.noConfusion h
theorem debugHalt (ctx : Nat) : Statement (.debugHalt ctx) := fun _ h => Bool.noConfusion h
theorem debugRegisterAccess (ctx : Nat) (write : Bool) (reg : Nat) (v : Word) : Statement (.debugRegisterAccess ctx write reg v) := fun _ h => Bool.noConfusion h
theorem debugSingleStep (ctx : Nat) : Statement (.debugSingleStep ctx) := fun _ h => Bool.noConfusion h
theorem debugResume (ctx : Nat) : Statement (.debugResume ctx) := fun _ h => Bool.noConfusion h
theorem consentExpiry (tenant tid : Nat) : Statement (.consentExpiry tenant tid) := fun _ h => Bool.noConfusion h
theorem d3hotEntry : Statement (.d3hotEntry) := fun _ h => Bool.noConfusion h
theorem powerLoss : Statement (.powerLoss) := fun _ h => Bool.noConfusion h
theorem maintenanceFrameBoundary : Statement (.maintenanceFrameBoundary) := fun _ h => Bool.noConfusion h
theorem guardBandStart : Statement (.guardBandStart) := fun _ h => Bool.noConfusion h
theorem maintenanceSlotStart : Statement (.maintenanceSlotStart) := fun _ h => Bool.noConfusion h
theorem sensorSweep (junction : Nat) (watts : Nat) : Statement (.sensorSweep junction watts) := fun _ h => Bool.noConfusion h
theorem unannouncedExtension (cycles : Nat) : Statement (.unannouncedExtension cycles) := fun _ h => Bool.noConfusion h
theorem extendedFrameAnnounce (ahead : Nat) : Statement (.extendedFrameAnnounce ahead) := fun _ h => Bool.noConfusion h
theorem spareBringIn (sp : Spare) : Statement (.spareBringIn sp) := fun _ h => Bool.noConfusion h
theorem railSettled (rail : Nat) : Statement (.railSettled rail) := fun _ h => Bool.noConfusion h
theorem cadenceChange (ctx : Nat) : Statement (.cadenceChange ctx) := fun _ h => Bool.noConfusion h
theorem tokenRefill (slice bucket : Nat) : Statement (.tokenRefill slice bucket) := fun _ h => Bool.noConfusion h
theorem slcRequestAdmit (slice plane cls sectors : Nat) : Statement (.slcRequestAdmit slice plane cls sectors) := fun _ h => Bool.noConfusion h
theorem hostRequestCompletion (ctx : Nat) (src : EngSrc) (st : Completion) : Statement (.hostRequestCompletion ctx src st) := fun _ h => Bool.noConfusion h
theorem reset : Statement (.reset) := fun _ h => Bool.noConfusion h
theorem d3hotExit : Statement (.d3hotExit) := fun _ h => Bool.noConfusion h

end Sys2Proof.Laws.SlotOrStep
end

