-- ==== Sys2Proof/Laws/Vector.lean ====
section
/-! SUPPORT. The loop over enabled clusters and active elements, said once (R84, R424): the image of a register's elements,
the writes that a vector word puts in flight, and the words that write a k register. -/

namespace Sys2Proof.Machine

/-! ### Bits -/

theorem bits_add_high (a b lo n k : Nat) (h : lo + n ≤ k) : bits (a + b * 2 ^ k) lo n = bits a lo n := by
  unfold bits
  have e : b * 2 ^ k = 2 ^ lo * (2 ^ n * (b * 2 ^ (k - lo - n))) := by
    obtain ⟨m, rfl⟩ := Nat.exists_eq_add_of_le h
    rw [show lo + n + m - lo - n = m by omega, Nat.pow_add, Nat.pow_add]
    ring
  rw [e, Nat.add_mul_div_left _ _ (Nat.two_pow_pos lo), Nat.add_mul_mod_self_left]

theorem bits_top (a b lo n : Nat) (h : a < 2 ^ lo) : bits (a + b * 2 ^ lo) lo n = b % 2 ^ n := by
  unfold bits
  rw [Nat.mul_comm, Nat.add_mul_div_left _ _ (Nat.two_pow_pos lo), Nat.div_eq_of_lt h, Nat.zero_add]

theorem bits_of_lt (a lo n : Nat) (h : a < 2 ^ lo) : bits a lo n = 0 := by
  unfold bits
  rw [Nat.div_eq_of_lt h, Nat.zero_mod]

theorem ones_lt (w : Nat) : ones w < 2 ^ w := by
  unfold ones
  have := Nat.two_pow_pos w
  omega

/-! ### The image of a register -/

/-- What an image holds after `n` elements: every active element with all its bits, nothing else. -/
theorem imageOf_spec (n w : Nat) (act : Nat → Bool) (f : Nat → Nat × Flags) :
    (imageOf n w act f).mask < 2 ^ (w * n) ∧ (imageOf n w act f).val < 2 ^ (w * n) ∧
    ∀ i < n, elem (imageOf n w act f).mask w i = (if act i then ones w else 0) ∧
      elem (imageOf n w act f).val w i = (if act i then (f i).1 % 2 ^ w else 0) := by
  unfold imageOf
  induction n with
  | zero => simp [Image.empty]
  | succ n ih =>
    rw [List.range_succ, List.foldl_append]
    simp only [List.foldl_cons, List.foldl_nil]
    generalize List.foldl (fun im i => if act i = true then im.put w i (f i) else im) Image.empty (List.range n) = im at ih ⊢
    obtain ⟨hm, hv, he⟩ := ih
    have hpow : 2 ^ (w * n) ≤ 2 ^ (w * (n + 1)) := Nat.pow_le_pow_right (by omega) (by rw [Nat.mul_succ]; omega)
    have hstep : ∀ a b : Nat, a < 2 ^ (w * n) → b < 2 ^ w → a + b * 2 ^ (w * n) < 2 ^ (w * (n + 1)) := by
      intro a b ha hb
      calc a + b * 2 ^ (w * n) < 2 ^ (w * n) + b * 2 ^ (w * n) := by omega
        _ = (b + 1) * 2 ^ (w * n) := by rw [Nat.add_mul, Nat.one_mul, Nat.add_comm]
        _ ≤ 2 ^ w * 2 ^ (w * n) := Nat.mul_le_mul_right _ hb
        _ = 2 ^ (w * (n + 1)) := by rw [← Nat.pow_add, Nat.mul_succ, Nat.add_comm]
    have hlow : ∀ i < n, w * i + w ≤ w * n := fun i hi => by
      rw [← Nat.mul_succ]; exact Nat.mul_le_mul_left w hi
    by_cases ha : act n = true
    · simp only [ha, if_true, Image.put]
      refine ⟨hstep _ _ hm (ones_lt w), hstep _ _ hv (Nat.mod_lt _ (Nat.two_pow_pos w)), fun i hi => ?_⟩
      by_cases hin : i = n
      · subst hin
        simp only [ha, if_true, elem]
        rw [bits_top _ _ _ _ hm, bits_top _ _ _ _ hv]
        exact ⟨Nat.mod_eq_of_lt (ones_lt w), Nat.mod_mod _ _⟩
      · have hlt : i < n := by omega
        simp only [elem]
        rw [bits_add_high _ _ _ _ _ (hlow i hlt), bits_add_high _ _ _ _ _ (hlow i hlt)]
        exact he i hlt
    · rw [Bool.not_eq_true] at ha
      simp only [ha, if_false, Bool.false_eq_true]
      refine ⟨Nat.lt_of_lt_of_le hm hpow, Nat.lt_of_lt_of_le hv hpow, fun i hi => ?_⟩
      by_cases hin : i = n
      · subst hin
        simp only [ha, if_false, elem, Bool.false_eq_true]
        exact ⟨bits_of_lt _ _ _ hm, bits_of_lt _ _ _ hv⟩
      · exact he i (by omega)

/-! ### The writes of a vector word -/

/-- What one cluster's image puts in flight. -/
def imageWrites (now lat : Nat) (d : VReg) (c : Nat) (im : Image) : List PendWrite :=
  (if im.mask = 0 then [] else [⟨now + lat, true, .v d.val c, im.mask, im.val⟩])
    ++ (if im.flags = 0#5 then [] else [⟨now + lat, true, .flags, 31, im.flags.toNat⟩])

/-- Nothing in flight leaves the state. -/
def State.sendSome (s : State) (ws : List PendWrite) : State := if ws = [] then s else s.sendAll ws

@[simp] theorem State.sendSome_cycle (s : State) (ws : List PendWrite) : (s.sendSome ws).cycle = s.cycle := by
  unfold State.sendSome; split <;> rfl

@[simp] theorem State.sendSome_append (s : State) (ws vs : List PendWrite) :
    (s.sendSome ws).sendSome vs = s.sendSome (ws ++ vs) := by
  unfold State.sendSome
  by_cases h1 : ws = [] <;> by_cases h2 : vs = [] <;> simp [h1, h2]

theorem State.foldl_sendSome {α : Type} (f : State → α → State) (g : Nat → α → List PendWrite)
    (h : ∀ s x, f s x = s.sendSome (g s.cycle x)) (s : State) (xs : List α) :
    xs.foldl f s = s.sendSome (xs.flatMap (g s.cycle)) := by
  have key : ∀ (xs : List α) (ws : List PendWrite), xs.foldl f (s.sendSome ws) = s.sendSome (ws ++ xs.flatMap (g s.cycle)) := by
    intro xs
    induction xs with
    | nil => intro ws; simp
    | cons x xs ih => intro ws; rw [List.foldl_cons, h, State.sendSome_append, ih]; simp [List.append_assoc]
  have := key xs []
  simpa [State.sendSome] using this

/-! ### Undo entries and writes in flight commute -/

theorem State.needUndo_cycle (s : State) (key : UKey) : (s.needUndo key).cycle = s.cycle := by
  cases h : s.cx.undoFits key with
  | true => rw [State.needUndo_eq h]; split <;> rfl
  | false =>
    rw [State.needUndo_full h]
    rcases State.raise_cases s (if key.vector then 0x106 else 0x105) 0 with ⟨h, _⟩ | ⟨h, _⟩ <;> rw [h] <;> rfl

theorem Ctx.logged_new {x : Ctx} {key : UKey} (h : ¬ hasKey x.undo key = true) :
    x.logged key = { x with undo := x.undo ++ [⟨key, none⟩] } := if_neg h

@[simp] theorem State.sendSome_undo (s : State) (ws : List PendWrite) : (s.sendSome ws).cx.undo = s.cx.undo := by
  unfold State.sendSome; split <;> simp [State.sendAll]

theorem State.needUndo_sendSome {s : State} {key : UKey} (h : s.cx.undoFits key = true) (ws : List PendWrite) :
    (s.sendSome ws).needUndo key = (s.needUndo key).sendSome ws := by
  have h' : (s.sendSome ws).cx.undoFits key = true := by simpa [Ctx.undoFits] using h
  rw [State.needUndo_eq h, State.needUndo_eq h']
  unfold State.sendSome State.sendAll Ctx.logged
  by_cases h1 : hasKey s.cx.undo key = true <;> by_cases h2 : ws = [] <;> simp [h1, h2]

/-- An entry that is there is not taken twice. -/
theorem State.needUndo_needUndo {s : State} {key : UKey} (h : s.cx.undoFits key = true) :
    (s.needUndo key).needUndo key = s.needUndo key := by
  rw [State.needUndo_eq h]
  by_cases hk : hasKey s.cx.undo key = true
  · simp [hk, State.needUndo_eq h]
  · have : hasKey (s.setCx (s.cx.logged key)).cx.undo key = true := by
      rw [State.cx_setCx, Ctx.logged_new hk]; simp [hasKey]
    rw [if_neg hk]
    unfold State.needUndo
    simp only [this, if_true]

/-- A scalar entry takes no room from the vector entries, nor the other way round. -/
theorem State.undoFits_needUndo {s : State} {key k2 : UKey} (h : s.cx.undoFits key = true) (h2 : s.cx.undoFits k2 = true)
    (hne : key.vector ≠ k2.vector) : (s.needUndo key).cx.undoFits k2 = true := by
  rw [State.needUndo_eq h]
  split
  · exact h2
  · rename_i hk
    have hkv : (key.vector == k2.vector) = false := by simpa using hne
    have hk2 : (key == k2) = false := by
      rw [beq_eq_false_iff_ne]; rintro rfl; exact hne rfl
    rw [State.cx_setCx, Ctx.logged_new hk]
    unfold Ctx.undoFits hasKey at h2 ⊢
    simpa only [List.any_append, List.any_cons, List.any_nil, hk2, Bool.or_false, List.filter_append, List.filter_cons, hkv,
      Bool.false_eq_true, if_false, List.filter_nil, List.append_nil] using h2

/-- The undo entry of VSTAT, when some flag is set. -/
def State.flagged (s : State) (b : Bool) : State := if b then s.needUndo (.cr 0x024) else s

theorem State.flagged_cycle (s : State) (b : Bool) : (s.flagged b).cycle = s.cycle := by
  unfold State.flagged; split
  · exact State.needUndo_cycle s _
  · rfl

theorem State.writeImage_eq {s : State} {b : Bool} {ws : List PendWrite} {lat : Nat} {d : VReg} {c : Nat} {im : Image}
    (h : (b || im.flags != 0#5) = true → s.cx.undoFits (.cr 0x024) = true) :
    ((s.flagged b).sendSome ws).writeImage lat d c im =
      (s.flagged (b || im.flags != 0#5)).sendSome (ws ++ imageWrites s.cycle lat d c im) := by
  have hc : ((s.flagged b).sendSome ws).cycle = s.cycle := by rw [State.sendSome_cycle, State.flagged_cycle]
  have hv : (if im.mask = 0 then (s.flagged b).sendSome ws else ((s.flagged b).sendSome ws).writeV lat d c im.mask im.val)
      = (s.flagged b).sendSome (ws ++ if im.mask = 0 then [] else [⟨s.cycle + lat, true, .v d.val c, im.mask, im.val⟩]) := by
    by_cases h1 : im.mask = 0
    · simp [h1]
    · simp only [h1, if_false]
      rw [← State.sendSome_append, State.writeV, State.pend_eq, hc]
      simp [State.sendSome]
  unfold State.writeImage State.writeFlags
  rw [hv]
  by_cases h2 : im.flags = 0#5
  · simp [h2, imageWrites]
  · have hf := h (by simp [h2])
    have hu : (s.flagged b).needUndo (.cr 0x024) = s.needUndo (.cr 0x024) := by
      cases b
      · rfl
      · exact State.needUndo_needUndo hf
    have hg : (s.flagged b).cx.undoFits (.cr 0x024) = true := by
      cases b
      · exact hf
      · unfold State.flagged
        rw [if_pos rfl, State.needUndo_eq hf]
        split
        · exact hf
        · rename_i hk; rw [State.cx_setCx, Ctx.logged_new hk]; simp [Ctx.undoFits, hasKey]
    rw [if_neg h2, State.needUndo_sendSome hg, hu, State.pend_eq, State.sendSome_cycle, State.needUndo_cycle]
    have : ∀ (u : State) (vs : List PendWrite) (w : PendWrite), (u.sendSome vs).sendAll [w] = u.sendSome (vs ++ [w]) := by
      intro u vs w; rw [← State.sendSome_append]; simp [State.sendSome]
    rw [this]
    simp [State.flagged, imageWrites, h2, List.append_assoc]

/-- The loop over clusters: the entry of VSTAT if any image sets a flag, and every image's writes. -/
theorem State.writeImages_eq {s : State} {lat : Nat} {d : VReg} {img : Nat → Image} (cs : List Nat) :
    ∀ {b : Bool} {ws : List PendWrite}, ((b || cs.any (fun c => (img c).flags != 0#5)) = true → s.cx.undoFits (.cr 0x024) = true) →
    cs.foldl (fun s' c => s'.writeImage lat d c (img c)) ((s.flagged b).sendSome ws) =
      (s.flagged (b || cs.any (fun c => (img c).flags != 0#5))).sendSome
        (ws ++ cs.flatMap (fun c => imageWrites s.cycle lat d c (img c))) := by
  induction cs with
  | nil => intro b ws _; simp
  | cons c cs ih =>
    intro b ws h
    rw [List.foldl_cons, State.writeImage_eq (fun hb => h (by
      rw [List.any_cons]
      rcases Bool.or_eq_true _ _ ▸ hb with hb | hb <;> simp [hb])), ih (fun hb => h (by
      rw [List.any_cons, ← Bool.or_assoc]; exact hb))]
    simp [List.append_assoc, Bool.or_assoc]

/-! ### What a vector word leaves -/

/-- What is in flight and the undo log may change again. -/
theorem State.onlyFlight_sendSome {s t : State} {vs : List PendWrite} (h : s.onlyFlight t) (hf : t.cx.inFlight = s.cx.inFlight ++ vs)
    (ws : List PendWrite) : s.onlyFlight (t.sendSome ws) ∧ (t.sendSome ws).cx.inFlight = s.cx.inFlight ++ (vs ++ ws) := by
  unfold State.sendSome
  by_cases hw : ws = []
  · simp [hw, h, hf]
  · simp only [hw, if_false, State.sendAll, State.cx_setCx, hf, List.append_assoc, and_true]
    right
    rcases h with h | h
    · subst h; simp
    · rw [h]; simp

theorem State.onlyFlight_needUndo {s t : State} (h : s.onlyFlight t) {key : UKey} (hf : t.cx.undoFits key = true) :
    s.onlyFlight (t.needUndo key) ∧ (t.needUndo key).cx.inFlight = t.cx.inFlight := by
  rw [State.needUndo_eq hf]
  by_cases hk : hasKey t.cx.undo key = true
  · rw [if_pos hk]; exact ⟨h, rfl⟩
  · rw [if_neg hk, Ctx.logged_new hk, State.cx_setCx]
    refine ⟨.inr ?_, rfl⟩
    rw [State.cx_setCx]
    rcases h with h | h
    · subst h; rfl
    · rw [h]; simp

/-- The loop of R424: every enabled cluster's image is in flight, and nothing else has changed. -/
theorem State.vecImages_flies {s : State} {d : VReg} (h : s.vecFits d = true) (lat : Nat) (img : Nat → Image)
    (hfl : s.clusters.any (fun c => (img c).flags != 0#5) = true → s.cx.undoFits (.cr 0x024) = true) :
    s.flies (s.vecImages lat d img) lat (fun c => .v d.val c)
      (s.clusters.flatMap (fun c => imageWrites s.cycle lat d c (img c))) := by
  have hw : ∀ w ∈ s.clusters.flatMap (fun c => imageWrites s.cycle lat d c (img c)),
      w.due = s.cycle + lat ∧ w.post = true ∧ (w.dst = .flags ∨ ∃ c ∈ s.clusters, w.dst = .v d.val c) := by
    intro w hw
    obtain ⟨c, hc, hw⟩ := List.mem_flatMap.mp hw
    unfold imageWrites at hw
    rcases List.mem_append.mp hw with hw | hw
    · split at hw
      · simp at hw
      · simp only [List.mem_singleton] at hw; subst hw; exact ⟨rfl, rfl, .inr ⟨c, hc, rfl⟩⟩
    · split at hw
      · simp at hw
      · simp only [List.mem_singleton] at hw; subst hw; exact ⟨rfl, rfl, .inl rfl⟩
  unfold State.vecImages
  cases hcl : s.clusters with
  | nil => exact ⟨.inl rfl, by simp, by simp⟩
  | cons c cs =>
    have hf : s.cx.undoFits (.v d.val) = true := by simpa [State.vecFits, hcl] using h
    rw [hcl] at hw hfl
    have hfold := State.writeImages_eq (s := s.needUndo (.v d.val)) (lat := lat) (d := d) (img := img) (c :: cs)
      (b := false) (ws := []) (fun hb => State.undoFits_needUndo hf (hfl (by simpa using hb)) (by simp [UKey.vector]))
    rw [State.needUndo_cycle] at hfold
    simp only [State.flagged, State.sendSome, Bool.false_eq_true, if_false, if_true, List.nil_append] at hfold
    obtain ⟨h1, h2⟩ := State.onlyFlight_needUndo (s := s) (.inl rfl) hf
    have h3 : s.onlyFlight ((s.needUndo (.v d.val)).flagged ((c :: cs).any fun c => (img c).flags != 0#5)) ∧
        ((s.needUndo (.v d.val)).flagged ((c :: cs).any fun c => (img c).flags != 0#5)).cx.inFlight = s.cx.inFlight ++ [] := by
      unfold State.flagged
      split
      · rename_i hb
        obtain ⟨h4, h5⟩ := State.onlyFlight_needUndo h1 (State.undoFits_needUndo hf (hfl hb) (by simp [UKey.vector]))
        exact ⟨h4, by rw [h5, h2]; simp⟩
      · exact ⟨h1, by rw [h2]; simp⟩
    obtain ⟨h4, h5⟩ := State.onlyFlight_sendSome h3.1 h3.2
      ((c :: cs).flatMap (fun c => imageWrites s.cycle lat d c (img c)))
    have e : (c :: cs).foldl (fun s' c => s'.writeImage lat d c (img c)) (s.needUndo (.v d.val)) =
        ((s.needUndo (.v d.val)).flagged ((c :: cs).any fun c => (img c).flags != 0#5)).sendSome
          ((c :: cs).flatMap (fun c => imageWrites s.cycle lat d c (img c))) := by
      simpa [State.flagged, State.sendSome] using hfold
    simp only [e]
    exact ⟨h4, by simpa using h5, by simpa [hcl] using hw⟩

/-! ### Flags -/

theorem flagsIn_append (xs ys : List PendWrite) : flagsIn (xs ++ ys) = flagsIn xs ||| flagsIn ys := by
  induction xs with
  | nil => simp [flagsIn]
  | cons x xs ih => simp only [flagsIn, List.cons_append, List.foldr_cons] at ih ⊢; rw [ih, BitVec.or_assoc]

theorem flagsIn_imageWrites (now lat : Nat) (d : VReg) (c : Nat) (im : Image) : flagsIn (imageWrites now lat d c im) = im.flags := by
  unfold imageWrites
  rw [flagsIn_append]
  by_cases h1 : im.mask = 0 <;> by_cases h2 : im.flags = 0#5 <;> simp [h1, h2, flagsIn]

/-- The flags of the images of the clusters together. -/
theorem flagsIn_images (now lat : Nat) (d : VReg) (img : Nat → Image) (cs : List Nat) :
    flagsIn (cs.flatMap (fun c => imageWrites now lat d c (img c))) = cs.foldr (fun c g => (img c).flags ||| g) 0#5 := by
  induction cs with
  | nil => rfl
  | cons c cs ih => rw [List.flatMap_cons, flagsIn_append, flagsIn_imageWrites, ih]; rfl

theorem foldr_or_start {α : Type} (f : α → Flags) (xs : List α) (g : Flags) :
    xs.foldr (fun x h => f x ||| h) g = xs.foldr (fun x h => f x ||| h) 0#5 ||| g := by
  induction xs with
  | nil => simp
  | cons x xs ih => simp only [List.foldr_cons]; rw [ih, BitVec.or_assoc]

theorem or_eq_zero {a b : Flags} : a ||| b = 0#5 ↔ a = 0#5 ∧ b = 0#5 := by revert a b; decide

theorem foldr_or_eq_zero {α : Type} (f : α → Flags) (xs : List α) :
    xs.foldr (fun x h => f x ||| h) 0#5 = 0#5 ↔ ∀ x ∈ xs, f x = 0#5 := by
  induction xs with
  | nil => simp
  | cons x xs ih => simp only [List.foldr_cons, or_eq_zero, ih, List.mem_cons, forall_eq_or_imp]

/-- The flags of an image are those of its active elements. -/
theorem imageOf_flags (n w : Nat) (act : Nat → Bool) (f : Nat → Nat × Flags) :
    (imageOf n w act f).flags = ((List.range n).filter act).foldr (fun i h => (f i).2 ||| h) 0#5 := by
  unfold imageOf
  induction n with
  | zero => rfl
  | succ n ih =>
    rw [List.range_succ, List.foldl_append, List.filter_append, List.foldr_append]
    simp only [List.foldl_cons, List.foldl_nil]
    by_cases ha : act n = true
    · rw [if_pos ha, List.filter_cons_of_pos ha, List.filter_nil]
      simp only [List.foldr_cons, List.foldr_nil]
      rw [foldr_or_start (fun i => (f i).2), ← ih]
      simp [Image.put]
    · rw [if_neg ha, List.filter_cons_of_neg ha, ih]
      simp

theorem State.flagsOf_eq (s : State) (n : Nat) (act : Nat → Nat → Bool) (f : Nat → Nat → Nat × Flags) :
    s.flagsOf n act f =
      s.clusters.foldr (fun c g => ((List.range n).filter (act c)).foldr (fun i h => (f c i).2 ||| h) 0#5 ||| g) 0#5 := by
  unfold State.flagsOf
  congr 1
  funext c g
  exact foldr_or_start (fun i => (f c i).2) _ g

/-- With room for VSTAT when the flags `g` of all clusters are set, each cluster's flags find it. -/
theorem State.flagFits_any {s : State} {fl : Nat → Flags} (h : s.flagFits (s.clusters.foldr (fun c g => fl c ||| g) 0#5) = true)
    (ha : s.clusters.any (fun c => fl c != 0#5) = true) : s.cx.undoFits (.cr 0x024) = true := by
  unfold State.flagFits at h
  rcases Bool.or_eq_true _ _ ▸ h with h | h
  · rw [beq_iff_eq, foldr_or_eq_zero] at h
    obtain ⟨c, hc, hn⟩ := List.any_eq_true.mp ha
    simp [h c hc] at hn
  · exact h

/-- A word that writes elements writes the active ones of every enabled cluster and no other, and sets their flags; elements
at or above `n` keep their value. -/
theorem State.vecImages_done {s : State} {d : VReg} (h : s.vecFits d = true) (lat n m w : Nat) (hw : 0 < w) (hnm : n ≤ m)
    (act : Nat → Nat → Bool) (f : Nat → Nat → Nat × Flags)
    (hfl : s.flagFits (s.flagsOf m (fun c i => act c i && decide (i < n)) f) = true) :
    s.vecDone (s.vecImages lat d (fun c => imageOf n w (act c) (f c))) lat d w m (fun c i => act c i && decide (i < n)) f := by
  have hr : ∀ c, (List.range m).filter (fun i => act c i && decide (i < n)) = (List.range n).filter (act c) := by
    intro c
    obtain ⟨k, rfl⟩ := Nat.exists_eq_add_of_le hnm
    rw [List.range_add, List.filter_append]
    have h1 : (List.range n).filter (fun i => act c i && decide (i < n)) = (List.range n).filter (act c) :=
      List.filter_congr (fun i hi => by simp [List.mem_range.mp hi])
    have h2 : ((List.range k).map (n + ·)).filter (fun i => act c i && decide (i < n)) = [] := by simp
    rw [h1, h2, List.append_nil]
  have hfo : s.flagsOf m (fun c i => act c i && decide (i < n)) f =
      s.clusters.foldr (fun c g => (imageOf n w (act c) (f c)).flags ||| g) 0#5 := by
    rw [State.flagsOf_eq]
    simp only [hr, imageOf_flags]
  rw [hfo] at hfl
  refine ⟨_, State.vecImages_flies h lat _ (State.flagFits_any hfl), by rw [flagsIn_images, hfo], fun c hc i hi => ⟨fun ha => ?_, fun ha p hp hd => ?_⟩⟩
  · simp only [Bool.and_eq_true, decide_eq_true_eq] at ha
    obtain ⟨_, _, he⟩ := imageOf_spec n w (act c) (f c)
    obtain ⟨he1, he2⟩ := he i ha.2
    have hne : (imageOf n w (act c) (f c)).mask ≠ 0 := by
      intro h0
      rw [h0, ha.1, if_pos rfl] at he1
      have : ones w ≠ 0 := by
        unfold ones
        have : 2 ^ 1 ≤ 2 ^ w := Nat.pow_le_pow_right (by omega) hw
        omega
      exact this (by rw [← he1]; simp [elem, bits])
    refine ⟨⟨s.cycle + lat, true, .v d.val c, (imageOf n w (act c) (f c)).mask, (imageOf n w (act c) (f c)).val⟩,
      List.mem_flatMap.mpr ⟨c, hc, List.mem_append_left _ (by simp [hne])⟩, rfl, ?_, ?_⟩
    · exact (by simpa [ha.1] using he1)
    · exact (by simpa [ha.1] using he2)
  · obtain ⟨c', hc', hp⟩ := List.mem_flatMap.mp hp
    unfold imageWrites at hp
    rcases List.mem_append.mp hp with hp | hp
    · split at hp
      · simp at hp
      · simp only [List.mem_singleton] at hp
        subst hp
        simp only [Dst.v.injEq, true_and] at hd
        subst hd
        obtain ⟨hlt, _, he⟩ := imageOf_spec n w (act c') (f c')
        by_cases hin : i < n
        · have ha' : act c' i = false := by simpa [hin] using ha
          simpa [ha'] using (he i hin).1
        · exact bits_of_lt _ _ _ (Nat.lt_of_lt_of_le hlt (Nat.pow_le_pow_right (by omega) (Nat.mul_le_mul_left w (by omega))))
    · split at hp
      · simp at hp
      · simp only [List.mem_singleton] at hp
        subst hp
        simp at hd

theorem ETy.cw_pos (t : ETy) : 0 < t.cw := by cases t <;> decide

/-- The element loop of R424. -/
theorem State.vecLoop_done {s : State} {d : VReg} (h : s.vecFits d = true) (lat : Nat) (t : ETy) (k : KSel)
    (f : Nat → Nat → Nat × Flags) (hfl : s.flagFits (s.flagsOf (eltCount t) (s.acts t k) f) = true) :
    s.vecDone (s.vecLoop lat d t k f) lat d t.cw (eltCount t) (s.acts t k) f := by
  have e : s.flagsOf (eltCount t) (fun c i => s.acts t k c i && decide (i < eltCount t)) f = s.flagsOf (eltCount t) (s.acts t k) f := by
    unfold State.flagsOf
    congr 1; funext c g; congr 1
    exact List.filter_congr (fun i hi => by simp [List.mem_range.mp hi])
  obtain ⟨ws, h1, h2, h3⟩ := State.vecImages_done h lat (eltCount t) (eltCount t) t.cw (ETy.cw_pos t) (Nat.le_refl _)
    (s.acts t k) f (by rw [e]; exact hfl)
  refine ⟨ws, h1, by rw [h2, e], fun c hc i hi => ?_⟩
  have := h3 c hc i hi
  simpa [hi] using this

end Sys2Proof.Machine
end

