-- ==== Sys2Proof/Laws/Words.lean ====
section
/-! SUPPORT. A slot word inside a bundle has the meaning that the dispatcher gives it. -/

namespace Sys2Proof.Machine

/-- What a word does in its bundle is what `exec` does (R81): for every word that some slot admits. -/
theorem wordMeaning_eq_exec (i : Instr) (sl : Slot) (s : State) (h : wfIn sl i = true) : wordMeaning i s = exec i s := by
  cases i <;> first | exact Bool.noConfusion h | rfl

end Sys2Proof.Machine
end

