-- ==== Sys2Proof/Tests/Slice0.lean ====
section
/-! SUPPORT. The model's own tests: terms that the checks refuse, words written out from R81 and the maps of R98 to R112,
single steps whose results are worked out from the rules, and for each statement states that meet its hypotheses. -/

namespace Sys2Proof.Tests

open Sys2Proof.Machine

set_option maxRecDepth 20000
set_option Elab.async false

/-! ### Helpers -/

/-- An outcome is a next state that passes a check. -/
def ends (o : Host.Outcome State Fault Refusal) (f : State → Bool) : Bool :=
  match o with
  | .next t => f t
  | _ => false

/-- A step of a machine whose next bundle holds one word. -/
def after (w : Nat) (f : State → Bool) : Bool := ends (step (State.reset.withFetchWord 32 w)) f

/-- A live task without a program. -/
def task : Ctx := fetchCtx [] 0

/-- A task with values in scalar registers. -/
def regs (rs : AMap Word) : Ctx := { task with s := rs }

/-- A bundle of a task in hand on tile 0, clusters 0 and 7 enabled. -/
def hand (x : Ctx) (sp : Memory := []) : State :=
  { State.reset with
    ctxs := [(0, x)], launches := [(0, fetchLaunch)], tiles := [(0, { Tile.reset with sp := sp })]
    issue := { Issue.none with cmask := 0x81#8, len := 12, sp0 := sp } }

/-- A table entry for a page of 64 KiB at an address: route, type, frame base, under key 1, valid, with every permission. -/
def page (va route type pa : Nat) : BitVec 128 :=
  BitVec.ofNat 128 (1 + 2 ^ 9 + route * 2 ^ 12 + type * 2 ^ 14 + 7 * 2 ^ 16 + 16 * 2 ^ 19 + va / 2 ^ 16 * 2 ^ 24 + pa / 2 ^ 16 * 2 ^ 64)

/-- A task with device pages at 0x10000 (plain) and 0x20000 (cells), and host pages at 0x30000 (host-io) and 0x40000. -/
def paged (rs : AMap Word) : Ctx :=
  { regs rs with
    tenant := 1
    window := [(0, page 0x10000 0 0 0x200000), (1, page 0x20000 0 1 0x210000), (2, page 0x30000 1 0 0x50000),
               (3, page 0x40000 2 0 0x60000)] }

/-- The part with key 1 bound to function 1 and frame 1 assigned to it. -/
def keyed (s : State) : State := { s with keys := [(1, 1)], frameKey := [(1, 1)] }

/-! ### Well-formedness: what the checks refuse (R98 to R112) -/

theorem test_wf_refuses_slot : wfIn .sb (.trap 5#12) = false ∧ wfIn .mb (.vcsq 1 2 3 .f32 0) = false ∧
    wfIn .vc (.vfma 1 2 3 .f32 0) = false := by decide
theorem test_wf_refuses_type : wfIn .vc (.vadd 1 2 3 .f32 0) = false ∧ wfIn .f (.fexp2 1 2 .s32 0) = false ∧
    wfIn .va (.vdot 1 2 3 .s32 0) = false ∧ wfIn .va (.vand 1 2 3 .f16 0) = false ∧ wfIn .va (.vshl 1 2 3 .s4 0) = false := by decide
theorem test_wf_refuses_operation : wfIn .va (.vred 1 2 .and .f32 0) = false ∧ wfIn .va (.vcmp .un 1 2 3 .s32 0) = false ∧
    wfIn .va (.vred 1 2 .add .e4m3 0) = false := by decide
theorem test_wf_refuses_block : wfIn .vc (.vqnt .rne 1 2 2 0 .s8 0) = false ∧ wfIn .vc (.vqnt .rne 1 2 0 1 .s8 0) = false ∧
    wfIn .vc (.vdqnt 1 2 1 .s8 .f32 0) = false := by decide
theorem test_wf_refuses_values : wfIn .sa (.trap 128#12) = false ∧ wfIn .sa (.pause 0#12) = false ∧
    wfIn .sa (.pause 2048#12) = false ∧ wfIn .sa (.endTask 2048#12) = false ∧ wfIn .sa (.limm .p54 1 1024#18) = false := by decide
theorem test_wf_refuses_registers : wfIn .ma (.vlds .w8 1 63 0#12) = false ∧ wfIn .ma (.vsts .w8 1 63 0#9 0) = false ∧
    wfIn .sa (.mtc 0x016#12 1) = false := by decide
theorem test_wf_refuses_names : WellFormed (.bundleIssue 144) = false ∧ WellFormed (.eventTaken 576) = false ∧
    WellFormed (.doorbell 97 0 0) = false ∧ WellFormed (.qreset 1 3) = false ∧ WellFormed (.launchStart 0 4 0 0) = false ∧
    WellFormed (.railSettled 48) = false := by decide
theorem test_wf_refuses_counts : WellFormed (.unannouncedExtension 65) = false ∧ WellFormed (.extendedFrameAnnounce 4095) = false ∧
    WellFormed (.tokenRefill 32 0) = false ∧ WellFormed (.slcRequestAdmit 0 0 0 3) = false := by decide
theorem test_wf_admits : WellFormed (.trap 127#12) = true ∧ WellFormed (.limm .p54 1 1023#18) = true ∧
    WellFormed (.vlds .w8 1 62 0#12) = true ∧ WellFormed (.railSettled 47) = true := by decide

/-! ### Words written out field by field (R81; R464 gives the word of its XORI) -/

theorem test_decode_xori : decodeWord .sb 0x23145FFF = .ok (.xori 5 5 0xFFF#12) := by decide
theorem test_decode_scalar : decodeWord .sa 0b00000010_111111_000000_000001_000000 = .ok (.sub 63 0 1) ∧
    decodeWord .sa 0b00001100_000001_000010_111111_1_00000 = .ok (.sra 1 2 (.imm 63)) ∧
    decodeWord .sb 0b00010100_000001_000010_000011_00_1_111 = .ok (.sel 1 2 3 true 7) ∧
    decodeWord .sa 0b00100110_000001_000000000000000001 = .ok (.limm .p36 1 1#18) := by decide
theorem test_decode_control : decodeWord .sa 0b01000000_111_0_10000000000000000000 = .ok (.br 7 false 0x80000#20) ∧
    decodeWord .sa 0b01000110_00_1_0_00000000000000000011 = .ok (.loop true 3#20) ∧
    decodeWord .sa 0b01010001_000000000000000000000000 = .ok .eret ∧
    decodeWord .sa 0b01010010_000001_000000_000000110011 = .ok (.mfc 1 0x033#12) := by decide
theorem test_decode_vector : decodeWord .vb 0b00000100_000001_000010_000011_0001_11 = .ok (.vfma 1 2 3 .f16 3) ∧
    decodeWord .vc 0b00010011_000001_000010_000_101_1000_00 = .ok (.vred 1 2 .xor .s32 0) ∧
    decodeWord .va 0b00011010_000001_000010_000_111_0111_00 = .ok (.vxch 1 2 7 .e2m1 0) ∧
    decodeWord .vc 0b00101011_000001_000010_01_11_00_1110_00 = .ok (.vqnt .rup 1 2 1 3 .s4 0) ∧
    decodeWord .vb 0b00111110_000001_000010_000011_0010_01 = .ok (.vcmp .un 1 2 3 .bf16 1) := by decide +kernel
theorem test_decode_scratchpad : decodeWord .mb 0b00001011_000001_000010_100000000_111 = .ok (.st .w64 1 2 0x100#9 7) ∧
    decodeWord .ma 0b00010100_000001_000010_000000001_000 = .ok (.vstK3 1 2 1#9 0) ∧
    decodeWord .ma 0b00110111_000001_000010_000011_1_0_0_010 = .ok (.acas 1 2 3 true 2) := by decide
theorem test_decode_matrix : decodeWord .x 0b00000110_1111_000001_000010_0_1_1000_00 = .ok (.mdrn 15 1 2 true 8#4) ∧
    decodeWord .x 0b00000001_0000_000001_000010_00000000 = .ok (.mcfg 1 2) := by decide
theorem test_decode_engines : decodeWord .c 0b00001011_000001_000010_000_10_1_011_100 = .ok (.amog 1 2 .cas true 3 4) ∧
    decodeWord .c 0b00001111_000000_000000_0_100_11111111 = .ok (.drain .system 0xFF#8) ∧
    decodeWord .c 0b00001100_000001_000010_0000000000_10 = .ok (.pfh 1 2 .rel) := by decide
theorem test_decode_function : decodeWord .f 0b00001000_000001_000010_000000_0001_00 = .ok (.fcos 1 2 .f16 0) := by decide
theorem test_decode_refuses : decodeWord .vb 0b01000000_000001_000010_000011_000000 = .error .unassigned ∧
    decodeWord .c 0b00001100_000001_000010_0000000000_11 = .error .limit ∧
    decodeWord .x 0b00000010_0001_000001_000010_00000000 = .error .rz := by decide
/-- The worked header of the scope's file: PRES 0x001, STAMP 4, CHK 0xA5. -/
theorem test_header : (headerOf 0xA500004000000001).pres = 1#10 ∧ (headerOf 0xA500004000000001).stamp = 4 ∧
    (headerOf 0xA500400000000001).stamp = 1024 := by decide
theorem test_round_trip : encodeWord? (.xori 5 5 0xFFF#12) = some 0x23145FFF := by decide

/-! ### Single steps: results worked out from the rules -/

/-- R345: the sum wraps. -/
theorem test_add_wraps : ends (exec (.add 3 1 2) (hand (regs [(1, BitVec.allOnes 64), (2, 2#64)])))
    (fun t => t.cx.inFlight == [⟨1, true, .s 3, ones 64, 1⟩]) = true := by decide +kernel
/-- R363: the quotient is truncated toward zero. -/
theorem test_div_truncates : ends (exec (.div 3 1 2 false) (hand (regs [(1, BitVec.ofInt 64 (-7)), (2, 2#64)])))
    (fun t => t.cx.inFlight == [⟨20, true, .s 3, ones 64, 2 ^ 64 - 3⟩]) = true := by decide +kernel
/-- R406: the high half of a signed product. -/
theorem test_mulh_signed : ends (exec (.mulh 3 1 2 false) (hand (regs [(1, BitVec.allOnes 64), (2, 2#64)])))
    (fun t => t.cx.inFlight == [⟨3, true, .s 3, ones 64, 2 ^ 64 - 1⟩]) = true := by decide +kernel
/-- R416: the count is taken from bits [5:0]. -/
theorem test_shl_count : ends (exec (.shl 3 1 (.reg 2)) (hand (regs [(1, 1#64), (2, 65#64)])))
    (fun t => t.cx.inFlight == [⟨1, true, .s 3, ones 64, 2⟩]) = true := by decide +kernel
/-- R387: position 54 takes ten bits and keeps the others. -/
theorem test_limm_top : ends (exec (.limm .p54 1 1023#18) (hand (regs [(1, 5#64)])))
    (fun t => t.cx.inFlight == [⟨1, true, .s 1, ones 64, 0xFFC0000000000005⟩]) = true := by decide +kernel
/-- R83: s0 discards its write. -/
theorem test_s0_discards : exec (.add 0 1 2) (hand (regs [(1, 1#64)])) = .next (hand (regs [(1, 1#64)])) := rfl
/-- R379, R93: a jump is taken after two bundles. -/
theorem test_jmp_pends : ends (exec (.jmp 0xFFFFF#20) (hand task)) (fun t => t.cx.pend == [(0xFFFFFFFC#32, 2)] && t.cx.pc == 12#32)
    = true := by decide +kernel
/-- R430: s8 elements wrap; R84: clusters 0 and 7 alone are enabled. -/
theorem test_vadd_wraps : ends (exec (.vadd 1 2 3 .s8 0) (hand { task with v := [(16, 0x7F#2048), (24, 0x01#2048)] }))
    (fun t => t.cx.inFlight.length == 2 && (t.cx.inFlight.getD 0 ⟨0, true, .flags, 0, 0⟩).val % 65536 == 0x0080) = true := by
  decide +kernel
/-- R138: one rounding of a product of f32. -/
theorem test_vmul_rounds : ends (exec (.vmul 1 2 3 .f32 0) (hand { task with v := [(16, 0x40400000#2048), (24, 0x3F000000#2048)] }))
    (fun t => (t.cx.inFlight.getD 0 ⟨0, true, .flags, 0, 0⟩).val % 2 ^ 32 == 0x3FC00000) = true := by decide +kernel
/-- R385: a load sign-extends. -/
theorem test_ld_extends : ends (exec (.ld .s8 3 1 0#12) (hand (regs [(1, 64#64)]) [(64, 0x80#8)]))
    (fun t => t.cx.inFlight == [⟨5, true, .s 3, ones 64, 0xFFFFFFFFFFFFFF80⟩]) = true := by decide +kernel
/-- R418: a store leaves its bytes in order. -/
theorem test_st_bytes : ends (exec (.st .w16 2 1 0#9 0) (hand (regs [(1, 64#64), (2, 0x1234#64)])))
    (fun t => t.tl.sp == [(64, 0x34#8), (65, 0x12#8)]) = true := by decide +kernel
/-- R342: ACAS writes when it finds its comparand and returns the old word. -/
theorem test_acas : ends (exec (.acas 3 1 2 false 0) (hand (regs [(1, 64#64), (2, 9#64), (3, 5#64)]) [(64, 5#8)]))
    (fun t => t.tl.sp == [(64, 9#8)] && t.cx.inFlight == [⟨5, true, .s 3, ones 64, 5⟩]) = true := by decide +kernel
/-- R426, R271: TRAP enters service code. -/
theorem test_trap : ends (exec (.trap 5#12) (hand { task with segtab := 1#49 }))
    (fun t => t.cx.svcMode && t.cx.ecause == 0x385#12 && t.cx.epc == 12#32) = true := by decide +kernel
/-- A whole step: ADD s3, s1, s2 by its word. -/
theorem test_step_add : after 0b00000001_000011_000001_000010_000000 (fun t => (t.ctx 0).pc == 12#32) = true := by decide +kernel
/-- A word of zeros raises 0x010; without service code the task fails. -/
theorem test_step_zero_word : after 0 (fun t => (t.ctx 0).life == .failed) = true := by decide +kernel

/-! ### States that meet the hypotheses of the statements: scalar and control words -/

def fullLog : Ctx := { task with undo := (List.range 64).map (fun n => ⟨.s n, none⟩) }
def fullVec : Ctx := { task with undo := (List.range 32).map (fun n => ⟨.v n, none⟩) }

theorem wit_scalarFits : (hand task).scalarFits 0 = true ∧ (hand task).scalarFits 63 = true ∧ (hand fullLog).scalarFits 5 = true ∧
    (hand task).qFits 0 = true ∧ (hand task).qFits 7 = true := by decide +kernel
theorem wit_scalarQuotients : (hand (regs [(1, 7#64)])).scalarFits 3 = true ∧ (hand (regs [(1, 7#64)])).rs 0 = 0#64 ∧
    (hand (regs [(1, 7#64)])).rs 1 ≠ 0#64 := by decide +kernel
theorem wit_scalarCounts : (hand (regs [(1, 1#64)])).rs 1 ≠ 0#64 ∧ (hand (regs [(1, 1#64)])).rs 0 = 0#64 := by decide +kernel
theorem wit_controlReads : (hand task).creg 0 0x033 = some 0#64 ∧ (hand task).creg 0 0x000 = some 0#64 ∧
    (hand task).creg 0 0x009 = none ∧ (hand task).creg 0 0x034 = none ∧ (hand task).issue.raised = none := by decide +kernel
theorem wit_controlWrites : (hand task).issue.raised = none ∧ (hand task).cx.svcMode = false ∧
    (hand { task with svcMode := true }).cx.svcMode = true ∧ (hand task).cx.undoFits (.cr 0x020) = true ∧
    (hand task).cx.undoFits (.cr 0x024) = true ∧ (hand task).cx.undoFits (.cr 0x005) = true ∧
    (hand task).cx.undoFits (.cr 0x006) = true ∧ (hand (regs [(1, 16#64)])).rs 1 = 16#64 ∧
    (hand (regs [(1, 15#64)])).rs 1 = 15#64 := by decide +kernel
theorem wit_branches : ((hand task).rq 0 ^^ false) = true ∧ ((hand task).rq 0 ^^ true) = false ∧ task.pend = [] := by decide +kernel
theorem wit_registerJumps : (hand (regs [(1, 0xFFFFFFFC#64)])).rs 1 = 0xFFFFFFFC#64 ∧ (hand (regs [(1, 2#64)])).rs 1 = 2#64 ∧
    (hand (regs [(1, 0x100000000#64)])).rs 1 = 0x100000000#64 := by decide +kernel
theorem wit_callAndLoop : (hand task).cx.undoFits (.s 63) = true ∧ (hand task).cx.undoFits (.cr 0x020) = true ∧
    (hand task).cx.undoFits (.cr 0x021) = true ∧ task.locate 12 = .at' 12 0x20000 ∧ task.locate 20 = .at' 20 0x20000 := by
  decide +kernel
theorem wit_trap : (127#12).toNat ≤ 127 ∧ (hand task).cx.svcMode = false ∧ (hand task).cx.isLive = true ∧
    (hand task).cx.svcv = false ∧ (hand { task with segtab := 1#49 }).cx.svcv = true ∧
    (mfind (hand task).launches (hand task).cx.launch).isSome = true := by decide +kernel
theorem wit_eret : (hand { task with svcMode := true }).cx.svcMode = true ∧ edlyOk 0#8 = true ∧ edlyOk 0x29#8 = true ∧
    edlyOk 0x30#8 = false ∧ ((hand task).cx.strict && (hand task).cx.eretLacksF) = false := by decide +kernel
/-- A strict task in service mode, before a bundle without F. -/
theorem wit_eretLacksF : let x : Ctx := { task with
      region := 0x40000#19, svcMode := true
      imem := writeBytes [] 0 (packBundle (headerVal ⟨0#10, false, false, false, false, 0#8, 0, 0⟩ 0) []) }
    x.svcMode = true ∧ edlyOk x.edly = true ∧ x.strict = true ∧ (match x.wellFormedAt x.epc with
      | some h => !h.f
      | none => false) = true := by decide +kernel
theorem wit_pendingBranch : pendLegal [(4#32, 1), (8#32, 2)] = true ∧ pendLegal [] = true := by decide
theorem wit_taskWords : (hand task).cx.strictNow = false ∧ (hand { task with region := 0x40000#19 }).cx.strict = true ∧
    (hand task).debugged (hand task).cx = false ∧
    ({ hand { task with dbg := true } with consents := [⟨1, 0, 5⟩] } : State).debugged { task with dbg := true } = true := by
  decide +kernel
theorem wit_undoFull : (hand fullLog).issue.raised = none ∧ ({ hand task with ctxs := [(0, { fullLog with undo := fullLog.undo.drop 0 })] } : State).scalarFits 0 = true ∧
    (hand { task with undo := (List.range 64).map (fun n => ⟨.cr n, none⟩) }).scalarFits 1 = false ∧
    (hand fullVec).vecFits 40 = false := by decide +kernel
/-- Logs with no entry left: of truth, control and mask registers, and of s registers other than those that a word writes. -/
def fullScalars : Ctx := { task with undo := (List.range 64).map (fun n => ⟨.cr (n + 0x100), none⟩) }
theorem wit_undoFullForms :
    (let x := fullScalars
     let s := hand { x with s := [(1, 64#64), (2, 15#64)] }
     s.issue.raised = none ∧ x.svcMode = false ∧ s.scalarFits 3 = false ∧ s.qFits 1 = false ∧ x.undoFits (.s 63) = false ∧
     x.undoFits (.cr 0x020) = false ∧ x.undoFits (.cr 0x021) = false ∧ x.undoFits (.cr 0x006) = false ∧
     x.undoFits (.cr 0x005) = false ∧ x.undoFits (.cr 0x024) = false ∧ (s.rs 2).toNat % 16 ≠ 0 ∧
     (s.creg 0 0x033).isSome = true ∧ s.clusters ≠ [] ∧ (s.issue.cmask.getLsbD 0 && s.acts .f32 0 0 0) = true ∧
     s.loadOk (.ld .s64 3 1 0#12) true false = true ∧ s.rowsFit [(64, 0#8)] = true ∧
     s.accessOk [((64 : Int), 8)] true true
       ((rowsOfRanges [(64, 8)]).any (fun r => s.issue.mbBanks.contains (bankOf r) || s.readSoon (bankOf r)))
       (eccRead s.issue.bad0 [(64 * (64 / 64), 64)]) = true ∧ s.vecFits 1 = true ∧ s.maskFits 1 = true) ∧
    (let x : Ctx := { fullVec with gathers := [⟨1, true, 4, [], some [1], none, 0, .idle⟩], colls := [] }
     let s := hand { x with s := [(1, 256#64), (2, 4#64)] }
     s.vecFits 40 = false ∧ x.undoFits (.v 40) = false ∧ s.maskFits 1 = false ∧
     s.loadOk (.vld 40 1 0#12) true false = true ∧ s.loadOk (.vldb 40 1 0#12) true false = true ∧
     s.loadOk (.vlds .w32 40 1 0#12) ((s.touched (.vlds .w32 40 1 0#12)).all (fun r => decide (r.1 % 4 = 0)))
       (bankRule ((s.touched (.vlds .w32 40 1 0#12)).map (fun r => (r.1.toNat, r.2)))) = true ∧
     (s.issue.cmask.getLsbD 0 && s.acts .f32 0 0 0) = true ∧ ∃ g rest, x.gathers = g :: rest ∧ g.results.isSome = true) := by
  refine ⟨by decide +kernel, by decide +kernel, by decide +kernel, by decide +kernel, by decide +kernel, by decide +kernel,
    by decide +kernel, by decide +kernel, ⟨1, true, 4, [], some [1], none, 0, .idle⟩, [], rfl, rfl⟩
/-- A word that sets a flag: with room a write of the flags is in flight, without it the word raises. -/
theorem wit_flagged : let x : Ctx := { fullScalars with v := [(16, 0x7F800001#2048)] }
    let s := hand x
    s.cx.undoFits (.cr 0x024) = false ∧ ends (exec (.vadd 1 2 3 .f32 0) (s.setCx { s.cx with undo := [], inFlight := [] }))
      (fun u => u.cx.inFlight.any (fun w => w.dst == .flags)) = true ∧
    ends (exec (.vcmp .gt 1 2 3 .f32 0) (s.setCx { s.cx with undo := [], inFlight := [] }))
      (fun u => u.cx.inFlight.any (fun w => w.dst == .flags)) = true := by decide +kernel
theorem wit_localTraps : (hand (regs [(1, 0x300000#64)])).cx.spBad ((hand (regs [(1, 0x300000#64)])).touched (.ld .s8 2 1 0#12))
      = some 0x300000 ∧
    task.spBad [(0x2FFFF9, 4)] = none ∧ (0x2FFFF9 : Int) % 4 ≠ 0 ∧ task.spOk 0x300000 8 = false ∧ task.spOk 0x2FFFF4 8 = true ∧
    0x2FFFF4 % 8 ≠ 0 := by decide +kernel
/-- Each fault of a local word stands alone somewhere: bank, error, gate, flags. -/
theorem wit_trapKinds :
    (let s := hand (regs [(1, 0x1000#64), (2, 0x1000#64)])
     let i := Instr.vlds .w64 1 1 0#12
     s.issue.raised = none ∧ s.cx.spBad (s.touched i) = none ∧ (s.touched i).all (fun r => decide (r.1 % 8 = 0)) = true ∧
     bankRule ((s.touched i).map (fun r => (r.1.toNat, r.2))) = true) ∧
    (let u := hand task
     let s : State := { u with issue := { u.issue with bad0 := [8] } }
     s.cx.spBad [(64, 8)] = none ∧ s.collides false (rowsOfRanges [(64, 8)]) = false ∧ eccRead s.issue.bad0 [(64, 8)] = true ∧
     (s.issue.bad0.filter (fun w => [(64, 0#8)].any (fun q => q.1 / 8 == w) &&
       !(List.range 8).all (fun j => [64].contains (8 * w + j)))) = [8] ∧ eccRead [8] [(64, 1)] = true) ∧
    -- Of two ranges the second stands off its alignment, or meets the error.
    ([((0x1000 : Int), 4), (0x1002, 4)].find? (fun r => decide (r.1 % 4 ≠ 0))).map (·.1) = some 0x1002 ∧
    [((0x1000 : Int), 4), (0x1008, 4)].find? (fun r => eccRead [0x201] [(r.1.toNat, r.2)]) = some (0x1008, 4) ∧
    (let s := hand { task with rows := (List.range 128).map (fun n => ⟨n + 1, 1, 0⟩) }
     bytesAt 0x4000 8 5 ≠ [] ∧ s.accessOk [(0x4000, 8)] false true false false = true ∧ s.rowsFit (bytesAt 0x4000 8 5) = false) ∧
    (let s := hand { fullLog with v := [(16, 0x7F800001#2048)] }
     s.vecFits 1 = true ∧ s.flagFits fINV = false ∧ (decodeFloat F32 (s.elt .f32 2 0 0)).isSnan = true) ∧
    (hand fullVec).maskFits 1 = false := by decide +kernel
theorem wit_matrixTraps : ({ hand task with tiles := [(0, { Tile.reset with owner := some 1 })] } : State).xOwned = true ∧
    (hand task).xOwned = false ∧ (hand { task with accCnt := 1#5 }).cx.accCnt.toNat ≤ (1 : ATile).val ∧
    (hand task).cx.pair = none := by decide +kernel

/-! ### States that meet the hypotheses: vector and scratchpad words -/

theorem wit_vecFits : (hand task).vecFits 0 = true ∧ (hand task).vecFits 63 = true ∧ (hand fullVec).vecFits 31 = true ∧
    (hand fullLog).vecFits 63 = true := by decide +kernel
theorem wit_vectorElements : (hand (regs [(2, 64#64), (3, 448#64)])).scalarFits 5 = true ∧
    ((hand (regs [(3, 448#64)])).issue.cmask.getLsbD (448 / 64) && (hand (regs [(3, 448#64)])).acts .f32 0 7 0) = true ∧
    (hand task).cx.undoFits (.v 1) = true ∧
    ((hand task).issue.cmask.getLsbD (64 / 64) && (hand task).acts .f32 0 1 0) = false := by decide +kernel
/-- Floats with a NaN among them, and without: -0 is the least of the two zeros. -/
theorem wit_floatReductions : (0x7F800001 : Nat) < 2 ^ 32 ∧ (decodeFloat F32 0x7F800001).isNan = true ∧
    ([0x80000000, 0].all fun x => !(decodeFloat F32 x).isNan) = true := by decide +kernel
/-- R457: -0 is less than +0, and a signalling NaN gives the canonical NaN with INV. -/
theorem test_floatReductions : reduceAll .min .f32 0 [0, 0x80000000] = (0x80000000, 0#5) ∧
    reduceAll .max .f32 0 [0x80000000, 0] = (0, 0#5) ∧ reduceAll .max .f16 0 [0x7C01, 0x3C00] = (0x7E00, fINV) := by decide +kernel
theorem wit_vectorTypes : ETy.s8.isInt = true ∧ ETy.s64.isInt = true ∧ ETy.bf16.isF = true ∧ 8 ≤ ETy.s8.cw ∧ ETy.e2m1.cw = 4 := by
  decide
theorem wit_specialValues : decodeFloat F32 0x7FC00000 = .nan false ∧ decodeFloat F32 0xFF800000 = .inf true ∧
    decodeFloat F32 0x7F800000 = .inf false ∧ decodeFloat F32 0x80000000 = .fin true 0 (-149) ∧
    decodeFloat F32 0x80000001 = .fin true 1 (-149) := by decide +kernel
theorem wit_masks : (hand task).maskFits 0 = true ∧ (hand task).maskFits 7 = true ∧ (hand task).clusters = [0, 7] ∧
    (hand task).scalarFits 1 = true ∧ ({ hand task with issue := .none } : State).clusters = [] := by decide +kernel
theorem wit_loads : let s := hand (regs [(1, 0x2FFF00#64), (2, 0#64), (3, 0x2FF800#64), (4, 4#64)])
    s.loadOk (.ld .s64 5 1 31#12) true false = true ∧ (0x2FFFF8 : Int) % 8 = 0 ∧ s.scalarFits 5 = true ∧ s.vecFits 5 = true ∧
    s.loadOk (.vld 5 3 0#12) true false = true ∧ s.loadOk (.vldb 5 1 3#12) true false = true ∧
    s.loadOk (.vlds .w32 5 3 0#12) ((s.touched (.vlds .w32 5 3 0#12)).all (fun r => decide (r.1 % 4 = 0)))
      (bankRule ((s.touched (.vlds .w32 5 3 0#12)).map (fun r => (r.1.toNat, r.2)))) = true := by decide +kernel
theorem wit_stores : let s := hand { task with s := [(1, 0x2FFF00#64), (3, 0x2FF800#64), (4, 4#64)], v := [(0, 1#2048)], k := [(8, 3#256)] }
    Memory.wf s.tl.sp = true ∧ s.storeOk (.st .w64 2 1 31#9 0) true false (bytesAt 0x2FFFF8 8 0) = true ∧
    s.storeOk (.vstK0 0 3 0#9 0) true false (s.vstBytes 0 0 0x2FF800) = true ∧
    s.storeOk (.vstK1 0 3 0#9 0) true false (s.vstBytes 1 0 0x2FF800) = true ∧
    s.storeOk (.vstK2 0 3 0#9 0) true false (s.vstBytes 2 0 0x2FF800) = true ∧
    s.storeOk (.vstK3 0 3 0#9 0) true false (s.vstBytes 3 0 0x2FF800) = true := by decide +kernel
theorem wit_stridedStore : let s := hand { task with s := [(3, 0x2FF800#64), (4, 4#64)] }
    s.storeOk (.vsts .w32 0 3 0#9 0) ((s.touched (.vsts .w32 0 3 0#9 0)).all (fun r => decide (r.1 % 4 = 0)))
      (bankRule ((s.touched (.vsts .w32 0 3 0#9 0)).map (fun r => (r.1.toNat, r.2)))) (s.vstsBytes 0 3 0 .w32) = true := by
  decide +kernel
theorem wit_atomics : let s := hand (regs [(1, 0x2FFFF8#64), (2, 9#64)])
    Memory.wf s.tl.sp = true ∧ s.scalarFits 3 = true ∧
    s.accessOk [(0x2FFFF8, 8)] true true
      ((rowsOfRanges [(0x2FFFF8, 8)]).any (fun r => s.issue.mbBanks.contains (bankOf r) || s.readSoon (bankOf r)))
      (eccRead s.issue.bad0 [(64 * (0x2FFFF8 / 64), 64)]) = true ∧ s.rowsFit (bytesAt 0x2FFFF8 8 9) = true := by decide +kernel
theorem wit_squeeze : let s := hand { task with s := [(1, 64#64)], v := [(8, 0x0201#2048)] } [(64, 0x80#8), (65, 1#8)]
    Memory.wf s.tl.sp = true ∧ s.scalarFits 3 = true ∧ s.rowsFit (s.vcsqBytes 1 64 .s8 0) = true ∧
    s.accessOk (s.vcsqRanges 1 64 .s8 0) true true
      ((rowsOfRanges ((s.vcsqRanges 1 64 .s8 0).map (fun r => (r.1.toNat, r.2)))).any (fun r => s.issue.mbBanks.contains (bankOf r))
        || s.readSoon (bankOf (64 / 64)))
      (eccRead s.issue.bad0 [(64, 8)]) = true ∧ readLE s.issue.sp0 64 8 = 0x180 ∧
    (s.squeeze 1 .s8 0).isEmpty = false := by decide +kernel

/-- Numbers that the clauses of rounding, sums and blocks name. -/
theorem wit_numbers :
    (ffmt .f16 = some (fmtOf .f16) ∧ (roundGrid (fmtOf .f16) .rne 0 false 3 0).1 ≤ maxMag (fmtOf .f16) ∧
      maxMag (fmtOf .f16) < (roundGrid (fmtOf .f16) .rne 0 false 1 20).1) ∧
    (decodeFloat F32 0x3F800000 = .fin false 0x800000 (-23) ∧
      intLo .s8 ≤ 5 ∧ (5 : Int) ≤ intHi .s8 ∧ intHi .s8 < 200 ∧ (.s8 : ETy).isInt = true) ∧
    ([XVal.nan false].any XVal.isNan = true ∧ [XVal.zero].any XVal.isNan = false ∧ [XVal.inf true][0]? = some (XVal.inf true) ∧
      XVal.fin false 3 0 ∈ [XVal.fin false 3 0, XVal.fin true 1 0] ∧ xlt (.fin false 3 0) (.fin false 1 0) = false) ∧
    (let ps := [(xmul (.fin false 1 0) (.fin true 1 0)).1]
     ps = [.fin true 1 0] ∧ (xmul (.inf false) (.inf false)).1 = .inf false ∧ (xmul (.inf false) (.inf true)).1 = .inf true ∧
     (xmul .zero (.inf true)).1.isNan = true) ∧
    ([XVal.fin true 1 0][0]? = some (XVal.fin true 1 0) ∧ [(none : Option XVal)][0]? = some none) := by decide +kernel
theorem wit_flags : (hand task).flagFits (fINX ||| fOVF) = true ∧ (hand fullLog).flagFits 0#5 = true := by decide +kernel

/-! ### States that meet the hypotheses: the matrix engine -/

def matrixTask : Ctx := { regs [(1, 0x1000#64), (2, 128#64), (3, 17#64), (4, 32#64)] with pair := some (2, 2) }

theorem wit_matrixSetup : let s := hand matrixTask
    s.xOwned = false ∧ (s.rs 3).toNat < 18 ∧ s.cx.undoFits .pair = true ∧ s.cx.undoFits .sel = true ∧
    s.cx.matOps.any (fun o => o.kind == .mldw) = false ∧ (s.cx.shadowPlane.sparse && !s.cx.shadowPlane.routesOk) = false ∧
    s.cx.effBands 0#4 = [0, 1, 2, 3] ∧ (s.rs 1).toNat % 64 = 0 ∧ (s.rs 0).toNat % 64 = 0 ∧
    s.cx.spBad (s.mldwOp 2 0x1000 0 [0, 1, 2, 3]).loadRanges = none ∧ s.xReserved (s.mldwOp 2 0x1000 0 [0, 1, 2, 3]) = none := by
  decide +kernel
theorem wit_matrixStreams : let s := hand matrixTask
    (15 : ATile).val < s.cx.accCnt.toNat ∧ s.cx.undoFits (.cr 0x024) = true ∧ badPair s.issue.prof 2 2 = false ∧ (s.rs 2).toNat ≤ 128 ∧ 1 ≤ (s.rs 2).toNat ∧
    s.cx.activePlane.fmt = none ∧ s.cx.spBad (s.mmulOp 15 2 2 0x1000 128 true [0]).actRows = none ∧
    s.xReserved (s.mmulOp 15 2 2 0x1000 128 true [0]) = none := by decide +kernel
theorem wit_matrixVector : let s := hand { matrixTask with pair := some (8, 8) }
    s.xOwned = false ∧ badPair s.issue.prof 8 8 = false ∧ s.cx.effBands 0#4 ≠ [] ∧ mvecBad (s.rs 4).toNat 8 = false ∧
    s.cx.spBad (s.mvecOp 15 8 8 0x1000 32 true [0]).vecRanges = none ∧ s.xReserved (s.mvecOp 15 8 8 0x1000 32 true [0]) = none := by
  decide +kernel
/-- A drain of 32 f32 rows to v0 and on, and one to the scratchpad. -/
theorem wit_drains : let s := hand matrixTask
    mdrnBad 0x1000 0x100 32 = false ∧ drnToReg 0x100 = true ∧ drnRegs 0x100 32 = 8 ∧ mdrnBad 0x1000 0 128 = false ∧ drnToReg 0 = false ∧
    s.cx.undo.countP (fun e => e.key.vector)
      + (List.range (drnRegs 0x100 32)).countP (fun i => !hasKey s.cx.undo (.v (drnReg 0x100 + i))) ≤ 32 ∧
    s.cx.drains.length < 4 ∧ s.cx.gateUse < 128 ∧
    s.cx.spBad ((List.range 32).map (fun i => (((0x1000 + i * drnStride 0 : Nat) : Int), drnRowBytes 0))) = none := by decide +kernel
theorem wit_adds : engIsSp (2 ^ 63 + 0x1000) = true ∧ engIsSp 0x20000 = false ∧
    task.spBad ((quarterRows 0#4).map (fun r => ((0x1000 : Int) + r * 512, 512))) = none ∧
    (0x20000 % 32 = 0 ∧ (512 : Int) % 32 = 0) ∧
    pickFault ((quarterRows 1#4).flatMap (fun r => (paged []).accdFaults (4096 * r) ((0x20000 : Int) + r * 512))) = none := by
  decide +kernel


/-! ### States that meet the hypotheses: pushes, hints, waits, pops -/

/-- A record of one row of `n` bytes between two spaces, with the words that follow its first one. -/
def rec0 (a kind ssp dsp n : Nat) (ws : List Nat) : Memory :=
  ((List.range ws.length).zip ws).foldl (fun m p => writeLE m (a + 8 + 8 * p.1) 8 p.2)
    (writeLE [] a 8 (2 ^ 60 * kind + 2 ^ 58 * ssp + 2 ^ 56 * dsp + n))

/-- A held copy record of channel 0 with a sequence number. -/
def copyOf (n : Nat) : CopyRec :=
  { seq := n, held := true, post := true, colour := 0, ch := 0, kind := 0, sloc := .sp, dloc := .sp, src := 0x1000, dst := 0x2000
    n0 := 8, n1 := 1, n2 := 1, ss1 := 0, ss2 := 0, ds1 := 0, ds2 := 0, conv := false, op := 0, wide := true, uns := false
    nores := false, opnd := 5, cmp := 7, snap := [(0x1001, 3#8)], bad := none, moved := 0, counted := 0, host := .idle, pushed := 0 }

/-- The same record released. -/
def sent : CopyRec := { copyOf 1 with held := false }

theorem wit_copyPush :
    let sp := rec0 0x2FFFC0 0 0 0 8 [0x1000, 0x2000]
    let s := hand (regs [(1, 0x2FFFC0#64)]) sp
    let x := s.cx
    let r := rawRec s.issue.sp0 0x2FFFC0
    x.spOk 0x2FFFC0 64 = true ∧ 0x2FFFC0 % 64 = 0 ∧ s.tl.eccRead [(0x2FFFC0, 64)] = false ∧ x.outstanding 7 < 32 ∧
    r.bad x = false ∧ x.spBadRange (if r.conv x then r.spRangesConv else r.spRanges) = none ∧ pickFault (r.faults x) = none ∧
    x.gateUse < 128 ∧ r.ssp = 0 ∧ r.kind ≤ 2 := by decide +kernel
theorem wit_copyPushRefused :
    let s := hand { regs [(1, 0x1000#64)] with recs := (List.range 32).map copyOf } (rec0 0x1000 6 0 0 8 [])
    s.issue.raised = none ∧ 32 ≤ s.cx.outstanding 0 ∧ (rawRec s.issue.sp0 0x1000).bad s.cx = true ∧ s.cx.outstanding 1 < 32 := by
  decide +kernel
theorem wit_copyPushRemote :
    let s := hand (regs [(1, 0x1000#64)]) (rec0 0x1000 3 0 2 8 [0x1000, 0x2000, 2 ^ 32 + 1])
    let r := rawRec s.issue.sp0 0x1000
    r.bad s.cx = false ∧ r.dsp = 2 ∧ (s.cx.resolveTile s.issue.ctx r.tileWord).isSome = true ∧
    s.cx.spBadRange (if r.conv s.cx then r.spRangesConv else r.spRanges) = none := by decide +kernel
theorem wit_atomicPush :
    let x := paged [(1, 0x1FFF8#64), (61, 5#64), (62, 0x2FFFF8#64), (63, 7#64)]
    pickFault (x.rangeFaults .atomic 0x1FFF8 1 0 1) = none ∧ 61 + 2 ≤ 63 ∧ 0x1FFF8 % 8 = 0 ∧ (x.rs 62).toNat % 8 = 0 ∧
    (x.rs 62).toNat < 2 ^ 22 ∧ (x.rs 62).toNat + 8 ≤ 0x300000 ∧ x.spOk (x.rs 62).toNat 8 = true ∧ x.outstanding 0 < 32 ∧
    x.gateUse < 128 := by decide +kernel
/-- Eight words of a v register whose indices are all null but those of cluster 0. -/
def nulls : Ctx := { task with v := ((List.range 7).map (fun c => (c + 1, BitVec.allOnes 2048))) }

theorem wit_gatherPush :
    let s := hand { nulls with s := [(1, BitVec.ofNat 64 (2 ^ 63 + 0x1000))] }
    let hit := ((s.indices 0 64).filter (fun i => i != 0xFFFFFFFF)).map (fun i => engSp (2 ^ 63 + 0x1000) + i * 4)
    s.cx.gathers.length < 8 ∧ engIsSp (s.rs 1).toNat = true ∧ (s.rs 1).toNat % 4 = 0 ∧
    s.cx.spBadRange (((engSp (2 ^ 63 + 0x1000) : Int), 0) :: hit.map (fun (p : Nat) => ((p : Int), 4))) = none := by decide +kernel
theorem wit_gatherPushVirtual :
    let x := paged []
    engIsSp 0x10000 = false ∧ 0x10000 % 8 = 0 ∧ pickFault ((List.range 1).flatMap (fun p =>
      x.rangeFaults .gather ((0x1FFF8 + p : Nat) : Int) 8 p 9)) = none := by decide +kernel
theorem wit_cellPushes :
    let x := paged [(1, 0x20000#64), (2, 2048#64), (3, 0x1000#64)]
    pickFault ([(0, 0x20000), (1, 0x2FFE0)].flatMap (fun q => x.rangeFaults .cellAdd (q.2 : Nat) 32 q.1 64)) = none ∧
    x.gateUse < 128 ∧ pickFault (x.rangeFaults .cellInit 0x20000 (32 * 2048) 0 32) = none ∧ 0x20000 % 32 = 0 ∧
    x.spBadRange [(0x1000, 0), (0x1000, 32 * 2048)] = none ∧ pickFault (x.rangeFaults .cellRaw 0x20000 (32 * 2048) 0 32) = none ∧
    (x.rs 2).toNat ≠ 0 ∧ (x.rs 2).toNat ≤ 2 ^ 27 ∧ (x.rs 0).toNat = 0 ∧ x.spBadRange [(0x1000, 0), (0x1000, 32 * 0)] = none := by
  decide +kernel
/-- A sum of one s32 element. -/
def collSp : Memory := rec0 0x1000 0 0 0 1 [0x2000, 0x3000, 0]
def collOf (n : Nat) (st : CollState) : CollRec := ⟨n, true, 0, 0, 8, 0, 1, 0, 0, 0x2000, 0x3000, n, 5, [0], none, st⟩

theorem wit_collectivePush :
    let sp := writeLE collSp 0x1000 8 (8 * 2 ^ 56 + 1)
    let s := hand (regs [(1, 0x1000#64)]) sp
    let d := collDesc s.issue.sp0 0x1000
    0x1000 % 32 = 0 ∧ s.cx.spOk 0x1000 32 = true ∧ s.cx.spLeaves d.src 4 = false ∧ s.cx.spLeaves d.dst 4 = false ∧
    collBytes d.ty d.count = 4 ∧ s.tl.eccRead [(0x1000, 32)] = false ∧ d.bad s.cx = false ∧ s.cx.colls.length < 4 ∧
    4 ≤ ({ s.cx with colls := (List.range 4).map (collOf · .pending) } : Ctx).colls.length ∧ s.issue.raised = none := by decide +kernel
/-- Descriptors that COLL refuses: misaligned, a source and a destination outside an assignment, an operation that is none. -/
theorem wit_collectiveTraps :
    let s := hand { regs [(1, 0x1000#64)] with spHi := 0x3001 } (writeLE collSp 0x1000 8 (8 * 2 ^ 56 + 1))
    let t := hand { regs [(1, 0x1000#64)] with spHi := 0x2001 } (writeLE collSp 0x1000 8 (8 * 2 ^ 56 + 1))
    let u := hand (regs [(1, 0x1000#64)]) (writeLE collSp 0x1000 8 (15 * 2 ^ 60 + 1))
    let d := fun (s : State) => collDesc s.issue.sp0 0x1000
    33 % 32 ≠ 0 ∧ s.cx.spOk 0x1000 32 = true ∧ s.cx.spLeaves (d s).src 4 = false ∧ s.cx.spLeaves (d s).dst 4 = true ∧
    t.cx.spLeaves (d t).src 4 = true ∧ (d u).bad u.cx = true ∧ u.cx.spLeaves (d u).src (collBytes (d u).ty (d u).count) = false ∧
    u.cx.spLeaves (d u).dst (collBytes (d u).ty (d u).count) = false ∧ eccRead u.issue.bad0 [(0x1000, 32)] = false ∧
    u.issue.raised = none := by decide +kernel
theorem wit_hints :
    let s := keyed (hand (paged [(1, 0x10000#64), (2, 64#64)]))
    let ps := s.cx.parts 0x10000 64
    ps.any (hintDrops .pf) = false ∧ ps.any (hintDrops .rel) = false ∧ hintSectors ps = [⟨0x8000, 1, 0⟩] ∧
    s.overQuota 1 (hintSectors ps) = true ∧ hintLines (s.cx.parts 0x40000 64) = [0x1800] ∧ s.ticketOf 0 (some s.cx.seq) = none ∧
    ({ s with tenants := [(1, { Tenant.reset with pinQuota := 1 })] } : State).overQuota 1 (hintSectors ps) = false ∧
    (s.cx.parts 0x90000 64).any (hintDrops .pf) = true ∧ (s.rs 0).toNat = 0 ∧ s.keyFits 1 0x8000 = true ∧
    mfind s.slc 0x8000 = none ∧ s.guarded = false ∧ ({ s with cycle := 7296 } : State).guarded = true ∧
    (slcRoom s.slc (0x8000 / 2)).isSome = true ∧ s.pinsAll < 2 ^ 20 ∧
    mfind ({ s with slc := [(0x8000, ⟨1, 0, none, false, 0⟩)] } : State).slc 0x8000 = some ⟨1, 0, none, false, 0⟩ := by
  decide +kernel
/-- A hint of one sector, or of two, whose request is the next that its port admits. -/
def hinted (kind : PfhKind) (us : List HintUnit) (slc : AMap Sector) (quota : Nat) : State :=
  { keyed (hand (paged [])) with
    slc := slc, hints := [⟨0, 7, 1, kind, us⟩], tickets := [⟨0, some 7, 0, [⟨5, [0x8000]⟩]⟩]
    tenants := [(1, { Tenant.reset with pinQuota := quota })] }
theorem wit_hintAdmitted : ∀ kind ∈ [PfhKind.pf, .res, .rel], ∀ us ∈ [[⟨0x8000, 1, 2⟩], [(⟨0x8000, 1, 0⟩ : HintUnit), ⟨0x8001, 1, 0⟩]],
    ∀ slc ∈ [[], [((0x8000 : Nat), (⟨1, 0, none, false, 0⟩ : Sector))], [(0x8000, ⟨1, 2, some 1, false, 0⟩)]],
    let s := hinted kind us slc 1
    s.portChoice 5 = some (0, 0, 1) ∧ s.waiting 5 0 0 = some (⟨0, some 7, 0, [⟨5, [0x8000]⟩]⟩, ⟨5, [0x8000]⟩) ∧
    s.hints.find? (fun h => h.ctx == 0 && some 7 == some h.seq) = some ⟨0, 7, 1, kind, us⟩ ∧ s.keyFits 1 0x8000 = true ∧
    (us.filter (fun v => [0x8000].contains v.sec)).length = 1 ∧ (slcRoom s.slc 0x4000).isSome = true ∧ s.pinsAll < 2 ^ 20 ∧
    ¬ (hinted kind us slc 0).pins 1 < 0 := by decide +kernel
/-- In the guard band only a request whose sectors the SLC holds is admitted. -/
theorem wit_hintGuarded :
    (let s := { hinted .pf [⟨0x8000, 1, 2⟩] [(0x8000, ⟨1, 0, none, false, 0⟩)] 0 with cycle := 7296 }
     s.portChoice 5 = some (0, 0, 1)) ∧
    ({ hinted .pf [⟨0x8000, 1, 2⟩] [] 0 with cycle := 7296 } : State).portChoice 5 = none := by decide +kernel

def strictTask : Ctx := { task with region := 0x40000#19 }

theorem wit_waits :
    task.strictNow = false ∧ strictTask.strictNow = true ∧
    strictTask.fenceDone 255 1 = true ∧ strictTask.drainDone .system 255 1 = true ∧ strictTask.syncDone 255 0 = true ∧
    strictTask.heldIn 255 0 = false ∧ ({ strictTask with recs := [sent], seq := 2 } : Ctx).syncDone 1 2 = false ∧ (hand strictTask).issue.raised = none ∧
    ({ strictTask with recs := [sent], seq := 2 } : Ctx).fenceDone 1 2 = false ∧
    ({ strictTask with recs := [{ sent with dloc := .virt }], seq := 2 } : Ctx).drainDone .region 1 2 = false ∧
    ({ strictTask with posted := [⟨0, 0, 0, 0⟩], seq := 2 } : Ctx).drainDone .system 1 2 = false ∧
    ({ strictTask with recs := [copyOf 1], seq := 2 } : Ctx).heldIn 1 2 = true ∧
    ({ task with recs := [copyOf 1], seq := 2 } : Ctx).coveredHeld 1 2 ≠ [] ∧ task.coveredHeld 1 2 = [] := by decide +kernel
theorem wit_channels : (hand task).scalarFits 63 = true ∧ ((hand task).rs 0).toNat ≤ mgetD task.done 7 0 ∧
    mgetD task.done 0 0 < ((hand (regs [(1, 1#64)])).rs 1).toNat ∧
    mfind ({ task with stopped := [(0, 0x201)] } : Ctx).stopped 0 = some 0x201 ∧ mfind task.stopped 0 = none ∧
    (hand task).issue.raised = none := by decide +kernel

def gathered (rs : Option (List Nat)) : GatherRec := ⟨1, true, 4, List.replicate 512 none, rs, none, 0, .idle⟩

theorem wit_pops : task.undoFits (.v 63) = true ∧ (hand task).scalarFits 0 = true ∧ task.gathers = [] ∧ task.colls = [] ∧
    (gathered (some (List.replicate 512 9))).results = some (List.replicate 512 9) ∧
    (gathered (some [])).nonNull < 2 ^ 64 ∧ (collOf 1 .done).st = .done ∧ (collOf 1 .done).count < 2 ^ 64 ∧
    strictTask.strictNow = true ∧ (collOf 1 .mismatch).st = .mismatch ∧ (collOf 1 .pending).st = .pending ∧ (gathered none).results = none := by decide +kernel
/-- CPOP returns the bytes at the destination of its collective. -/
theorem test_cpop : ends (exec (.cpop 3 4) (hand { task with colls := [collOf 1 .done] } [(0x3000, 7#8), (0x3003, 1#8)]))
    (fun t => decide (t.cx.colls = [] ∧
      t.cx.inFlight.any (fun w => w.dst == .v 3 0 && w.val == 0x01000007) = true ∧
      t.cx.inFlight.any (fun w => w.dst == .s 4 && w.val == 1) = true)) = true := by decide +kernel

/-! ### States that meet the hypotheses: landings, boundaries, the clock -/

/-- The part with a task on tile 0 and its launch. -/
def one (x : Ctx) (sp : Memory := []) : State :=
  { State.reset with ctxs := [(0, x)], launches := [(0, fetchLaunch)], tiles := [(0, { Tile.reset with sp := sp })] }

theorem wit_landing : ∀ w ∈ [(⟨0, true, .v 63 7, ones 2048, 5⟩ : PendWrite), ⟨0, true, .k 7 7, 1, 1⟩, ⟨0, false, .s 63, ones 64, 5⟩,
      ⟨0, true, .q 7, 1, 1⟩, ⟨0, true, .flags, 31, 3⟩, ⟨0, true, .cr 0x020, ones 64, 9⟩, ⟨0, true, .hint, 1, 1⟩],
    let x : Ctx := { task with inFlight := [w, ⟨1, true, .s 1, ones 64, 2⟩], undo := [⟨.v 63, none⟩] }
    x.inFlight.filter (fun p => decide (p.due ≤ (one x).cycle)) = [w] ∧
    (match w.dst with | .v _ d => decide (d < 8) | .k _ d => decide (d < 8) | _ => true) = true := by decide +kernel
theorem wit_landing_logged : (Dst.v 63 7).key = some (.v 63) ∧
    ⟨.v 63, none⟩ ∈ ({ task with undo := [⟨.v 63, none⟩] } : Ctx).undo := by decide +kernel
/-- An MMUL of one row of zeros that lands now, and an MLDW. -/
def landing (k : MKind) : MatOp :=
  ⟨k, true, 0, 1, 2, 1, false, 0, [0, 1, 2, 3], 2, 2, .zero, 0, 0, 0, 0, 0, [], [], [], false, 0⟩

theorem wit_matrixLands : let x : Ctx := { task with matOps := [landing .mmul] }
    (x.dueOp 0 false).isSome = true ∧
    ((((landing .mmul).result (fun _ => 0)).1.map (·.1)).Nodup) := by decide +kernel
theorem wit_matrixLoadLands : (({ task with matOps := [landing .mldw] } : Ctx).dueOp 0 true).isSome = true := by decide +kernel

/-- A task that rolls back to address 12: s5 was 7, byte 64 of the scratchpad was 9. -/
def rolling (code : Nat) (svcv : Bool) : Ctx :=
  { regs [(5, 1#64)] with
    rollback := some ⟨code, 0x10000, 9, 24#32⟩, markPc := 12#32, pc := 24#32
    segtab := BitVec.ofNat 49 (0x1000100 + if svcv then 1 else 0), undo := [⟨.s 5, some 7⟩, ⟨.s 6, none⟩], rows := [⟨1, 1, 9⟩]
    recs := [copyOf 1] }

theorem wit_rollback : (rolling 0x183 true).isLive = true ∧ (rolling 0x183 true).quiet = true ∧
    (rolling 0x185 true).svcMode = false ∧ ({ rolling 0x283 true with cmt := true } : Ctx).hazard = true ∧
    (rolling 0x283 true).svcv = true ∧ (rolling 0x183 false).svcv = false ∧ (rolling 0x183 false).hazard = false ∧
    ((rolling 0x183 false).undo.map (·.key)).Nodup ∧ ((rolling 0x183 false).rows.map (·.row)).Nodup ∧
    Memory.wf [((64 : Nat), 1#8)] = true := by decide +kernel
theorem test_rollback_service : ends (exec (.rollback 0) (one (rolling 0x185 true) [(64, 1#8), (65, 2#8)])) (fun t =>
    let y := t.ctx 0
    decide (y.rs 5 = 7#64 ∧ mread (t.tile 0).sp 64 = 9#8 ∧ mread (t.tile 0).sp 65 = 2#8 ∧ y.recs = [] ∧ y.ecause = 0x585#12
      ∧ y.epc = 12#32 ∧ y.pc = 0x1000100#32 ∧ y.eaddr = 0x10000#64)) = true := by decide +kernel
theorem test_rollback_transit : ends (exec (.rollback 0) (one (rolling 0x183 false) [(64, 1#8)])) (fun t =>
    let y := t.ctx 0
    decide (y.rs 5 = 7#64 ∧ y.pc = 12#32 ∧ y.wait = .transit 0x10000 ∧ y.svcMode = false)) = true := by decide +kernel

/-- A task with service code whose resident code begins with a bundle of no words. -/
def served : Ctx := { task with segtab := 0x1000101#49, imem := writeBytes [] 0 (packBundle (headerVal ⟨0#10, false, true, true, false, 0#8, 0, 0⟩ 0) []) }
def engFault : EngFault := ⟨0x304, 0x30000, true, some 0, 1, 0, false⟩

theorem wit_boundaries : ({ served with evEnable := 1#6, evPending := 1#6 } : Ctx).eventDue = true ∧ served.svcv = true ∧
    served.svcMode = false ∧ ({ served with engFaults := [engFault] } : Ctx).engineFaultDue = true ∧ served.ending = none ∧
    (restartable engFault.code && engFault.post) = false ∧ (restartable 0x183 && false) = false ∧
    ({ served with engFaults := [engFault] } : Ctx).nextFault = some engFault ∧
    (let f := { engFault with ch := some 1, colour := 1, seq := 5 }
     let x : Ctx := { served with engFaults := [f, engFault], recs := [{ sent with dloc := .virt }], wait := .drain .system 1 2 }
     x.engineFaultDue = true ∧ x.nextFault = some engFault) := by decide +kernel
theorem wit_limits : let x : Ctx := { served with drainCount := 4097, watchdog := 100001, pauseTo := some 0 }
    x.atBoundary = true ∧ x.limit.toNat < x.drainCount ∧ x.ending = none ∧ x.svcv = true ∧ x.svcMode = false ∧ x.isLive = true ∧
    x.wdLimit < x.watchdog ∧ (mfind (one x).launches x.launch).isSome = true ∧ fetchLaunch.failure = none ∧ (0 : Nat) ≤ (one x).cycle ∧
    ({ x with evPending := 8#6, pauseTo := some 9 } : Ctx).evPending.getLsbD 3 = true ∧
    (({ one x with tiles := [(0, { Tile.reset with holder := some 0, quantum := 16384 })] } : State).tile 0).holder.isSome = true := by
  decide +kernel
theorem wit_clock : ({ task with newCadence := some 2#5 } : Ctx).newCadence = some 2#5 ∧ task.isLive = true ∧
    mfind ({ State.reset with rails := [(0, ⟨1, [(2, 0), (3, 9)]⟩)] } : State).rails 0 = some ⟨1, [(2, 0), (3, 9)]⟩ ∧
    (1 ≤ (⟨1, [(3, 700)]⟩ : Rail).level ∧ (⟨1, [(3, 700)]⟩ : Rail).level < 2) ∧
    (let s : State := { State.reset with cycle := 8192 }
     s.cal.next ≤ s.cycle ∧ 7296 ≤ s.cycle - s.cal.start ∧ 7680 ≤ s.cycle - s.cal.start) := by decide +kernel
theorem wit_syncRelease : let x : Ctx := { task with wait := .hold ⟨3, 255, 0#18, 0, 0, [0]⟩ }
    let s : State := { one x with cycle := 40 }
    x.isLive = true ∧ s.lastArrival 0 ⟨3, 255, 0#18, 0, 0, [0]⟩ = some 0 ∧ (0 : Nat) + 40 ≤ s.cycle ∧ x.strict = false ∧
    (let y : Ctx := { strictTask with wait := .hold ⟨0, 0, 0#18, 0, 0, [0]⟩ }
     let u : State := { one y with cycle := 8192, cal := ⟨1, 8192, none, 0, 0, false, false⟩ }
     y.strict = true ∧ u.cal.start = u.cycle ∧ u.lastArrival 0 ⟨0, 0, 0#18, 0, 0, [0]⟩ = some 0 ∧ 0 + 40 ≤ u.cycle) := by decide +kernel
theorem wit_taskEnd : let x : Ctx := { task with ending := some (0, 12) }
    x.endReady = true ∧ fetchLaunch.st = .running ∧ fetchLaunch.failing = false ∧
    fetchLaunch.ctxs.all (fun d => d == 0 || !((one x).ctx d).isLive) = true ∧ (one x).someEvicted 0 fetchLaunch = false ∧
    ({ task with ending := some (7, 12) } : Ctx).endReady = true := by decide +kernel
theorem test_taskEnd : ends (exec (.taskEnd 0) (one { task with ending := some (0, 12) })) (fun t =>
    decide ((t.ctx 0).life = .ended ∧ (mfind t.launches 0).map (·.st) = some .over ∧ mgetD (t.tenant 1).counters 4 0 = 1)) = true := by
  decide +kernel
theorem wit_failureStop : task.isLive = true ∧ task.ending = none ∧
    ({ fetchLaunch with failing := true, failure := some ⟨0, 0, 1, 0, 0, 0⟩ } : Launch).failing = true ∧
    (0 : Nat) < ({ one task with cycle := 1 } : State).cycle := by decide +kernel

/-! ### States that meet the hypotheses: packets, records, launches, evictions -/

/-- The part with a packet of a type at the head of queue 0 of function 1, whose ring is at 0x200000; words from 1 on follow. -/
def packed (type len low : Nat) (ws : List Nat) (ls : AMap Launch := []) : State :=
  { keyed State.reset with
    queues := [(4, ⟨0x200000, 4096, 0, 64 * len, false, none, [(64 * len, 0)]⟩)], rings := [(1, ⟨0x204000, 4096, 4064⟩)], launches := ls
    dev := ((List.range ws.length).zip ws).foldl (fun m p => writeLE m (0x200008 + 8 * p.1) 8 p.2)
      (writeLE [] 0x200000 8 (2 ^ 56 * type + 2 ^ 52 * len + low)) }

/-- A packet stands at the head with a good header, its bytes home, and the type. -/
def stands (s : State) (type : Nat) (f : Packet → Bool) : Bool :=
  match s.packet 1 0 with
  | some p => (s.headerBad 1 0 p).isNone && s.isHome [(p.at', 64 * p.len)] && p.type == type && f p
  | none => false

/-- A packet with LEN 1 whose words from `i` on are zero and whose low bits from `lo` up to LEN are zero. -/
def plain (s : State) (lo i : Nat) (p : Packet) : Bool := bits p.w0 lo (52 - lo) == 0 && s.zeroFrom p i

/-- Two launches of function 1: one with TAG 7 on plane 0, one queued. -/
def seven : Launch := { fetchLaunch with tag := 7 }

theorem wit_packets :
    (let s := packed 0 1 0 []; stands s 0 (plain s 0 1) = true) ∧
    (let s := packed 2 1 7 [0xFFFF] [(0, seven)]
     stands s 2 (fun p => bits p.w0 16 36 == 0 && bits (s.pword p 1) 16 48 == 0 && s.zeroFrom p 2 && !(s.matching 1 p.tag).isEmpty)
       = true) ∧
    (let s := packed 2 1 7 [0xFFFF]; (s.matching 1 7).isEmpty = true ∧
      stands s 2 (fun p => bits p.w0 16 36 == 0 && bits (s.pword p 1) 16 48 == 0 && s.zeroFrom p 2) = true) ∧
    (let s := packed 3 1 0 []; stands s 3 (plain s 0 1) = true ∧ s.launches = [] ∧
      (packed 3 1 0 [] [(0, seven)]).launches = [(0, seven)] ∧ seven.fn = 1 ∧ seven.st ≠ .over ∧
      ((packed 3 1 0 [] [(0, seven)]).queue 1 0).barrier.getD (packed 3 1 0 []).nextLaunch = 1) ∧
    (let s := packed 5 1 7 []; (s.matching 1 7).isEmpty = true ∧
      stands s 5 (fun p => bits p.w0 16 36 == 0 && s.zeroFrom p 1) = true) ∧
    (let s := packed 5 1 7 [] [(0, seven)]
     stands s 5 (fun p => bits p.w0 16 36 == 0 && s.zeroFrom p 1 && decide (s.matching 1 p.tag = [(0, seven)])) = true ∧
     mfind s.launches 0 = some seven ∧ seven.st = .running ∧ seven.failing = false) ∧
    (let s := packed 6 1 0xFFFF []; stands s 6 (fun p => bits p.w0 16 36 == 0 && s.zeroFrom p 1) = true) ∧
    (let s := packed 7 1 0 [2 ^ 32 * 5]
     stands s 7 (fun p => bits p.w0 0 52 == 0 && bits (s.pword p 1) 0 32 == 0 && s.zeroFrom p 2) = true ∧ s.consents = [] ∧
     (⟨1, 5, 9⟩ : Consent).tenant = 1 ∧ (⟨1, 5, 9⟩ : Consent).tid = 5) ∧
    ∀ t ∈ [0, 2, 3, 5, 6, 7], let s := packed t 1 0x100000 [2]; stands s t (fun p => bits p.w0 0 52 != 0 && bits p.w0 16 36 != 0) = true := by
  decide +kernel
/-- A LAUNCH of 2 by 3 tiles anywhere with votes 1: table at 0x201000, segments at 0x202000, argument words 1 to 8. -/
def launchWords : List Nat := [0x201000, 0x202000, 0, 0, 0, 0, 0, 1, 2, 3, 4, 5, 6, 7, 8]
def launchLow : Nat := 0x55 * 2 ^ 36 + 0xF * 2 ^ 32 + 1 * 2 ^ 28 + 2 * 2 ^ 24 + 9
def launching : State := packed 1 2 launchLow launchWords

theorem wit_launchPacket : stands launching 1 (fun p => !launching.launchFieldBad 1 p && !(launching.launchOf 1 0 p).shapeBad) = true ∧
    (launching.tenant 1).paused = none ∧
    (let s := packed 1 2 (launchLow + 2 ^ 23) launchWords
     stands s 1 (fun p => !s.launchFieldBad 1 p && (s.launchOf 1 0 p).shapeBad) = true) ∧
    (let s := packed 1 2 (launchLow + 3 * 2 ^ 50) launchWords; stands s 1 (s.launchFieldBad 1) = true) ∧
    (let s := { launching with tenants := [(1, { Tenant.reset with paused := some 0 })] }
     stands s 1 (fun p => decide ((s.launchOf 1 0 p).bell ≤ 0)) = true) ∧
    (let s := { launching with queues := [(4, ⟨0x200000, 4096, 0, 128, false, none, [(128, 9)]⟩)]
                               tenants := [(1, { Tenant.reset with paused := some 8 })] }
     (s.tenant 1).paused = some 8 ∧ stands s 1 (fun p => decide (8 < (s.launchOf 1 0 p).bell)) = true) := by decide +kernel
theorem test_launchPacket : ends (exec (.launch 1 0) launching) (fun t => match mfind t.launches 1 with
    | some l => decide (l.rows = 2 ∧ l.cols = 3 ∧ l.tag = 9 ∧ l.votes = 0x55 ∧ l.args.length = 8 ∧ l.args.getLast? = some 8#64 ∧
        (t.queue 1 0).head = 128)
    | none => false) = true := by decide +kernel
theorem wit_queues : (packed 0 1 0 []).power = .d0 ∧ ((packed 0 1 0 []).queue 1 0).size ≠ 0 ∧
    4032 < ((packed 0 1 0 []).queue 1 0).size ∧ 4032 % 64 = 0 ∧ ((packed 0 1 0 []).queue 1 0).size ≤ 4096 ∧ 65 % 64 ≠ 0 ∧
    12 ≤ 12 ∧ 20 ≤ 20 ∧ 7 < 8 := by decide +kernel
/-- Values of the management registers at the edges of their clauses. -/
theorem wit_management :
    (96 * 2 ^ 8 + 127) / 2 ^ 8 % 2 ^ 8 < 97 ∧ 97 ≤ (97 * 2 ^ 8) / 2 ^ 8 % 2 ^ 8 ∧ (96 * 2 ^ 56) / 2 ^ 56 < 97 ∧ 97 ≤ (97 * 2 ^ 56) / 2 ^ 56 ∧
    2 ^ 21 * 1 < Config.devBytes ∧ Config.devBytes ≤ 2 ^ 21 * (2 ^ 18 - 1) ∧ 127 < 128 ∧ 15 + 1 ≤ 16 ∧ ¬ 15 + 2 ≤ 16 ∧
    (let s := keyed State.reset
     mfind s.keys 1 = some 1 ∧ mfind s.keys 1 ≠ some 2 ∧ s.standsUnder 0x8000 = some 1 ∧ s.standsUnder 0x10000 = none ∧
     mwf s.slc = true ∧ mwf s.frameKey = true ∧ s.framesUnder (· == 1) = [1] ∧ mfind s.frameKey 1 = some 1 ∧ 127 < 128 ∧ ¬ 255 < 128) ∧
    65536 * 47 + 65536 * 1 ≤ 0x300000 ∧ ¬ 65536 * 47 + 65536 * 2 ≤ 0x300000 ∧ 65536 % 65536 = 0 ∧ 143 < 144 ∧
    State.reset.power = .d0 := by decide +kernel
/-- Frame 1 written under key 1, with a sector of it pinned and another cached. -/
def written1 : State :=
  { keyed State.reset with
    dev := [(0x200000, 9#8), (0x400000, 8#8)], slc := [(0x8000, ⟨1, 2, some 1, true, 0⟩), (0x8001, ⟨1, 0, none, true, 0⟩)] }
/-- A frame given to another key: its bytes read as opaque ones, and a pinned sector stays pinned under the new key; back under its
own key it reads as before, but not once that key has been generated anew (R25, R182, R184). -/
theorem test_frameRekeyed :
    ends (exec (.hostRegisterWrite 0 0x11 (BitVec.ofNat 64 (2 ^ 24 * 5 + 1))) written1) (fun t =>
      decide (t.foreign 0x8000 = some (1, 5) ∧ mfind t.frameKey 1 = some 5 ∧ t.slc = [(0x8000, ⟨5, 2, some 1, false, 0⟩)]) &&
      ends (exec (.hostRegisterWrite 0 0x11 (BitVec.ofNat 64 (2 ^ 24 * 1 + 1))) t) (fun u =>
        decide (u.foreign 0x8000 = none ∧ u.devByte 0x200000 = 9#8))) = true ∧
    ends (exec (.hostRegisterWrite 0 0x10 (BitVec.ofNat 64 (2 ^ 8 * 2 + 1))) written1) (fun t =>
      decide (t.foreign 0x8000 = some (1, 129) ∧ mfind t.keys 1 = some 2)) = true := by decide +kernel
theorem wit_records : let s := packed 6 1 3 []
    mfind s.rings 1 = some ⟨0x204000, 4096, 4064⟩ ∧ s.inWindow 1 0x204000 4096 = true ∧ Memory.wf s.dev = true ∧
    s.hostCopies (0x204000 + 4064 % 4096) 32 = [] := by decide +kernel
theorem test_record_wraps : let t := (packed 6 1 3 []).record 1 4 0 3 0 0 0 9
    readLE t.dev 0x204FE0 8 = 0x0400000300000000 ∧ readLE t.dev 0x204FF8 8 = 9 ∧ mfind t.rings 1 = some ⟨0x204000, 4096, 0⟩ := by
  decide +kernel

/-- A queued launch of one tile, and the same one accepted on cycle 0 with its context prepared. -/
def queuedLaunch : Launch :=
  { fetchLaunch with st := .queued, planeReq := 0xF, wtabAddr := 0x201000, segAddr := 0x202000, args := List.replicate 8 5#64 }
def waiting : State :=
  { keyed State.reset with launches := [(0, queuedLaunch)], tenants := [(1, { Tenant.reset with accCnt := 16, spSize := 0x300000 })] }

theorem wit_launchPlaced : let l' := waiting.settle queuedLaunch 3 11 11
    waiting.withheld queuedLaunch = false ∧ waiting.canPlace queuedLaunch 3 11 11 = true ∧
    waiting.itsTurn 0 queuedLaunch 3 = true ∧ waiting.isHome (waiting.tables queuedLaunch) = true ∧
    waiting.refusal 0 l' = none ∧ (l'.spots.map (·.2.2)).Nodup := by decide +kernel
/-- A table with an entry that is in transit is refused. -/
theorem wit_launchRefused : let s := { waiting with dev := writeLE [] 0x201000 16 0x400 }
    let l' := s.settle queuedLaunch 3 11 11
    s.withheld queuedLaunch = false ∧ s.canPlace queuedLaunch 3 11 11 = true ∧ s.itsTurn 0 queuedLaunch 3 = true ∧
    s.isHome (s.tables queuedLaunch) = true ∧ s.refusal 0 l' = some 6 := by decide +kernel
theorem wit_launchStarts :
    ∀ im ∈ [[], [((0x203000 : Nat), (0 : Nat), (64 : Nat)), (0x203040, 64, 64)]],
    let l : Launch := { queuedLaunch with st := .placed 0, spLoads := im }
    let s : State := { waiting with cycle := 64, launches := [(0, l)], ctxs := [(0, waiting.prepare 0 l 0 0)]
                                    tickets := [⟨0, none, 1, []⟩] }
    s.isL l 0 = true ∧ (s.startNeed l).fault = none ∧ (s.imagesAway 0 l).isNone = true ∧ s.codeInTransit l = false ∧
    (s.startNeed l).holds true = false ∧
    s.admitted l.firstCtx none (s.startNeed l) = true ∧ spOverlap l.spLoads = false ∧ Memory.wf (s.tile 0).sp = true ∧
    (l.spots.map (·.2.2)).Nodup ∧ l.args.length = 8 ∧ 
    l.spots.all (fun p => let x := s.ctx p.2.2
      x.life == .none && x.pc == 0#32 && x.pend.isEmpty && !x.svcMode) = true := by decide +kernel
/-- An image in a frame that is not the tenant's. -/
theorem wit_launchOutOfReach :
    let l : Launch := { queuedLaunch with st := .placed 0, spLoads := [(0x400000, 0, 64)] }
    let s : State := { waiting with cycle := 64, launches := [(0, l)], ctxs := [(0, waiting.prepare 0 l 0 0)] }
    s.isL l 0 = true ∧ (s.startNeed l).fault = none ∧ s.outOfReach l.fn l.imageReads = some 0x400000 := by decide +kernel
theorem test_launchStarts :
    let l : Launch := { queuedLaunch with st := .placed 0 }
    ends (exec (.launchStart 0 0 0 0)
      { waiting with cycle := 64, launches := [(0, l)], ctxs := [(0, waiting.prepare 0 l 0 0)] }) (fun t =>
        decide ((t.ctx 0).life = .live ∧ (t.ctx 0).rs 8 = 5#64 ∧ (t.ctx 0).rs 9 = 0#64 ∧ (mfind t.launches 0).map (·.st) = some .running))
      = true := by decide +kernel

/-- A background launch that is being evicted; its record goes to 0x210000. -/
def going : Launch := { fetchLaunch with cls := 2, st := .evicting 0, cellarBase := 0x210000, cellarSlot := 65536 }
/-- A task whose bundle at 0 carries D, in that launch. -/
def leaving (x : Ctx) : State :=
  { keyed State.reset with
    ctxs := [(0, x)], launches := [(0, going)]
    tenants := [(1, { Tenant.reset with accCnt := 16, spSize := 0x300000 })] }
def drainCode : Memory := writeBytes [] 0 (packBundle (headerVal ⟨0#10, false, false, false, true, 0#8, 0, 0⟩ 0) [])

theorem wit_evictionRequest : fetchLaunch.st = .running ∧ fetchLaunch.failing = false ∧ fetchLaunch.cls ≠ 2 ∧
    ({ going with st := .running } : Launch).cls = 2 := by decide
theorem wit_evictionStop : let x : Ctx := { task with imem := drainCode, vstat := 9#5 }
    let s := leaving x
    let bs := x.landEvery.cellarRecord (s.tile 0) (s.stopMap x)
    s.stopPoint 0 = true ∧ (s.ctx 0).launch = 0 ∧ Memory.wf s.dev = true ∧ s.isHome x.mapTable = true ∧
    x.savedBad (s.tile 0) (s.stopMap x) = none ∧ bs.length ≤ going.cellarSlot ∧
    s.reaches 1 (going.cellarAt x.ry x.rx) bs.length = true ∧ s.hostCopies (going.cellarAt x.ry x.rx) bs.length = [] := by
  decide +kernel
theorem test_evictionStop : ends (exec (.evictionStop 0) (leaving { task with imem := drainCode, vstat := 9#5, pc := 0#32 }))
    (fun t => decide ((t.ctx 0).life = .evicted ∧ readLE t.dev 0x210000 4 = 0x400 ∧ readLE t.dev 0x210068 8 = 9)) = true := by
  decide +kernel
/-- A region of two tiles: one task has stopped, the other has ended. -/
theorem wit_evictionComplete : let l : Launch := { going with cols := 2 }
    let s : State := { leaving { task with life := .evicted } with launches := [(0, l)] }
    let u : State := { s with keys := [] }
    s.someLive 0 l = false ∧ s.someEvicted 0 l = true ∧ l.failing = false ∧ s.recordsPend l = false ∧
    s.recordsIn l = true ∧ (s.ticketOf 1 none).isSome = false ∧ ({ s with tickets := [⟨1, none, 0, []⟩] } : State).recordsIn l = true ∧
    ({ s with tickets := [⟨1, none, 0, []⟩] } : State).ticketOf 1 none = some ⟨1, none, 0, []⟩ ∧
    s.endedSpots l = [(0, 1, 1)] ∧ 8 ≤ l.cellarSlot ∧ s.reaches l.fn (l.cellarAt 0 1) 8 = true ∧ Memory.wf s.dev = true ∧
    s.hostCopies (l.cellarAt 0 1) 8 = [] ∧ u.endedSpots l = [(0, 1, 1)] ∧ u.reaches l.fn (l.cellarAt 0 1) 8 = false ∧
    ({ s with fwrange := some (0x220000, 0x220040) } : State).reaches l.fn (l.cellarAt 0 1) 8 = false ∧
    l.failure = none := by decide +kernel
/-- The launch in the cellar: its record says address 0x40, VSTAT 9. -/
def evicted : Launch :=
  { queuedLaunch with cls := 2, st := .evicted, accCnt := 16, spSize := 0x300000, cellarBase := 0x210000, cellarSlot := 65536 }
def away (l : Launch) : State :=
  { leaving Ctx.reset with
    cycle := 64, launches := [(0, l)], tickets := [⟨l.firstCtx, none, 2, []⟩]
    dev := writeLE (writeLE (writeLE [] 0x210000 8 (0xFF * 2 ^ 32 + 0x400)) 0x210010 8 0x40) 0x210068 8 9 }

theorem wit_resumeAccepted : let s := away evicted
    s.withheld evicted = false ∧ s.canPlace { evicted with planeReq := 0xF } 3 11 11 = true ∧ s.sameSettings evicted = true ∧
    s.isHome (s.resumeReads evicted) = true ∧ s.outOfReach 1 evicted.recordHeads = none ∧
    s.tableBad 1 (usedEntries (s.tableImage evicted.wtabAddr)) = false ∧ s.segBad evicted.segAddr = false ∧
    s.drainBad evicted.dmAddr = false ∧ s.tablesOut evicted = false := by decide +kernel
/-- A record in a frame that has been marked unassigned, at the acceptance and at the restart. -/
theorem wit_resumeOutOfReach :
    (let s := { away evicted with frameKey := [] }
     s.withheld evicted = false ∧ s.canPlace { evicted with planeReq := 0xF } 3 11 11 = true ∧ s.sameSettings evicted = true ∧
     s.isHome (s.resumeReads evicted) = true ∧ s.outOfReach 1 evicted.recordHeads = some 0x210000) ∧
    (let l : Launch := { evicted with st := .resuming 0 }
     let s := { away l with frameKey := [] }
     s.isL l 0 = true ∧ (s.resumeNeed l).fault = none ∧
     s.outOfReach l.fn ((s.ctx l.firstCtx).mapTable ++ s.records l) = some 0x210000) := by decide +kernel
/-- Tables that no longer pass: an entry in transit, and a segment table that begins outside the window. -/
theorem wit_resumeRefused :
    (let s := { away evicted with dev := writeLE (away evicted).dev 0x201000 16 0x400 }
     s.canPlace { evicted with planeReq := 0xF } 3 11 11 = true ∧ s.isHome (s.resumeReads evicted) = true ∧
     s.outOfReach 1 evicted.recordHeads = none ∧ s.tableBad 1 (usedEntries (s.tableImage evicted.wtabAddr)) = true) ∧
    (let l := { evicted with segAddr := 0x400000 }
     let s := away l
     s.canPlace { l with planeReq := 0xF } 3 11 11 = true ∧ s.isHome (s.resumeReads l) = true ∧ s.sameSettings l = true ∧
     s.outOfReach 1 l.recordHeads = none ∧ s.tableBad 1 (usedEntries (s.tableImage l.wtabAddr)) = false ∧ s.tablesOut l = true) := by decide +kernel
theorem wit_resumed : let l : Launch := { evicted with st := .resuming 0 }
    let s := away l
    s.isL l 0 = true ∧ (s.resumeNeed l).fault = none ∧ (s.recordsAway 0 l).isNone = true ∧ s.codeInTransit l = false ∧
    (s.resumeNeed l).holds true = false ∧
    s.admitted l.firstCtx none (s.resumeNeed l) = true ∧
    (l.spots.map (·.2.2)).Nodup ∧ Memory.wf (s.tile 0).sp = true ∧ readLE s.dev (l.cellarAt 0 0) 8 % 2 ^ 32 ≠ 0 := by
  decide +kernel
theorem test_resumed : let l : Launch := { evicted with st := .resuming 0 }
    ends (exec (.resume 0 0 0 0) (away l)) (fun t => decide ((t.ctx 0).life = .live ∧ (t.ctx 0).pc = 0x40#32 ∧ (t.ctx 0).vstat = 9#5
      ∧ (mfind t.launches 0).map (·.st) = some .running)) = true := by decide +kernel

/-! ### States that meet the hypotheses: the engines at work -/

/-- The requests of a record of context 0 have been admitted. -/
def served' (seq : Nat) (s : State) : State := { s with tickets := [⟨0, some seq, 0, []⟩] }

/-- A record is next on channel 0 and nothing holds it. -/
def goes (s : State) (r : CopyRec) : Bool :=
  let x := s.ctx 0
  decide (x.headRec 0 = some r) && r.bad.isNone && !s.recBlocked 0 x r && !(s.planNeed x r).holds r.host.isAnswered
    && s.admitted 0 (some r.seq) (s.planNeed x r)

theorem wit_copies :
    (({ task with recs := [{ sent with bad := some 0x1008 }] } : Ctx).headRec 0 = some { sent with bad := some 0x1008 } ∧ sent.kind ≤ 3) ∧
    (let s := one { task with recs := [sent, copyOf 2] }
     goes s sent = true ∧ s.copyStop (s.ctx 0) sent = (8, none) ∧ s.roomEnd (s.ctx 0) sent 8 = 8 ∧
     (s.copyNeed (s.ctx 0) sent 8).reach.length ≤ 262144 ∧ s.memOk = true ∧ sent.conv = false ∧ sent.chunkTo 0 = 8 ∧
     (s.ctx 0).placeOf 0 .sp 0x2007 = some (2, 0x2007)) ∧
    (let r := { sent with n0 := 4096, moved := 64 }
     goes (one { task with recs := [r] }) r = true ∧ r.chunkTo 64 = 128 ∧ r.stream = 4096) ∧
    (let r := { sent with dloc := .virt, dst := 0x10000 }
     let s := one { paged [] with recs := [r] }
     goes s r = true ∧ s.copyStop (s.ctx 0) r = (0, some (0x184, 0x10000))) ∧
    (let r := { sent with sloc := .virt, src := 0x1FFF8, dloc := .virt, dst := 0x10000 }
     let s := served' 1 (keyed (one { paged [] with recs := [r] }))
     goes s r = true ∧ s.copyStop (s.ctx 0) r = (8, none) ∧ (s.ctx 0).placeOf 0 .virt 0x1FFFF = some (0, 0x20FFFF) ∧
     (s.ctx 0).placeOf 0 .virt 0x10000 = some (0, 0x200000) ∧ s.lineReady (s.ctx 0) 0x10007 = true) ∧
    (let r := { sent with sloc := .virt, src := 0x20000, n0 := 32, conv := true }
     let s := served' 1 (keyed (one { paged [] with recs := [r] }))
     goes s r = true ∧ s.copyStop (s.ctx 0) r = (4, none) ∧ r.n0 % 32 = 0 ∧ r.moved % 4 = 0 ∧
     (s.ctx 0).placeOf 0 .virt 0x2001F = some (0, 0x21001F) ∧ (s.ctx 0).placeOf 0 .sp 0x2003 = some (2, 0x2003)) ∧
    (let r := { sent with kind := 5, dloc := .virt, dst := 0x20000 }
     let s := served' 1 (keyed (one { paged [] with recs := [r] }))
     goes s r = true ∧ s.copyStop (s.ctx 0) r = (64, none) ∧ r.n0 % 4 = 0 ∧ r.moved % 32 = 0 ∧
     (s.ctx 0).placeOf 0 .virt 0x2003F = some (0, 0x21003F)) := by decide +kernel
/-- DONE counts the part that has moved of a longer record (R202). -/
theorem test_copyPart : ends (exec (.copyRecordPerform 0 0 64) (one { task with recs := [{ sent with n0 := 4096, moved := 64, counted := 64 }]
                                                                                done := [(0, 64)] })) (fun t =>
    decide ((t.ctx 0).recs.map (fun r => (r.moved, r.counted)) = [(128, 128)] ∧ mgetD (t.ctx 0).done 0 0 = 128)) = true := by decide +kernel
theorem test_copies : ends (exec (.copyRecordPerform 0 0 0) (one { task with recs := [sent] } [(0x2000, 9#8)])) (fun t =>
    decide (mread (t.tile 0).sp 0x2000 = 0#8 ∧ mread (t.tile 0).sp 0x2001 = 3#8 ∧ (t.ctx 0).recs = [] ∧
      mgetD (t.ctx 0).done 0 0 = 8)) = true := by decide +kernel

def atomicAt (l : Loc) (kind dst : Nat) : CopyRec := { sent with kind := kind, dloc := l, dst := dst, op := 0 }

theorem wit_recordAtomics :
    (let r := atomicAt (.tile 5) 4 0x2FFFF8
     let s := one { task with recs := [r] }
     (s.ctx 0).headRec 0 = some r ∧ s.recBlocked 0 (s.ctx 0) r = false ∧ 5 ≠ tileOf 0 ∧
     (s.tile 5).firstBad [(r.dst, r.width)] = none ∧ Memory.wf (s.tile 5).sp = true ∧ r.nores = false ∧
     ({ r with nores := true } : CopyRec).nores = true) ∧
    (let r := { atomicAt .sp 4 0x2FFFF8 with nores := true }
     let s := one { task with recs := [r] }
     (s.ctx 0).headRec 0 = some r ∧ s.recBlocked 0 (s.ctx 0) r = false ∧ (s.tile 0).firstBad [(r.dst, r.width)] = none) ∧
    (∀ k ∈ [4, 6], let r := atomicAt .virt k 0x10008
     let x : Ctx := { paged [] with recs := [r] }
     let s := served' 1 (keyed (one x))
     let nd := s.rangeNeed x true true r.dst r.width
     x.headRec 0 = some r ∧ s.recBlocked 0 x r = false ∧
     (match x.pageOf r.dst with | some e => decide (entRoute e = 0) | none => false) = true ∧
     nd.fault = none ∧ nd.holds r.host.isAnswered = false ∧ s.admitted 0 (some r.seq) nd = true) ∧
    (let r := atomicAt .virt 6 0x40008
     let x : Ctx := { paged [] with recs := [r] }
     let s : State := { one x with attic := [(0x60008 / 64, ⟨.e, 0, []⟩)] }
     let nd := s.rangeNeed x true true r.dst r.width
     x.headRec 0 = some r ∧ s.recBlocked 0 x r = false ∧
     (match x.pageOf r.dst with | some e => decide (entRoute e = 2) | none => false) = true ∧
     nd.fault = none ∧ nd.holds r.host.isAnswered = false ∧ s.admitted 0 (some r.seq) nd = true) ∧
    (let r := atomicAt .virt 6 0x30008
     let x : Ctx := { paged [] with recs := [r] }
     x.headRec 0 = some r ∧ (one x).recBlocked 0 x r = false ∧
     (match x.pageOf r.dst with | some e => decide (entRoute e = 1) | none => false) = true ∧
     ({ r with host := .waiting 3 } : CopyRec).host = .waiting 3 ∧ ({ r with host := .old 3 } : CopyRec).host = .old 3 ∧
     (one x).linkUp = true ∧ ({ one x with linkUp := false } : State).linkUp = false ∧
     ((one x).tenant x.tenant).degraded = false ∧ r.host = .idle) ∧
    (let r := atomicAt .virt 6 0x30008
     let x : Ctx := { paged [] with recs := [r], window := [(0, page 0x30000 1 0 0x50000 ||| 0x800#128)] }
     let s : State := { one x with tenants := [(1, { Tenant.reset with degraded := true })], attic := [(0x50008 / 64, ⟨.e, 0, []⟩)] }
     x.headRec 0 = some r ∧ s.recBlocked 0 x r = false ∧
     (match x.pageOf r.dst with
      | some e => decide (entRoute e = 1 ∧ (s.tenant x.tenant).degraded = true ∧ entFallback e = true ∧
          mfind s.attic (entPhys e r.dst / 64) = some ⟨.e, 0, []⟩)
      | none => false) = true) := by decide +kernel
theorem test_remoteAtomic : ends (exec (.remoteAtomicPerform 0 0)
      { one { task with recs := [atomicAt (.tile 5) 4 0x40] } with tiles := [(5, { Tile.reset with sp := [(0x40, 255#8)] })] })
    (fun t => decide (readLE (t.tile 5).sp 0x40 8 = 260 ∧ readLE (t.tile 0).sp 0x1000 8 = 255)) = true := by decide +kernel

/-- A sector of device memory that the host holds in A was asked back on cycle 0, and the time limit has passed. -/
def kept (s : State) (sec : Nat) : State :=
  { keyed s with cycle := 22400000, snoop := [(sec, true)], backInv := [(sec, ⟨true, 0⟩)] }

theorem wit_hostAnswers :
    (let g : GatherRec := { gathered none with host := .waiting 0, addrs := [some 0x30000] }
     let x : Ctx := { paged [] with gathers := [g] }
     let s : State := { one x with cycle := 22400000 }
     (let g : GatherRec := { g with addrs := [some 0x10000] }
      let x : Ctx := { paged [] with gathers := [g] }
      let s := kept (one x) (0x200000 / 64)
      x.headGather = some g ∧ s.lateSnoops (s.gatherNeed x g) ≠ []) ∧
     x.headGather = some g ∧ 0 + s.timeout ≤ s.cycle ∧ s.gatherWaitAddr x g = 0x30000) ∧
    (let x : Ctx := { task with posted := [⟨1, 0, 0, 0x30000⟩] }
     x.posted = [⟨1, 0, 0, 0x30000⟩] ∧ 0 + (one x).timeout ≤ 22400000 ∧ task.posted = [] ∧ task.headGather = none ∧
     ∀ ch : Chan, task.headRec ch.val = none) ∧
    (let c : CellRec := ⟨1, false, true, 0, .linit 0x20000 2, 0⟩
     let x : Ctx := { paged [] with cells := [c] }
     let s := kept (one x) (0x210000 / 64)
     (let s := kept { one x with power := .d0 } 5
      mfind s.backInv 5 = some ⟨true, 0⟩ ∧ 0 + s.timeout ≤ s.cycle ∧ s.power ≠ .off ∧ mwf s.snoop = true ∧ s.fwPend = [] ∧
      mfind s.snoop 5 = some true) ∧
     x.headCell = some c ∧ s.lateSnoops (s.headNeed x .cells) = [0x210000 / 64]) ∧
    (let d : DrainRec := ⟨1, false, true, true, 0, false, 0x10000, 512, 512, [(0, 5)], 0, .idle, []⟩
     let x : Ctx := { paged [] with drains := [d] }
     let s := kept (one x) (0x200000 / 64)
     x.drains = [d] ∧ s.lateSnoops (s.headNeed x .drains) = [0x200000 / 64]) ∧
    (let r : CopyRec := { sent with sloc := .virt, src := 0x30000, host := .waiting 0 }
     let x : Ctx := { paged [] with recs := [r] }
     let s : State := { one x with cycle := 22400000 }
     (let r := { r with src := 0x40000, host := .answered 0 }
      let x : Ctx := { paged [] with recs := [r] }
      let held : State := { s with attic := [(0x60000 / 64, ⟨.e, 0, []⟩)] }
      x.headRec 0 = some r ∧ (s.headNeed x (.chan 0)).lines = [(0x60000 / 64, false)] ∧ (held.headNeed x (.chan 0)).lines = [] ∧
      held.lateSnoops (held.headNeed x (.chan 0)) = []) ∧
     x.headRec 0 = some r ∧ r.kind ≠ 6 ∧ r.moved = 0 ∧ 0 + s.timeout ≤ s.cycle ∧ r.n1 = 1 ∧ r.n2 = 1 ∧
     s.waitAddr x r = 0x30000 ∧ x.routeOf r.dst ≠ 1 ∧ ({ r with host := .answered 0 } : CopyRec).host = .answered 0 ∧
     ({ r with host := .attic 0 } : CopyRec).host = .attic 0 ∧ ¬ 1 + s.timeout ≤ s.cycle) ∧
    (let r : CopyRec := { atomicAt .virt 6 0x30008 with host := .waiting 0 }
     let x : Ctx := { paged [] with recs := [r] }
     let s : State := { one x with cycle := 22400000 }
     x.headRec 0 = some r ∧ r.kind = 6 ∧ s.banksBusy [⟨2, r.src, r.width⟩] = false ∧
     ({ s with tiles := [(0, { Tile.reset with resv := [(bankOf (r.src / 64), 22400000)] })] } : State).banksBusy
       [⟨2, r.src, r.width⟩] = true ∧
     x.routeOf r.dst = 1 ∧ s.waitAddr x r = 0x30008 ∧ mfind s.attic (0x50008 / 64) = none ∧ Memory.wf s.hostMem = true ∧
     (match x.pageOf r.dst with | some e => decide (entRoute e = 1 ∧ entFallback e = false) | none => false) = true) ∧
    (let x : Ctx := { task with window := [(0, page 0x30000 1 0 0x50000 ||| 0x800#128)] }
     (match x.pageOf 0x30008 with | some e => decide (entRoute e = 1 ∧ entFallback e = true) | none => false) = true) ∧
    (let r : CopyRec := { sent with dloc := .virt, dst := 0x10000 }
     let x : Ctx := { paged [] with recs := [r] }
     let s := kept (one x) (0x200000 / 64)
     x.headRec 0 = some r ∧ r.host = .idle ∧ mwf s.snoop = true ∧ s.fwPend = [] ∧
     s.lateSnoops (s.headNeed x (.chan 0)) = [0x200000 / 64] ∧
     (keyed (one x)).lateSnoops ((keyed (one x)).headNeed x (.chan 0)) = []) := by decide +kernel
theorem test_atomicop : ends (exec (.hostAtomicopCompletion 0 0 .success)
      { one { paged [] with recs := [{ atomicAt .virt 6 0x30008 with host := .waiting 0 }] } with hostMem := [(0x50008, 2#8)] })
    (fun t => decide (readLE t.hostMem 0x50008 8 = 7 ∧ readLE (t.tile 0).sp 0x1000 8 = 2)) = true := by decide +kernel

def cellPush (op : CellOp) : CellRec := ⟨1, false, true, 0, op, 0⟩

theorem wit_cellPushes2 : ∀ op ∈ [CellOp.linit 0x20000 2, .ladd [(0x2FFE0, 5)], .lraw 0x20000 0x1000 1],
    let r := cellPush op
    let kept := [{ r with seq := 0, held := true }]
    let x : Ctx := { paged [] with cells := kept ++ [r] }
    let s := served' 1 (keyed (one x))
    (∀ q ∈ kept, q.held = true ∧ q.seq ≠ r.seq) ∧ r.held = false ∧ s.cellBlocked 0 x r = false ∧ Memory.wf (s.tile 0).sp = true ∧
    (let nd := s.rangeNeed x true true 0x2FFE0 32
     nd.fault = none ∧ nd.holds false = false ∧ s.admitted 0 (some r.seq) nd = true) ∧
    (let nd := s.rangeNeed x false true 0x20000 32
     nd.fault = none ∧ nd.holds false = false ∧ s.admitted 0 (some r.seq) nd = true) ∧
    (let nd := s.rangeNeed x true false 0x20000 32
     nd.fault = none ∧ nd.holds false = false ∧ s.admitted 0 (some r.seq) nd = true) := by
  decide +kernel
/-- R221: a new cell is empty, so its first byte is zero and its KIND field lies in the last. -/
theorem test_cellInit : ends (exec (.cellInitPerform 0) (served' 1 (keyed (one { paged [] with cells := [cellPush (.linit 0x20000 2)] }))))
    (fun t => decide (readLE t.dev 0x210000 32 = 2 ^ 246 ∧ (t.ctx 0).cells = [{ cellPush (.linit 0x20020 1) with gone := 1 }])) = true := by
  decide +kernel
/-- Two tasks of one region, side by side, with a collective each. -/
def pair2 (r0 r1 : CollRec) : State :=
  { State.reset with
    ctxs := [(0, { task with colls := [r0], collNext := [(0, 2)] }), (1, { task with colls := [r1], collNext := [(0, 2)], region := 0x10#19 })]
    launches := [(0, { fetchLaunch with cols := 2 })] }
def both2 (op : Nat) : CollRec := { collOf 1 .pending with op := op, members := [0, 1] }

theorem wit_engines :
    (let g : GatherRec := { gathered none with addrs := [some 0x1FFFC, none] }
     let x : Ctx := { paged [] with gathers := [g] }
     let s := served' 1 (keyed (one x))
     x.headGather = some g ∧ g.bad = none ∧ (s.gatherNeed x g).fault = none ∧
     (s.gatherNeed x g).holds g.host.isAnswered = false ∧ s.admitted 0 (some g.seq) (s.gatherNeed x g) = true ∧
     (x.gathers.map (·.seq)).Nodup ∧ ({ g with bad := some 3 } : GatherRec).bad = some 3) ∧
    (∀ op ∈ [0, 6], let r := both2 op
     let s := pair2 r r
     (s.ctx 0).colls.find? (fun r => r.st == .pending) = some r ∧ s.collReady 0 r = true ∧ s.collUnion 0 r = [0, 1] ∧
     s.joined 0 r.level r.ordinal = some r ∧ s.joined 1 r.level r.ordinal = some r ∧ r.agrees r = true ∧ r.bad = none ∧
     (0 : Nat) ∈ r.members ∧ ([0, 1].map tileOf).Nodup ∧ Memory.wf (s.tile 1).sp = true ∧ s.rootOf r = some 0) := by decide +kernel
def drainOf (accd : Bool) : DrainRec := ⟨1, false, true, accd, 0, false, 2 ^ 63 + 0x1000, 512, 512, [(0, 0x3F800000), (1, 5)], 0, .idle, []⟩
theorem wit_drainPush :
    (let s := one { task with drains := [drainOf true] }
     s.drainBlocked 0 (s.ctx 0) (drainOf true) = false ∧ engIsSp (drainOf true).base = true ∧ Memory.wf (s.tile 0).sp = true ∧
     (s.tile 0).firstBad [(0x1000, 512)] = none ∧ ((engSp (2 ^ 63 + 0x1000) : Int) + 0 * 512).toNat = 0x1000) ∧
    ∀ b ∈ [(0x10000, 512), (0x20000, 4096)], let d := { drainOf true with base := b.1 }
      let x : Ctx := { paged [] with drains := [d] }
      let s := served' 1 (keyed (one x))
      let nd := s.rangeNeed x true true (b.1 + 0 * 512 : Int) b.2
      s.drainBlocked 0 x d = false ∧ engIsSp d.base = false ∧ x.accdRow (b.1 + 0 * 512 : Int) = b.2 ∧ nd.fault = none ∧
      nd.holds false = false ∧ s.admitted 0 (some d.seq) nd = true ∧
      x.placeOf 0 .virt (b.1 + b.2 - 1) = some (0, b.1 + 0x1F0000 + b.2 - 1) := by decide +kernel
theorem test_drainAdd : ends (exec (.drainPushPerform 0) (one { task with drains := [drainOf true] } [(0x1002, 0x80#8), (0x1003, 0x3F#8)]))
    (fun t => decide (readLE (t.tile 0).sp 0x1000 4 = 0x40000000 ∧ (t.ctx 0).drains.map (·.rows) = [[(1, 5)]])) = true := by
  decide +kernel
/-- A program page at 0x10000, and an overlay segment of 64 bytes there. -/
def overlaid : Ctx :=
  { task with segtab := BitVec.ofNat 49 (2 ^ 48), segs := [(0x10000, 0), (0x10000, 64)], ovCopy := some ⟨0, 1, false, 7⟩
              window := [(0, page 0x10000 0 2 0x200000)] }
theorem wit_overlay : let s : State := { keyed (one overlaid) with tickets := [⟨0, some 7, 0, []⟩] }
    let nd := s.rangeNeed overlaid true false 0x10000 64
    overlaid.segImage 1 = (0x10000, 64) ∧ pickFault (overlaid.rangeFaults .fetch 0x10000 64 0 1) = none ∧ nd.fault = none ∧
    nd.holds true = false ∧ s.admitted 0 (some 7) nd = true ∧ Memory.wf overlaid.imem = true := by decide +kernel

/-- A MIGRATE of the 64 KiB page at 0x200000 to 0x210000. -/
def migrating (low new : Nat) : State :=
  { packed 4 2 low [0x240000, new, 0x200000] with
    ctxs := [(0, { task with tenant := 1, window := [(0, page 0x10000 0 0 0x240000)] })] }
theorem wit_migrate :
    (let s := migrating (2 ^ 24 * 16) 0x250000
     stands s 4 (fun p => !s.migrateFieldBad 1 p && !s.migrateRefused 1 p && s.isHome (s.migrateReads p)) = true ∧
     s.migrations.any (fun m => m.fn == 1) = false) ∧
    (let s := migrating (2 ^ 24 * 16) 0x250040
     stands s 4 (fun p => !s.migrateFieldBad 1 p && s.migrateRefused 1 p && s.isHome (s.migrateReads p)) = true) ∧
    (let s := migrating (2 ^ 24 * 15) 0x250000; stands s 4 (s.migrateFieldBad 1) = true) := by decide +kernel
def moving : Migration := ⟨1, 4, 0, 0x240000, 0x250000, 16, [0x200100], false, false⟩
theorem wit_migrationMoves : let s : State := { migrating 0 0 with migrations := [moving] }
    s.migrations.filter (fun m => !m.marked) = [moving] ∧
    (let m := { moving with marked := true }
     let s : State := { migrating 0 0 with migrations := [m] }
     s.migrations.find? (fun m => m.fn == 1 && m.marked && !m.copied) = some m ∧ s.unused m.old m.lsize = true ∧
     s.hostCopies m.old (pageBytes 16) = [] ∧ s.hostCopies m.new (pageBytes 16) = [] ∧ Memory.wf s.dev = true) ∧
    (let m := { moving with marked := true, copied := true }
     let s : State := { migrating 0 0 with migrations := [m] }
     s.migrations.find? (fun m => m.fn == 1 && m.copied) = some m ∧ (s.entryNeed m.entries).snoops = [] ∧
     ({ s with snoop := [(0x200100 / 64, false)] } : State).entryNeed m.entries ≠ s.entryNeed m.entries ∧
     ({ s with snoop := [(0x200100 / 64, false)] } : State).entryNeed m.entries = { s.entryNeed m.entries with snoops := [(0x200100 / 64, true)] } ∧
     m.entries.Nodup ∧ ∀ a ∈ m.entries, a % 16 = 0) := by decide +kernel

/-! ### States that meet the hypotheses: the host, tenants, firmware, debugging, maintenance -/

theorem wit_hostMemory : let s := keyed State.reset
    s.hostBar 1 0x3FFFFF = none ∧ s.filterFull (0x3FFFFF / 64) = false ∧ s.hostBar 1 0x400000 = some .outside ∧
    s.hostBar 2 0x200000 = some .outside ∧ mfind s.frameKey (0x400000 / 2 ^ 21) = none ∧ mfind s.frameKey (0x200000 / 2 ^ 21) = some 1 ∧
    mfind s.keys 1 ≠ some 2 ∧ s.inCarveOut (0x200000 / 64) = false ∧
    ({ s with fwrange := some (0x200000, 0x200040) } : State).hostBar 1 0x20003F = some .carveOut ∧
    ({ s with fwrange := some (0x200000, 0x200040) } : State).inCarveOut (0x20003F / 64) = true ∧
    ({ s with fwrange := some (0x200000, 0x200040) } : State).hostBar 1 0x200040 = none ∧
    ({ s with linkUp := false } : State).hostBar 1 0x200000 = some .noCxl ∧
    ({ s with linkRate := 32000 } : State).hostBar 1 0x200000 = some .noCxl ∧
    s.linkUp = true ∧ s.linkRate = 64000 ∧ s.power = .d0 := by decide +kernel
theorem test_hostWrite : ends (exec (.hostMemWrite 1 0x200041 2#64 0xBBAA#512) (keyed State.reset))
    (fun t => decide (t.dev = [(0x200041, 0xBB#8)])) = true := by decide +kernel
theorem wit_caches : let s : State := { State.reset with
      snoop := [(5, true), (6, false)], backInv := [(5, ⟨true, 0⟩), (6, ⟨false, 0⟩)], fwPend := [(320, 9#8)]
      attic := [(7, ⟨.m, 3, [1]⟩)], atticReq := [(8, ⟨true, [1]⟩)] }
    mfind s.backInv 5 = some ⟨true, 0⟩ ∧ mfind s.backInv 6 = some ⟨false, 0⟩ ∧ mwf s.snoop = true ∧ mwf s.backInv = true ∧
    mwf s.fwPend = true ∧ s.inCarveOut 5 = false ∧ mfind s.attic 8 = none ∧ mfind s.attic 7 = some ⟨.m, 3, [1]⟩ ∧
    mwf s.attic = true ∧ Memory.wf s.hostMem = true ∧ mfind s.atticReq 8 = some ⟨true, [1]⟩ ∧ s.cxlUp = true ∧
    s.attic.length < 262144 ∧ Memory.wf s.dev = true ∧ s.power = .d0 ∧ ({ s with power := .d3hot } : State).power ≠ .d0 ∧
    ({ s with fwrange := some (320, 384) } : State).inCarveOut 5 = true := by decide +kernel

theorem keys_of_range {α : Type} (v : α) (n k : Nat) :
    mwf ((List.range' k n).map (fun i => (i, v))) = true ∧ mfind ((List.range' k n).map (fun i => (i, v))) (k + n) = none := by
  induction n generalizing k with
  | zero => simp [mwf, mfind]
  | succ n ih =>
    obtain ⟨hw, hf⟩ := ih (k + 1)
    have hk : k + 1 + n = k + (n + 1) := by omega
    refine ⟨(mwf_cons _ _ _).mpr ⟨?_, hw⟩, ?_⟩
    · intro p hp
      obtain ⟨i, hi, rfl⟩ := List.mem_map.mp hp
      exact (List.mem_range'_1.mp hi).1
    · rw [← hk]
      simp only [List.range'_succ, List.map_cons, mfind]
      rw [if_neg (by omega)]
      exact hf
/-- An attic that holds its 262,144 lines while another one arrives. -/
theorem wit_atticFull : let s : State := { State.reset with
      attic := (List.range' 0 262144).map (fun i => (i, ⟨.m, 3, [1]⟩)), atticReq := [(262144, ⟨true, [1]⟩)] }
    262144 ≤ s.attic.length ∧ mwf s.attic = true ∧ mfind s.attic 262144 = none ∧ Memory.wf s.hostMem = true ∧
    mfind s.atticReq 262144 = some ⟨true, [1]⟩ ∧ s.cxlUp = true ∧ s.power = .d0 := by
  refine ⟨?_, (keys_of_range _ _ 0).1, (keys_of_range _ 262144 0).2, rfl, rfl, rfl, rfl⟩
  show 262144 ≤ ((List.range' 0 262144).map _).length
  rw [List.length_map, List.length_range']
theorem wit_tenants : mwf State.reset.attic = true ∧ mwf (keyed State.reset).frameKey = true ∧ mwf State.reset.rings = true ∧
    State.reset.power = .d0 ∧ (one task).liveCtxs ≠ [] ∧ State.reset.liveCtxs = [] ∧
    State.reset.launches.any (fun p => p.2.st.placed') = false ∧ State.reset.snoop = [] ∧
    ({ State.reset with power := .d3hot } : State).power = .d3hot ∧ ({ State.reset with power := .off } : State).power = .off := by
  decide +kernel
theorem test_tenantReset : ends (exec (.tenantReset 1) { keyed (one (paged [])) with dev := [(0x200000, 1#8), (0x400000, 2#8)] })
    (fun t => decide ((mfind t.launches 0).map (·.st) = some .over ∧ t.keys = [] ∧ t.frameKey = [] ∧ t.keyGen = [(1, 1)] ∧ t.seals = [(1, ⟨1, []⟩)] ∧
      (t.ctx 0).life = .stopped)) = true := by decide +kernel
/-- A part whose firmware image is verified, with activation at a phase. -/
def updating (a : Activation) : State :=
  { State.reset with fwrange := some (0, 64), fwstatus := fwVerified, activation := a
                     launches := [(0, { fetchLaunch with cls := 2 })] }
theorem wit_firmware : State.reset.fwrange = none ∧ (updating .none).fwrange ≠ none ∧ State.reset.fwstatus ≠ fwVerified ∧
    (updating .none).fwstatus = fwVerified ∧ (updating .none).activation = .none ∧ (updating .prepared).activation = .prepared ∧
    (updating .prepared).quiesced = false ∧ (updating (.restarting 0)).activation = .restarting 0 ∧
    ({ State.reset with tenants := (List.range 96).map (fun i => (i + 1, { Tenant.reset with paused := some 0 })) } : State).quiesced = true ∧
    mfind (updating .none).launches 0 = some { fetchLaunch with cls := 2 } ∧ fetchLaunch.st = .running ∧
    ((updating .prepared).tenant 96).paused = none ∧ ({ Tenant.reset with paused := some 0 } : Tenant).paused ≠ none := by decide +kernel
theorem test_prepare : ends (exec .prepare (updating .none)) (fun t => decide (t.activation = .prepared ∧ t.hostOut.length = 96)) = true := by
  decide +kernel
theorem test_paused : ends (exec (.paused 1) (updating .prepared)) (fun t =>
    decide ((mfind t.launches 0).map (·.st) = some (.evicting 0) ∧ (t.tenant 1).paused = some 0)) = true := by decide +kernel
/-- A halted task under a consent until frame 9. -/
def debugging : State := { one { regs [(63, 7#64)] with dbg := true, halted := true } with consents := [⟨1, 0, 9⟩] }
theorem wit_debugger : debugging.debugged (debugging.ctx 0) = true ∧ (debugging.ctx 0).halted = true ∧ (one task).debugged task = false ∧
    ({ one { task with dbg := true } with consents := [⟨1, 0, 0⟩] } : State).debugged { task with dbg := true } = true ∧
    ({ task with dbg := true } : Ctx).atBoundary = true ∧ task.isLive = true ∧ fetchLaunch.fn = 1 ∧ fetchLaunch.tid = 0 ∧
    15 < (debugging.ctx 0).accCnt.toNat ∧ edlyOk 0x29#8 = true ∧ edlyOk 0x30#8 = false ∧
    (0x024 : Nat) < 0x1000 ∧ (63 : Nat) < 64 ∧ (255 : Nat) < 256 ∧ (7 : Nat) < 8 ∧ (31 : Nat) < 32 ∧
    8 * 511 < ({ Plane.zero with fmt := some 2 } : Plane).partBytes 0 ∧
    (let s : State := { debugging with cal := ⟨10, 0, none, 0, 0, false, false⟩ }
     (⟨1, 0, 9⟩ : Consent) ∈ s.consents ∧ 9 < s.cal.mfn) := by decide +kernel
theorem test_debugRead : ends (exec (.debugRegisterAccess 0 false 63 0#64) debugging) (fun t => decide (t.hostOut = [.debugValue 7#64]))
    = true := by decide +kernel
/-- A strict task before its first bundle, which waits for a frame boundary, on the planned boundary. -/
def atPlanned : State := { one { strictTask with imem := drainCode } with cycle := 8192 }
theorem wit_maintenance : State.reset.cal.ext = none ∧ 64 % 64 = 0 ∧ State.reset.cycle < State.reset.cal.planned ∧
    State.reset.cal.slip + State.reset.cal.slipNext + 4096 ≤ 4096 ∧ atPlanned.cal.planned ≤ atPlanned.cycle ∧
    atPlanned.cycle = atPlanned.cal.planned ∧ (atPlanned.ctx 0).isLive = true ∧ (atPlanned.ctx 0).strict = true ∧
    atPlanned.waitsBoundary 0 = true ∧ (match (atPlanned.ctx 0).fetch with | .bundle _ _ => true | _ => false) = true ∧
    (atPlanned.ctxs.map (·.1)).Nodup ∧ task.strict = false ∧
    mgetD State.reset.cskip 11 12 = 12 ∧ State.reset.spares.colDead.contains 11 = false ∧
    (let roles := State.reset.spares.cores
     roles[0]? = some .firmware ∧ roles[2]? = some .scheduler ∧ roles[8]? = some .spare ∧ (∀ j < 8, roles[j]? ≠ some .spare) ∧
     roles[9]? = none ∧ ((roles.set 8 .failed)[8]? = some .failed ∧ CoreRole.spare ∉ roles.set 8 .failed)) ∧
    mgetD State.reset.spares.rows 5 0 < 2 ∧ (5 : Nat) ∉ State.reset.spares.banks ∧ (5 : Nat) ∉ State.reset.spares.lanes ∧
    ({ State.reset with cal := ⟨0, 0, none, 0, 0, true, true⟩ } : State).cal.slot = true := by
  decide +kernel
/-- A strict task whose first bundle initialises a cell of a page in transit. -/
def atTransit : State :=
  { atPlanned with ctxs := [(0, { strictTask with
      imem := writeBytes [] 0 (encode ⟨⟨0x80#10, false, false, true, false, 1#8, 0, 0⟩, [(.c, .linit 1 2 0)]⟩)
      s := [(1, 0x20000#64), (2, 1#64)], window := [(1, page 0x20000 0 1 0x210000 + 0x200#128)] })] }
theorem wit_overrunTransit : atTransit.waitsBoundary 0 = true ∧ (match (atTransit.ctx 0).fetch with
    | .bundle b len => (atTransit.transitFault 0 b len).map (·.eaddr) == some 0x20000
    | _ => false) = true ∧ (match (atPlanned.ctx 0).fetch with
    | .bundle b len => (atPlanned.transitFault 0 b len).isNone
    | _ => false) = true := by decide +kernel
theorem test_overrun : ends (exec (.unannouncedExtension 64) atPlanned) (fun t =>
    decide ((t.ctx 0).rollback = some ⟨0x283, 0, 10, 0#32⟩ ∧ t.cal.next = 8256)) = true := by decide +kernel
/-- R310: an extension reported before the planned boundary takes effect there beside one on it. -/
theorem test_extensionsAdd : ends (exec (.unannouncedExtension 64) { atPlanned with cal := { atPlanned.cal with slipNext := 128 } })
    (fun t => decide (t.cal.slip = 192 ∧ t.cal.slipNext = 0 ∧ t.health.map (·.2) = [64])) = true := by decide +kernel
/-- R307: a rail goes on rising to a level that a standing vote needs when a higher vote leaves. -/
theorem test_railFollows : (⟨1, [(3, 700)]⟩ : Rail).follow 600 2 = ⟨1, [(2, 700)]⟩ ∧ (⟨1, []⟩ : Rail).follow 600 2 = ⟨1, [(2, 2000)]⟩ ∧
    (⟨1, [(2, 700)]⟩ : Rail).follow 600 3 = ⟨1, [(2, 700), (3, 2000)]⟩ := by decide
theorem wit_sweeps : let s : State := { State.reset with cal := ⟨16, 0, none, 0, 0, true, true⟩ }
    s.cal.mfn % 16 = 0 ∧ s.cal.slot = true ∧ s.power = .d0 ∧ mwf s.attic = true ∧ s.shedStep ≤ 2 ∧ s.calm ≠ 3 ∧
    ({ s with calm := 3, shedStep := 4 } : State).calm = 3 := by decide +kernel
theorem wit_sweepHot : Config.threshold 4 ≤ Config.threshold 4 ∧ 0 < Config.threshold 4 ∧ 0 + 5 < Config.threshold 1 ∧ 700 < 701 ∧
    679 < 680 ∧ Config.threshold 1 ≤ Config.threshold 1 ∧ Config.threshold 1 < Config.threshold 4 := by
  simp only [Config.threshold]; omega
theorem wit_refills : let s : State := { State.reset with
      refills := [(0, 0), (0, 1)], depth := [(0, 2), (1, 1)], tokens := [(0, 0), (1, 1)], pool := [(0, 1)], poolDepth := [(0, 3)] }
    ((0 : Nat), (0 : Nat)) ∈ s.refills ∧ ((0 : Nat), (5 : Nat)) ∉ s.refills ∧ s.bucket 0 < s.bucketTop 0 ∧ s.bucketTop 1 ≤ s.bucket 1 ∧
    s.poolOf 0 < s.poolTop 0 ∧ ({ s with pool := [(0, 3)] } : State).poolTop 0 ≤ ({ s with pool := [(0, 3)] } : State).poolOf 0 := by
  decide +kernel
/-- Requests wait at slice 0: an interactive one of plane 1 and one of class `cls` of plane 0. -/
def queueing (cls : Nat) (tk : Int) (pool : Nat) : State :=
  { State.reset with
    tickets := [⟨0, some 1, cls, [⟨0, [64]⟩]⟩, ⟨144, some 1, 0, [⟨0, [64]⟩]⟩], tokens := [(0, tk), (1, tk), (2, tk), (3, tk)], pool := [(0, pool)] }
theorem wit_tokens : (∀ p ∈ [(1, 0), (0, 1), (0, 0), (-4096, 0)], let s := queueing 1 p.1 p.2
      s.portChoice 0 = some (1, 0, 1) ∧ (s.waiting 0 1 0).isSome = true ∧ s.bucket 3 = p.1 ∧ s.poolOf 0 = p.2) ∧
    (let s := queueing 0 1 0; s.portChoice 0 = some (0, 0, 1) ∧ s.portChoice 0 ≠ some (1, 0, 1)) ∧
    (let s := { queueing 1 1 0 with tickets := [⟨0, some 1, 1, [⟨0, [64]⟩]⟩] }
     s.portChoice 0 = some (0, 1, 1) ∧ (s.waiting 0 0 1).isSome = true) ∧
    ({ queueing 1 0 0 with tickets := [⟨0, some 1, 1, [⟨0, [64]⟩]⟩] } : State).portChoice 0 = none := by decide +kernel

/-! ### States that meet the hypotheses: clauses on numbers, and clauses of several parts -/

/-- Operands of every kind, and lists whose sums hold a NaN, both infinities, one of them, or numbers alone. -/
theorem wit_operands : (XVal.nan true).isNan = true ∧ (XVal.fin true 3 2).isNan = false ∧ XVal.zero.isZero = true ∧
    (let dec := decodeFloat F32
     dec 0x7F800001 = .nan true ∧ dec 0x7F800000 = .inf false ∧ dec 0xFF800000 = .inf true ∧ dec 0x3F800000 = .fin false 8388608 (-23) ∧
     [0x3F800000, 0x40000000].length = 2 ^ (0 + 1)) := by decide +kernel
/-- R167, R162: both infinities, one of them, and a quiet NaN beside one. -/
theorem test_floatSums : reduceAll .add .f32 0 [0x7F800000, 0x3F800000, 0xFF800000] = (0x7FC00000, fINV) ∧
    reduceAll .add .f32 3 [0xFF800000, 0x3F800000] = (0xFF800000, 0#5) ∧
    reduceAll .add .f32 1 [0xFF800000, 0x7FC00000] = (0x7FC00000, 0#5) := by decide +kernel
/-- A block of MX e2m1 and one of AQ4 hybrid codes, each with a zero, an infinity and numbers; the second holds 7.5 * 2^X between
codes 5 and 6. -/
theorem wit_blocks :
    (let xs := [XVal.zero, .inf true, .fin false 7 0, .fin true 15 (-1)]
     xs.any XVal.isNan = false ∧ xs[3]? = some (.fin true 15 (-1)) ∧ 0 < 15 ∧ .e2m1 ∈ [ETy.s8, .e4m3, .e5m2, .e3m2, .e2m3, .e2m1] ∧
     ffmt .e2m1 = some (fmtOf .e2m1) ∧ (quantise 0 0 .e2m1 .rne (fun _ => 0) xs).1 = 127) ∧
    (let xs := [XVal.fin false 15 (-1), .fin false 12 0]
     (quantise 1 3 .s4 .rne (fun _ => 0) xs).1 % 64 = 32 ∧ 48 * 2 ^ ((-3 - (-1 - 0) : Int).toNat) ≤ 15 * 2 ^ ((-1 + 3 : Int).toNat) ∧
     15 * 2 ^ ((-1 + 3 : Int).toNat) < 64) := by decide +kernel
/-- R153, R154: 6 and 7.5 are clamped to 6 and -6 in MXFP4 with OVF and INX; the infinity sets SAT. -/
theorem test_quantise : quantise 0 0 .e2m1 .rne (fun _ => 0) [.zero, .inf true, .fin false 4 0, .fin true 15 (-1)] =
    (127, [0, 0xF, 6, 0xF], fSAT ||| fINX ||| fOVF) := by decide +kernel
/-- 3 is no power of two, and 1/3 lies between neighbours that round alike; 1/sqrt 2 likewise. 4, 1 and 1/2 are exact. -/
theorem wit_reciprocals :
    (decodeFloat F32 0x40400000 = .fin false 12582912 (-22) ∧ ∀ i, 12582912 ≠ 2 ^ i) ∧
    (let lo := 2 ^ 60 / 3
     roundArith F32 (.fin false lo (-60)) = roundArith F32 (.fin false (lo + 1) (-60)) ∧
     lo * 12582912 * 2 ^ (-60 + -22 : Int).toNat < 2 ^ (-(-60 + -22) : Int).toNat ∧
     2 ^ (-(-60 + -22) : Int).toNat < (lo + 1) * 12582912 * 2 ^ (-60 + -22 : Int).toNat) ∧
    (let lo := isqrt (2 ^ 119)
     decodeFloat F32 0x40000000 = .fin false (2 ^ 23) (-22) ∧
     roundArith F32 (.fin false lo (-60)) = roundArith F32 (.fin false (lo + 1) (-60)) ∧
     lo * lo * 2 ^ 23 * 2 ^ (2 * (-60) + -22 : Int).toNat < 2 ^ (-(2 * (-60) + -22) : Int).toNat ∧
     2 ^ (-(2 * (-60) + -22) : Int).toNat < (lo + 1) * (lo + 1) * 2 ^ 23 * 2 ^ (2 * (-60) + -22 : Int).toNat) ∧
    decodeFloat F32 0x3F000000 = .fin false (2 ^ 23) (-24) ∧ 2 * 2 ^ 23 = (2 * 0 + 1) * 2 ^ 24 := by
  refine ⟨⟨by decide +kernel, fun i h => ?_⟩, by decide +kernel, by decide +kernel, by decide +kernel, by decide⟩
  have h24 : i < 24 := (Nat.pow_lt_pow_iff_right (by decide : 1 < 2)).mp (h ▸ by decide)
  have h23 : 23 < i := (Nat.pow_lt_pow_iff_right (by decide : 1 < 2)).mp (h ▸ by decide)
  omega
/-- R371: FLOG2 of 1 and of 1/8, FSIN of -2, FCOS of 1/2, FEXP2 of -150. -/
theorem test_specialExact : specialFn 2 F32 0x3F800000 = (0, 0#5) ∧ specialFn 2 F32 0x3E000000 = (0xC0400000, 0#5) ∧
    specialFn 7 F32 0xC0000000 = (0x80000000, 0#5) ∧ specialFn 8 F32 0x3F000000 = (0, 0#5) ∧
    specialFn 1 F32 0xC3160000 = (0, fUNF ||| fINX) := by decide +kernel
theorem wit_accuracy : decodeFloat F32 0x3F000000 = .fin false (2 ^ 23) (-24) ∧ ETy.f32.isF = true ∧ (∀ y : ℝ, (2 : ℝ) ^ y ≠ 0) :=
  ⟨by decide +kernel, rfl, fun y => (Real.rpow_pos_of_pos two_pos y).ne'⟩
/-- Cells with a number, one of them beyond the range of f32. -/
theorem wit_cellReads : let k : Cell := { Cell.fresh with init := true, int := 3 }
    k.init = true ∧ k.nan = false ∧ k.pinf = false ∧ k.ninf = false ∧ k.ovf = false ∧ k.gx = false ∧ k.int % 2 ^ 216 ≠ 0 ∧
    ({ k with int := 2 ^ 200 } : Cell).int % 2 ^ 216 ≠ 0 := by decide
/-- R224: 3 * 2^-1 is 1.5, and 2^200 gives the largest f32. -/
theorem test_cellReads : ({ Cell.fresh with init := true, int := 3 } : Cell).read (-1) = 0x3FC00000 ∧
    ({ Cell.fresh with init := true, int := 2 ^ 216 - 2 ^ 200 } : Cell).read 0 = 0xFF7FFFFF := by decide +kernel
theorem wit_nodes : (0x7FC00000 : Nat) < 2 ^ 32 ∧ 0x7F800000 < 0x7FC00000 % 2 ^ 31 ∧ ¬ 0x7F800000 < 0xFF800000 % 2 ^ 31 ∧
    (addRound F32 0x7F7FFFFF 0x7F7FFFFF).1 = 0x7F800000 ∧ decodeFloat F32 0xFF800000 = .inf true ∧
    decodeFloat F32 0x7FC00000 = .nan false := by decide +kernel
/-- R245: an accumulator element with an infinity, drained to e4m3 with clamp. -/
theorem wit_drainClamp : let s : State := { hand task with tiles := [(0, { Tile.reset with acc := [(0, 0x7F800000#4096)] })] }
    s.issue.prof = 0 ∧ decodeFloat F32 (elem (s.tl.accRow 0 0) 32 0) = .inf false ∧ (ETy.e4m3, 0x7E) ∈ [(ETy.e4m3, 0x7E)] ∧
    s.mdrnElem 3 0 true 0 0 = (0x7E, fSAT) := by decide +kernel

/-- An update that waits while a later store has taken one of its bytes: byte 0x1000 held 1. -/
def keptByte : Kept := ⟨0x1000, 1#8, 5, true⟩
theorem wit_keptUpdates :
    (let d := { drainOf true with kept := [keptByte] }
     let s := one { task with drains := [d] }
     s.drainBlocked 0 (s.ctx 0) d = false ∧ (s.tile 0).firstBad [(0x1000, 512)] = none ∧
     d.kept.find? (fun k => k.at' == 0x1000) = some keptByte ∧ d.kept.find? (fun k => k.at' == 0x1001) = none) ∧
    (let r := { atomicAt .sp 4 0x1000 with src := 0x2000, kept := [keptByte] }
     let s := one { task with recs := [r] }
     (s.ctx 0).headRec 0 = some r ∧ s.recBlocked 0 (s.ctx 0) r = false ∧ (s.tile 0).firstBad [(r.dst, r.width)] = none ∧
     Memory.wf (s.tile 0).sp = true ∧ r.nores = false) := by decide +kernel
/-- R200: a KIND 4 record onto its own tile adds 5 to what its word held before a later store of 9, which stands over the sum. -/
theorem test_keptAtomic : ends (exec (.remoteAtomicPerform 0 0)
      (one { task with recs := [{ atomicAt .sp 4 0x1000 with src := 0x2000, kept := [keptByte] }] } [(0x1000, 9#8)]))
    (fun t => decide (readLE (t.tile 0).sp 0x1000 8 = 9 ∧ readLE (t.tile 0).sp 0x2000 8 = 1)) = true := by decide +kernel
/-- A store keeps the byte that it takes from an update still to come. -/
theorem test_storeKeeps : ends (exec (.st .w8 2 1 0#9 0)
      (hand { regs [(1, 0x1000#64), (2, 9#64)] with drains := [drainOf true] } [(0x1000, 1#8)]))
    (fun t => decide (mread t.tl.sp 0x1000 = 9#8 ∧ t.cx.drains.map (·.kept) = [[⟨0x1000, 1#8, 0, true⟩]])) = true := by decide +kernel

/-- A KIND 4 record at another tile: CAS of 64 bits without a result. -/
theorem wit_atomicRecord :
    let s := hand { regs [(1, 0x1000#64)] with region := 0x1000#19 } (rec0 0x1000 4 0 2 0 [0x3000, 0x2000, 0b101111, 1, 0, 7, 9])
    let r := rawRec s.issue.sp0 0x1000
    s.cx.spOk 0x1000 64 = true ∧ r.bad s.cx = false ∧ r.kind = 4 ∧ r.dsp = 2 ∧
    (s.cx.resolveTile s.issue.ctx r.tileWord).isSome = true ∧ s.cx.spBadRange r.spRanges = none := by decide +kernel
/-- Rows of four bytes that lie one after the other write each word whole. -/
theorem wit_wholeWords : let r := { sent with kind := 1, n0 := 4, n1 := 2, ss1 := 4, ds1 := 4 }
    (r.kind ≤ 3 ∧ r.conv = false ∧ 0 < r.n2) ∧ (List.range 8).all (fun i => (List.range r.n1).any (fun q => (List.range r.n0).any (fun b =>
      decide ((r.dst : Int) + q * r.ds1 + b = 8 * 0x400 + i ∧ (r.src : Int) + q * r.ss1 + b = 8 * 0x200 + i)))) = true := by decide +kernel
/-- A stop whose drain maps lie in a frame that has been marked unassigned. -/
theorem wit_mapReach : let x : Ctx := { task with imem := drainCode, tenant := 1, drainMapAt := 0x210000, drainStarts := [0] }
    let s := { leaving x with frameKey := [] }
    s.stopPoint 0 = true ∧ s.isHome x.mapTable = true ∧ s.outOfReach x.tenant x.mapTable = some 0x210000 := by decide +kernel
/-- A drain map that names s1, q1 and 64 bytes of the scratchpad from 0x1000 on. -/
def mapped : State :=
  { leaving { task with imem := drainCode, tenant := 1, pc := 0#32, drainMapAt := 0x220000, drainStarts := [0], q := 2#8, s := [(1, 7#64)] } with
    dev := writeLE [] 0x220040 64 (2 + 2 ^ 128 * 2 + 2 ^ 256 * (0x40 + 2 ^ 16))
    tiles := [(0, { Tile.reset with sp := [(0x1000, 5#8)] })] }
theorem wit_stopGroups : let x := mapped.ctx 0
    mapped.stopPoint 0 = true ∧ mapped.outOfReach x.tenant x.mapTable = none ∧ Memory.wf mapped.dev = true ∧
    (match mapped.stopMap x with
     | some (i, mm) => decide (i = 0 ∧ (mapS mm)[0]? = some 1 ∧ mapQ mm = 2 ∧ (mapRanges mm)[0]? = some (0x1000, 64) ∧ mapV mm = [] ∧
         mapWA mm = false)
     | none => false) = true ∧ ({ Plane.zero with fmt := some 2 } : Plane).fmt = some 2 := by decide +kernel
/-- R293: the groups of the record stand one after the other, each from a multiple of 64. -/
theorem test_stopGroups : ends (exec (.evictionStop 0) mapped) (fun t => decide ((t.ctx 0).life = .evicted ∧
    readLE t.dev 0x210400 8 = 7 ∧ readLE t.dev 0x210440 1 = 2 ∧ readLE t.dev 0x210480 64 = 5 ∧ readLE t.dev 0x210000 4 = 0x4C0)) = true := by
  decide +kernel
/-- An entry of the page that a migration moves, in a table that a launch loads. -/
theorem wit_loadedEntry : let m : Migration := { moving with marked := true }
    let e := 1 + 2 ^ 9 + 7 * 2 ^ 16 + 16 * 2 ^ 19 + 0x240000 / 2 ^ 16 * 2 ^ 64
    let s : State := { waiting with dev := writeLE [] queuedLaunch.wtabAddr 16 e, migrations := [m] }
    (0, e) ∈ usedEntries (s.tableImage queuedLaunch.wtabAddr) ∧ m ∈ s.migrations ∧ m.marked = true ∧ entAt e m.old m.lsize = true := by
  decide +kernel
/-- A filter that holds all its entries, and a read that waits for one of them. -/
theorem wit_filterFull :
    (let s : State := { State.reset with
       keys := [(1, 1)], frameKey := [(32, 1)], snoop := (List.range' 0 1048576).map (fun i => (i, false)) }
     s.hostBar 1 (64 * 1048576) = none ∧ (mfind s.snoop 1048576).isNone = true ∧ 1048576 ≤ s.snoop.length ∧ s.backInv = []) ∧
    (let s : State := { keyed State.reset with
       snoop := [(0x8000, false)], backInv := [(0x8000, ⟨true, 0⟩)], hostReads := [(1, 0x200040, true)] }
     mfind s.backInv 0x8000 = some ⟨true, 0⟩ ∧ mfind s.snoop 0x8000 = some false ∧ s.fwPend = [] ∧
     s.hostBar 1 0x200040 = none ∧ s.filterFull (0x200040 / 64) = false) := by
  refine ⟨⟨by rfl, ?_, ?_, rfl⟩, by decide +kernel⟩
  · have h := (keys_of_range false 1048576 0).2
    simp only [Nat.zero_add] at h
    simp [h]
  · show 1048576 ≤ ((List.range' 0 1048576).map _).length
    rw [List.length_map, List.length_range']
/-- The wait of a FENCE that 0x282 finds, and the ERET after it. -/
theorem wit_savedWait : let x : Ctx := { served with drainCount := 4097, wait := .fence 255 3 }
    x.atBoundary = true ∧ x.limit.toNat < x.drainCount ∧ x.ending = none ∧ x.svcv = true ∧ x.svcMode = false := by decide +kernel
theorem test_savedWait :
    ends (exec (.drainLimitExceeded 0) (one { served with drainCount := 4097, wait := .fence 255 3 })) (fun t =>
      decide ((t.ctx 0).wait = .none ∧ (t.ctx 0).savedWait = .fence 255 3 ∧ (t.ctx 0).ecause = 0x282#12)) = true ∧
    ends (exec .eret (hand { task with svcMode := true, savedWait := .fence 255 3 })) (fun t =>
      decide (t.cx.wait = .fence 255 3 ∧ t.cx.savedWait = .none)) = true := by decide +kernel
/-- The last arrival of a domain less than 40 cycles ago. -/
theorem wit_releaseEarly : let x : Ctx := { task with wait := .hold ⟨3, 255, 0#18, 0, 0, [0]⟩ }
    let s : State := { one x with cycle := 39 }
    (s.ctx 0).wait = .hold ⟨3, 255, 0#18, 0, 0, [0]⟩ ∧ s.lastArrival 0 ⟨3, 255, 0#18, 0, 0, [0]⟩ = some 0 ∧ s.cycle < 0 + 40 ∧
    ∀ a, task.wait ≠ .hold a := by
  refine ⟨rfl, by decide +kernel, by decide, fun a h => by cases h⟩
/-- R263: MMUL reads a row of bank 0 on the next cycle; an atomic that would reserve that bank raises 0x102. -/
theorem test_atomicHeld : ends (exec (.aadd 3 1 2 false 0)
      (hand { regs [(1, 0#64), (2, 1#64)] with matOps := [{ landing .mmul with issue := 0, rows := 1, sa := 0 }] }))
    (fun t => decide (t.issue.raised.map (·.code) = some 0x102)) = true := by decide +kernel
/-- Host-cache lines that are held, and a fallback page, for aligned atomics. -/
theorem wit_atomicLines : let r := atomicAt .virt 6 0x40008
    let x : Ctx := { paged [] with recs := [r] }
    let s : State := { one x with attic := [(0x60008 / 64, ⟨.e, 0, []⟩)] }
    (match x.pageOf r.dst with
     | some e => decide (entPhys e r.dst % r.width = 0 ∧ (mfind s.attic (entPhys e r.dst / 64)).isSome = true)
     | none => false) = true ∧ (r.newWord 3).isSome = true := by decide +kernel
/-- A gather that waits for an answer, and one whose attic lines alone are still to come. -/
theorem wit_gatherLate : let g : GatherRec := { gathered none with addrs := [some 0x30000], host := .waiting 0 }
    let x : Ctx := { paged [] with gathers := [g] }
    let s : State := { one x with cycle := 22400000 }
    x.headGather = some g ∧ (s.gatherNeed x g).answer = true ∧ 0 + s.timeout ≤ s.cycle ∧
    (let g : GatherRec := { gathered none with addrs := [some 0x40000], host := .waiting 0 }
     let x : Ctx := { paged [] with gathers := [g] }
     let held : State := { s with ctxs := [(0, x)], attic := [(0x60000 / 64, ⟨.e, 0, []⟩)] }
     (held.gatherNeed x g).answer = false ∧ (held.gatherNeed x g).lines = [] ∧ held.lateSnoops (held.gatherNeed x g) = []) := by
  decide +kernel
theorem wit_keyLost : let s := keyed State.reset
    mfind s.frameKey 1 = some 1 ∧ mfind s.keys 1 = some 1 ∧ mfind s.seals 1 = none ∧ 1 < 128 ∧ s.hostReads = [] := by decide

/-! ### States that meet the hypotheses: encodings and the machine as a whole -/

theorem wit_roundTrip : wfIn .sa (.add 63 0 63) = true ∧ (0x01000000 : Nat) < 2 ^ 32 ∧
    decodeWord .sa 0x01000000 = .ok (.add 0 0 0) := by decide +kernel
/-- A bundle of one word in slot SA, and its first byte of the header struck. -/
def addBundle : Bundle := ⟨⟨1#10, false, false, false, false, 1#8, 0x3FFF, 3⟩, [(.sa, .add 1 2 3)]⟩
theorem wit_bundles : addBundle.words.map (·.1) = presSlots addBundle.hdr.pres ∧ (∀ p ∈ addBundle.words, wfIn p.1 p.2 = true) ∧
    addBundle.hdr.stamp < 2 ^ 14 ∧ addBundle.hdr.prof < 4 ∧ 8 ≤ (encode addBundle).length ∧
    bundleLen (headerOf (leNat ((encode addBundle).take 8))).pres ≤ (encode addBundle).length ∧
    (encode addBundle).getD 7 0#8 = chkOf ((encode addBundle).take 12) ∧ leNat ((encode addBundle).take 8) / 2 ^ 10 % 2 ^ 14 = 0 ∧
    ((encode addBundle).take 11).length < bundleLen (headerOf (leNat ((encode addBundle).take 8))).pres := by decide +kernel
theorem wit_bundlesRefused : let bad := packBundle (headerVal ⟨1#10, false, false, false, false, 1#8, 0, 4⟩ 1) [0]
    let hdr := headerOf (leNat (bad.take 8))
    bad.getD 7 0#8 = chkOf (bad.take 12) ∧ 4 ≤ hdr.prof ∧ (presSlots hdr.pres)[0]? = some .sa ∧
    decodeWord .sa (leNat ((bad.drop 8).take 4)) = .error .unassigned ∧
    (let odd := packBundle (headerVal ⟨0#10, false, false, false, false, 1#8, 0, 0⟩ 0x400) []
     leNat (odd.take 8) / 2 ^ 10 % 2 ^ 14 ≠ 0) := by decide +kernel
theorem wit_machine : State.reset.memOk = true ∧ State.reset.logsOk = true ∧ registerWord (.add 1 2 3) = true ∧
    storingWord (.add 1 2 3) = false ∧ wfIn .mb (.ld .s64 1 2 0#12) = true := by decide +kernel
/-- The next step of a part whose next bundle is one ADD: its issue, and no check of the bundle fails. -/
theorem wit_stepRuns : let s := State.reset.withFetchWord 32 0x01041080
    let p : State := { (s.pollTile 0).watchTile 0 with issued := [0] }
    let ch := p.choose 0
    let v := (p.setTile 0 { p.tile 0 with
      holder := ch.holder, quantum := if ch.restart then 0 else (p.tile 0).quantum, expired := ch.expired
      yielded := ch.yielded, strictTook := if ch.strict then some (planeOf 0) else (p.tile 0).strictTook
      width := (((if ch.strict then some (planeOf 0) else (p.tile 0).strictTook) <|> ch.holder).map (fun n =>
        p.ctx (144 * n + 0))).bind (fun y => if y.isLive then some y.tenant else none) }).issueSamples 0
    let x := v.ctx 0
    s.pick = (some (.bundleIssue 0), s) ∧ s.issued.contains 0 = false ∧ ch.ctx = some 0 ∧ x.locate x.pc.toNat = .at' 0 0x20000 ∧
    x.pc.toNat % 4 = 0 ∧ x.annul = 0 ∧ x.svcMode = false ∧
    (match decodeBundle (x.avail 0 0x20000) with
      | .ok b => let ws := x.performs b
        decide ((x.headFault b.hdr) = none ∧ v.flagFault 0 b = none ∧
          ((inOrder ws).foldl State.word ((v.setCtx 0 (x.open' v.cycle b)).take 0 b (bundleLen b.hdr.pres) x.pc ws)).issue.raised = none)
      | .error _ => false) = true := by decide +kernel
/-- A step without an event left ends the cycle. -/
theorem wit_stepIdle : State.reset.pick.1 = none := by decide +kernel

end Sys2Proof.Tests
end

/-! SUPPORT. No step takes device memory, host memory or a scratchpad out of its canonical form. Each operation on the state has
one lemma, in the order in which the model builds them: an operation that writes no memory leaves `memOk` at its value
(an equation, for `simp`), and one that writes a memory keeps it true. Words, steps and the end of a cycle follow from these.
Equations that hold by definition are proved by `(rfl)`: a plain `rfl` would make them rules of `dsimp`, and `simp` then cannot
prove the side condition of `State.memOk_foldl` with them. -/

namespace Sys2Proof.Machine

/-! ### Canonical memories (R5, R169, R192) -/

/-- The fields that `memOk` reads. Unfolded and folded again, it drops a record update of any other field. -/
theorem State.memOk_def (s : State) :
    s.memOk = (Memory.wf s.dev && Memory.wf s.hostMem && s.tiles.all (fun p => Memory.wf p.2.sp)) := rfl

/-- `memOk`, part by part. -/
theorem State.memOk_iff (s : State) : s.memOk = true ↔
    Memory.wf s.dev = true ∧ Memory.wf s.hostMem = true ∧ ∀ p ∈ s.tiles, Memory.wf p.2.sp = true := by
  simp [State.memOk, List.all_eq_true, and_assoc]

theorem State.wf_dev {s : State} (h : s.memOk = true) : Memory.wf s.dev = true := ((State.memOk_iff s).mp h).1
theorem State.wf_hostMem {s : State} (h : s.memOk = true) : Memory.wf s.hostMem = true := ((State.memOk_iff s).mp h).2.1

theorem State.wf_tiles {s : State} (h : s.memOk = true) : ∀ p ∈ s.tiles, Memory.wf p.2.sp = true :=
  ((State.memOk_iff s).mp h).2.2

theorem mem_of_mfind {α : Type} {m : AMap α} {n : Nat} {x : α} (h : mfind m n = some x) : (n, x) ∈ m := by
  induction m with
  | nil => simp [mfind] at h
  | cons p m ih =>
    obtain ⟨k, v⟩ := p
    simp only [mfind] at h
    split at h
    · rename_i hk
      simp_all
    · exact List.mem_cons_of_mem _ (ih h)

/-- The scratchpad of every tile, listed or not. -/
theorem State.wf_sp {s : State} (h : s.memOk = true) (t : Nat) : Memory.wf (s.tile t).sp = true := by
  unfold State.tile mgetD
  cases ht : mfind s.tiles t with
  | none => rfl
  | some x => exact State.wf_tiles h _ (mem_of_mfind ht)

/-- A store that changes no value that `f` sees at its key leaves `f` of all values. -/
theorem all_mput {α : Type} (f : α → Bool) (m : AMap α) (n : Nat) {x d : α} (hd : f d = true) (hx : f x = f (mgetD m n d)) :
    (mput m n x).all (fun p => f p.2) = m.all (fun p => f p.2) := by
  induction m with
  | nil => simpa [mput, mgetD, mfind, hd] using hx
  | cons p m ih =>
    obtain ⟨k, v⟩ := p
    simp only [mput]
    split
    · rename_i hlt
      have hm : f (mgetD ((k, v) :: m) n d) = true ∨ ((k, v) :: m).all (fun p => f p.2) = false := by
        unfold mgetD
        cases hf : mfind ((k, v) :: m) n with
        | none => exact .inl hd
        | some y =>
          by_cases hy : f y = true
          · exact .inl hy
          · exact .inr (List.all_eq_false.mpr ⟨_, mem_of_mfind hf, hy⟩)
      rw [List.all_cons, hx]
      rcases hm with hm | hm <;> simp [hm]
    · split
      · rename_i h1 h2
        subst h2
        simp_all [mgetD, mfind]
      · rename_i h1 h2
        have : mgetD ((k, v) :: m) n d = mgetD m n d := by simp [mgetD, mfind, Ne.symm h2]
        rw [List.all_cons, List.all_cons, ih (this ▸ hx)]

/-! ### Writing the memories -/

/-- A state whose three memories are canonical. -/
theorem State.memOk_of {t : State} (hd : Memory.wf t.dev = true) (hh : Memory.wf t.hostMem = true)
    (ht : ∀ p ∈ t.tiles, Memory.wf p.2.sp = true) : t.memOk = true :=
  (State.memOk_iff t).mpr ⟨hd, hh, ht⟩

/-- Device memory alone is new. -/
theorem State.memOk_newDev {s t : State} (h : s.memOk = true) (hd : Memory.wf t.dev = true) (hh : t.hostMem = s.hostMem)
    (ht : t.tiles = s.tiles) : t.memOk = true :=
  State.memOk_of hd (hh ▸ State.wf_hostMem h) (ht ▸ State.wf_tiles h)

/-- Host memory alone is new. -/
theorem State.memOk_newHostMem {s t : State} (h : s.memOk = true) (hh : Memory.wf t.hostMem = true) (hd : t.dev = s.dev)
    (ht : t.tiles = s.tiles) : t.memOk = true :=
  State.memOk_of (hd ▸ State.wf_dev h) hh (ht ▸ State.wf_tiles h)

theorem State.memOk_setTile {s : State} (h : s.memOk = true) (t : Nat) {x : Tile} (hx : Memory.wf x.sp = true) :
    (s.setTile t x).memOk = true := by
  have hd := State.wf_dev h
  have hh := State.wf_hostMem h
  refine State.memOk_of hd hh fun p hp => ?_
  rcases mem_mput hp with rfl | hp
  · exact hx
  · exact State.wf_tiles h p hp

theorem State.memOk_setTl {s : State} (h : s.memOk = true) {x : Tile} (hx : Memory.wf x.sp = true) :
    (s.setTl x).memOk = true := State.memOk_setTile h _ hx

/-- A tile that keeps its scratchpad. -/
@[simp] theorem State.memOk_setTile_sp (s : State) (t : Nat) (x : Tile) (hx : x.sp = (s.tile t).sp) :
    (s.setTile t x).memOk = s.memOk := by
  have := all_mput (fun x : Tile => Memory.wf x.sp) s.tiles t (x := x) (d := .reset) rfl (by rw [hx]; rfl)
  simp only [State.memOk, State.setTile, this]

@[simp] theorem State.memOk_setTl_sp (s : State) (x : Tile) (hx : x.sp = s.tl.sp) : (s.setTl x).memOk = s.memOk :=
  s.memOk_setTile_sp _ x hx

/-! ### Branches and loops -/

@[simp] theorem State.memOk_ite (c : Prop) [Decidable c] (a b : State) :
    (if c then a else b).memOk = if c then a.memOk else b.memOk := apply_ite State.memOk c a b

@[simp] theorem State.memOk_foldl {α : Type} (f : State → α → State) (xs : List α) (s : State)
    (hf : ∀ s x, (f s x).memOk = s.memOk) : (xs.foldl f s).memOk = s.memOk :=
  List.foldlRecOn (motive := fun t => t.memOk = s.memOk) xs f rfl fun t ht x _ => (hf t x).trans ht

/-- A loop whose every turn keeps the memories canonical keeps them so. -/
theorem State.memOk_foldl_of {α : Type} {f : State → α → State} (hf : ∀ s x, s.memOk = true → (f s x).memOk = true)
    (xs : List α) {s : State} (h : s.memOk = true) : (xs.foldl f s).memOk = true :=
  List.foldlRecOn xs f h fun s hs x _ => hf s x hs

/-! ### Operations that write no memory: registers, faults, the undo log -/

@[simp] theorem State.memOk_setCtx (s : State) (c : Nat) (x : Ctx) : (s.setCtx c x).memOk = s.memOk := (rfl)
@[simp] theorem State.memOk_setCx (s : State) (x : Ctx) : (s.setCx x).memOk = s.memOk := (rfl)
@[simp] theorem State.memOk_setTenant (s : State) (f : Nat) (x : Tenant) : (s.setTenant f x).memOk = s.memOk := (rfl)

@[simp] theorem State.memOk_raise (s : State) (code eaddr : Nat) : (s.raise code eaddr).memOk = s.memOk := by
  unfold State.raise
  split <;> rfl

@[simp] theorem State.memOk_raisePop (s : State) (code : Nat) : (s.raisePop code).memOk = s.memOk := by
  unfold State.raisePop
  split <;> rfl

@[simp] theorem State.memOk_needUndo (s : State) (key : UKey) : (s.needUndo key).memOk = s.memOk := by
  unfold State.needUndo
  simp

@[simp] theorem State.memOk_needUndoNow (s : State) (key : UKey) (val : Nat) :
    (s.needUndoNow key val).memOk = s.memOk := by simp [State.needUndoNow]

@[simp] theorem State.memOk_pend (s : State) (lat : Nat) (d : Dst) (mask val : Nat) :
    (s.pend lat d mask val).memOk = s.memOk := (rfl)

@[simp] theorem State.memOk_writeS (s : State) (lat : Nat) (r : SReg) (v : Word) :
    (s.writeS lat r v).memOk = s.memOk := by simp [State.writeS]

@[simp] theorem State.memOk_writeQ (s : State) (lat : Nat) (r : QReg) (b : Bool) :
    (s.writeQ lat r b).memOk = s.memOk := by simp [State.writeQ]

@[simp] theorem State.memOk_writeV (s : State) (lat : Nat) (r : VReg) (c mask v : Nat) :
    (s.writeV lat r c mask v).memOk = s.memOk := (rfl)

@[simp] theorem State.memOk_writeK (s : State) (lat : Nat) (r : KReg) (c mask v : Nat) :
    (s.writeK lat r c mask v).memOk = s.memOk := by simp [State.writeK]

@[simp] theorem State.memOk_writeFlags (s : State) (lat : Nat) (f : Flags) :
    (s.writeFlags lat f).memOk = s.memOk := by simp [State.writeFlags]

@[simp] theorem State.memOk_advance (s : State) (taken : Option PAddr) (annuls : Bool) :
    (s.advance taken annuls).memOk = s.memOk := (rfl)

@[simp] theorem State.memOk_recordFailure (s : State) (l : Nat) (f : Failure) : (s.recordFailure l f).memOk = s.memOk := (rfl)
@[simp] theorem State.memOk_freeOwner (s : State) (c : Nat) : (s.freeOwner c).memOk = s.memOk := by simp [State.freeOwner]

@[simp] theorem State.memOk_failTask (s : State) (c reason code w2 w3 : Nat) :
    (s.failTask c reason code w2 w3).memOk = s.memOk := by simp [State.failTask]

@[simp] theorem State.memOk_deliver (s : State) (c cause eaddr eslot : Nat) (epc : PAddr) :
    (s.deliver c cause eaddr eslot epc).memOk = s.memOk := by simp [State.deliver]

@[simp] theorem State.memOk_takeFault (s : State) (c code eaddr eslot : Nat) (post : Bool) :
    (s.takeFault c code eaddr eslot post).memOk = s.memOk := by simp [State.takeFault]

@[simp] theorem State.memOk_health' (s : State) (kind data : Nat) : (s.health' kind data).memOk = s.memOk := (rfl)
@[simp] theorem State.memOk_tell (s : State) (m : HostMsg) : (s.tell m).memOk = s.memOk := (rfl)
@[simp] theorem State.memOk_count (s : State) (fn ctr width n : Nat) : (s.count fn ctr width n).memOk = s.memOk := (rfl)

@[simp] theorem State.memOk_writeImage (s : State) (lat : Nat) (d : VReg) (c : Nat) (im : Image) :
    (s.writeImage lat d c im).memOk = s.memOk := by simp [State.writeImage]

@[simp] theorem State.memOk_vecImages (s : State) (lat : Nat) (d : VReg) (img : Nat → Image) :
    (s.vecImages lat d img).memOk = s.memOk := by
  unfold State.vecImages
  split <;> simp

@[simp] theorem State.memOk_vecLoop (s : State) (lat : Nat) (d : VReg) (t : ETy) (k : KSel) (f : Nat → Nat → Nat × Flags) :
    (s.vecLoop lat d t k f).memOk = s.memOk := by simp [State.vecLoop]

@[simp] theorem State.memOk_vecPure (s : State) (lat : Nat) (d : VReg) (t : ETy) (k : KSel) (f : Nat → Nat → Nat) :
    (s.vecPure lat d t k f).memOk = s.memOk := by simp [State.vecPure]

@[simp] theorem State.memOk_maskLoop (s : State) (lat : Nat) (d : KReg) (t : ETy) (k : KSel) (f : Nat → Nat → Bool × Flags) :
    (s.maskLoop lat d t k f).memOk = s.memOk := by
  unfold State.maskLoop
  split <;> simp

@[simp] theorem State.memOk_maskWord (s : State) (d : KReg) (f : Nat → Nat) : (s.maskWord d f).memOk = s.memOk := by
  unfold State.maskWord
  split <;> simp

@[simp] theorem State.memOk_jumpReg (s : State) (v : Word) : (s.jumpReg v).memOk = s.memOk := by simp [State.jumpReg]

@[simp] theorem State.memOk_arith2 (s : State) (d a b : VReg) (t : ETy) (k : KSel) (lf li : Nat)
    (gf : XVal → XVal → XVal × Flags) (gi : Int → Int → Int) :
    (s.arith2 d a b t k lf li gf gi).memOk = s.memOk := by simp [State.arith2]

@[simp] theorem State.memOk_arith1 (s : State) (d a : VReg) (t : ETy) (k : KSel) (gf : XVal → XVal) (gi : Int → Int) :
    (s.arith1 d a t k gf gi).memOk = s.memOk := by simp [State.arith1]

@[simp] theorem State.memOk_logic2 (s : State) (d a b : VReg) (t : ETy) (k : KSel) (g : Nat → Nat → Nat) :
    (s.logic2 d a b t k g).memOk = s.memOk := by simp [State.logic2]

@[simp] theorem State.memOk_special (s : State) (op : Nat) (d a : VReg) (t : ETy) (k : KSel) :
    (s.special op d a t k).memOk = s.memOk := by simp [State.special]

@[simp] theorem State.memOk_writeWhole (s : State) (v : VReg) (img : Nat → Nat) : (s.writeWhole v img).memOk = s.memOk := by
  unfold State.writeWhole
  simp

@[simp] theorem State.memOk_pushed (s : State) (f : Nat → Ctx → Ctx) : (s.pushed f).memOk = s.memOk := (rfl)
@[simp] theorem State.memOk_enterCopy (s : State) (mk : Nat → CopyRec) : (s.enterCopy mk).memOk = s.memOk := (rfl)
@[simp] theorem State.memOk_xStart (s : State) (op : MatOp) : (s.xStart op).memOk = s.memOk := (rfl)

@[simp] theorem State.memOk_xStream (s : State) (acc : ATile) (op : MatOp) :
    (s.xStream acc op).memOk = s.memOk := by simp [State.xStream]

@[simp] theorem State.memOk_reserve (s : State) (bank : Nat) : (s.reserve bank).memOk = s.memOk := by simp [State.reserve]

@[simp] theorem State.memOk_startDrain (s : State) (phys rsel : Nat) : (s.startDrain phys rsel).memOk = s.memOk := by
  unfold State.startDrain
  exact (State.memOk_xStart _ _).trans (by simp)

@[simp] theorem State.memOk_sample (s : State) (c quantity v : Nat) :
    (s.sample c quantity v).memOk = s.memOk := by simp [State.sample]

@[simp] theorem State.memOk_endBlock (s : State) (c cycles : Nat) :
    (s.endBlock c cycles).memOk = s.memOk := by simp [State.endBlock]

@[simp] theorem State.memOk_dropTicket (s : State) (c : Nat) (seq : Option Nat) : (s.dropTicket c seq).memOk = s.memOk := (rfl)
@[simp] theorem State.memOk_reachLine (s : State) (fn ln : Nat) : (s.reachLine fn ln).memOk = s.memOk := (rfl)
@[simp] theorem State.memOk_fill (s : State) (fn : Nat) (t : Touch) : (s.fill fn t).memOk = s.memOk := (rfl)
@[simp] theorem State.memOk_cure (s : State) (pa n : Nat) : (s.cure pa n).memOk = s.memOk := (rfl)

@[simp] theorem State.memOk_writeCr (s : State) (num : Nat) (v : Word) : (s.writeCr num v).memOk = s.memOk := by
  unfold State.writeCr
  simp only [State.memOk_ite, State.memOk_raise, State.memOk_pend]
  cases (Dst.cr num).key <;> simp

/-! ### A word's checks: what follows runs on the same state, or a fault is raised -/

section
variable {s : State} {k : State → State} (h : s.memOk = true) (hk : (k s).memOk = true)
include h hk

theorem State.memOk_check (bad : Bool) (code eaddr : Nat) : (s.check bad code eaddr k).memOk = true := by
  simp [State.check, h, hk]

theorem State.memOk_gatePush : (s.gatePush k).memOk = true := by
  simp [State.gatePush, h, hk]

theorem State.memOk_gateRows (addrs : List Nat) : (s.gateRows addrs k).memOk = true := by
  simp [State.gateRows, h, hk]

theorem State.memOk_localCheck (rs : List (Int × Nat)) (off : Option Int) (both : Bool) (bank ecc : List (Nat × Nat) → Bool) :
    (s.localCheck rs off both bank ecc k).memOk = true := by
  unfold State.localCheck
  split
  · simp [h]
  · split <;> simp [h, hk]

theorem State.memOk_xOwn : (s.xOwn k).memOk = true := State.memOk_check h hk _ _ _

theorem State.memOk_xAcc (acc : ATile) : (s.xAcc acc k).memOk = true :=
  State.memOk_xOwn h (State.memOk_check h hk _ _ _)

theorem State.memOk_xReads (sa : Nat) (rs : List (Int × Nat)) (op : MatOp) : (s.xReads sa rs op k).memOk = true := by
  refine State.memOk_check h ?_ _ _ _
  split
  · simp [h]
  · split <;> simp [h, hk]

theorem State.memOk_checkParts (fs : List PartFault) : (s.checkParts fs k).memOk = true := by
  unfold State.checkParts
  split <;> simp [h, hk]

theorem State.memOk_checkSp (rs : List (Int × Nat)) : (s.checkSp rs k).memOk = true := by
  unfold State.checkSp
  split <;> simp [h, hk]

end

theorem State.memOk_xPair {s : State} {k : Nat → Nat → State → State} (h : s.memOk = true)
    (hk : ∀ a w, (k a w s).memOk = true) (bands : BitVec 4) : (s.xPair bands k).memOk = true := by
  unfold State.xPair
  split
  · simp [h]
  · exact State.memOk_check h (hk _ _) _ _ _

@[simp] theorem State.memOk_enterCells {s : State} (h : s.memOk = true) (colour : Nat) (op : CellOp) :
    (s.enterCells colour op).memOk = true := State.memOk_gatePush h h

/-! ### Stores to the scratchpad of the tile in hand (R192, R280) -/

@[simp] theorem State.memOk_storeBytes {s : State} (h : s.memOk = true) (bs : List (Nat × Byte)) :
    (s.storeBytes bs).memOk = true := by
  refine State.memOk_gateRows h ?_ _
  exact State.memOk_setTl (by simp [h]) (wf_foldl_mwrite _ _ _ (State.wf_sp h _))

@[simp] theorem State.memOk_gateTouch {s : State} (h : s.memOk = true) (a : Nat) :
    (s.gateTouch a).memOk = true := State.memOk_gateRows h (by simp [h]) _

@[simp] theorem State.memOk_atomic {s : State} (h : s.memOk = true) (op : AOp) (d a b : SReg) (w u : Bool) :
    (s.atomic op d a b w u).memOk = true := by
  refine State.memOk_localCheck h ?_ _ _ _ _ _
  simp only [State.memOk_reserve, State.memOk_writeS]
  split
  · exact State.memOk_storeBytes h _
  · exact State.memOk_gateTouch h _

@[simp] theorem State.memOk_vst {s : State} (h : s.memOk = true) (k : Nat) (d : VReg) (b : SReg) (off : BitVec 9) :
    (s.vst k d b off).memOk = true := by
  unfold State.vst
  split
  · exact h
  · refine State.memOk_localCheck h ?_ _ _ _ _ _
    exact State.memOk_storeBytes h _

/-! ### Device memory (R169, R181, R182, R319) -/

@[simp] theorem State.memOk_claim {s : State} (h : s.memOk = true) (sec : Nat) : (s.claim sec).memOk = true := by
  unfold State.claim
  split
  · exact h
  · exact State.memOk_newDev h (State.wf_text (State.wf_dev h) _ _) rfl rfl

@[simp] theorem State.memOk_claimRange {s : State} (h : s.memOk = true) (a n : Nat) : (s.claimRange a n).memOk = true := by
  unfold State.claimRange
  split
  · exact h
  · exact State.memOk_foldl_of (fun _ u hs => State.memOk_claim hs u) _ h

@[simp] theorem State.memOk_askBack (s : State) (sn : Nat × Bool) : (s.askBack sn).memOk = s.memOk := by
  unfold State.askBack
  split
  · split <;> rfl
  · rfl

@[simp] theorem State.memOk_voidCopies (s : State) (a n : Nat) : (s.voidCopies a n).memOk = s.memOk := by
  unfold State.voidCopies
  refine State.memOk_foldl _ _ _ fun s p => ?_
  exact State.memOk_askBack s _

@[simp] theorem State.memOk_flushFrame (s : State) (frame key : Nat) :
    (s.flushFrame frame key).memOk = s.memOk := State.memOk_voidCopies s _ _

@[simp] theorem State.memOk_sealFrame (s : State) (frame : Nat) : (s.sealFrame frame).memOk = s.memOk := by
  unfold State.sealFrame
  split <;> rfl

@[simp] theorem State.memOk_assignFrame (s : State) (frame key : Nat) : (s.assignFrame frame key).memOk = s.memOk := by
  unfold State.assignFrame
  show State.memOk (if _ then _ else _) = _
  simp

@[simp] theorem State.memOk_unassignFrame (s : State) (frame : Nat) :
    (s.unassignFrame frame).memOk = s.memOk := State.memOk_sealFrame s frame

@[simp] theorem State.memOk_bindKey (s : State) (key : Nat) (fn : Option Nat) : (s.bindKey key fn).memOk = s.memOk := by
  unfold State.bindKey
  show State.memOk (if _ then _ else _) = _
  split
  · rfl
  · refine State.memOk_foldl _ _ _ fun s f => ?_
    simp

@[simp] theorem State.memOk_fwByte {s : State} (h : s.memOk = true) (held : List Nat) (a : Nat) (b : Byte) :
    (s.fwByte held a b).memOk = true := by
  unfold State.fwByte
  split
  · exact h
  · have hc := State.memOk_claim h (a / 64)
    exact State.memOk_newDev hc (wf_mwrite _ _ (State.wf_dev hc)) rfl rfl

@[simp] theorem State.memOk_fwBytes {s : State} (h : s.memOk = true) (a : Nat) (bs : List Byte) :
    (s.fwBytes a bs).memOk = true := by
  simp only [State.fwBytes]
  split
  · have hc := State.memOk_claimRange h a bs.length
    exact State.memOk_newDev hc (wf_writeBytes _ _ (State.wf_dev hc)) rfl rfl
  · refine State.memOk_foldl_of (fun _ p hs => State.memOk_fwByte hs _ _ p.2) _ ?_
    simp [h]

@[simp] theorem State.memOk_fwWrite {s : State} (h : s.memOk = true) (a n v : Nat) :
    (s.fwWrite a n v).memOk = true := State.memOk_fwBytes h _ _

@[simp] theorem State.memOk_landPend {s : State} (h : s.memOk = true) (sec : Nat) : (s.landPend sec).memOk = true := by
  unfold State.landPend
  simp only [State.memOk_ite, State.memOk_cure, ite_self]
  have hc : State.memOk (if (s.fwPend.filter (fun p => p.1 / 64 == sec)).isEmpty then s else s.claim sec) = true := by
    simp [h]
  exact State.memOk_newDev hc (wf_foldl_mwrite _ _ _ (State.wf_dev hc)) rfl rfl

@[simp] theorem State.memOk_loseSector {s : State} (h : s.memOk = true) (sec : Nat) :
    (s.loseSector sec).memOk = true := State.memOk_landPend (by exact h) sec

@[simp] theorem State.memOk_hostData {s : State} (h : s.memOk = true) (sec : Nat) (data : BitVec 512) :
    (s.hostData sec data).memOk = true := by
  simp only [State.hostData]
  split
  · exact h
  · have hc := State.memOk_claim h sec
    have hd : State.memOk { s.claim sec with dev := writeLE (s.claim sec).dev (64 * sec) 64 data.toNat } = true :=
      State.memOk_newDev hc (wf_writeLE _ _ _ (State.wf_dev hc)) rfl rfl
    split
    · exact hd
    · exact hd

@[simp] theorem State.memOk_movePage {s : State} (h : s.memOk = true) (old new n : Nat) :
    (s.movePage old new n).memOk = true := by
  have hc := State.memOk_claimRange h new n
  exact State.memOk_newDev hc (wf_foldl_mwrite _ _ _ (wf_clearRange _ _ (State.wf_dev hc))) rfl rfl

/-! ### Host memory (R169, R320, R321) -/

@[simp] theorem State.memOk_writeBack {s : State} (h : s.memOk = true) (ln : Nat) (l : Line) :
    (s.writeBack ln l).memOk = true := by
  unfold State.writeBack
  split
  · exact State.memOk_newHostMem h (wf_writeLE _ _ _ (State.wf_hostMem h)) rfl rfl
  · exact h

@[simp] theorem State.memOk_dropLine {s : State} (h : s.memOk = true) (ln : Nat) : (s.dropLine ln).memOk = true := by
  unfold State.dropLine
  split
  · exact h
  · exact State.memOk_writeBack h _ _

@[simp] theorem State.memOk_atticSet (s : State) (fn a : Nat) (b : Byte) : (s.atticSet fn a b).memOk = s.memOk := by
  unfold State.atticSet
  split <;> rfl

@[simp] theorem State.memOk_snooped {s : State} (h : s.memOk = true) (ln : Nat) (invalidate : Bool) :
    (s.snooped ln invalidate).memOk = true := by
  unfold State.snooped
  split
  · exact h
  · simp only [State.memOk_def]
    simp only [← State.memOk_def]
    simp [h]

@[simp] theorem State.memOk_hostSet {s : State} (h : s.memOk = true) (a : Nat) (b : Byte) : (s.hostSet a b).memOk = true := by
  have hs : State.memOk (if (mfind s.attic (a / 64)).isSome then s.snooped (a / 64) true else s) = true := by simp [h]
  exact State.memOk_newHostMem hs (wf_mwrite _ _ (State.wf_hostMem hs)) rfl rfl

@[simp] theorem State.memOk_atticRoom {s : State} (h : s.memOk = true) (line : Nat) : (s.atticRoom line).memOk = true := by
  unfold State.atticRoom
  split
  · exact h
  · split
    · exact State.memOk_dropLine h _
    · exact h

@[simp] theorem State.memOk_dropLines {s : State} (h : s.memOk = true) (p : Line → Bool) :
    (s.dropLines p).memOk = true := State.memOk_foldl_of (fun _ q hs => State.memOk_dropLine hs q.1) _ h

/-! ### The virtual space (R165, R169) -/

@[simp] theorem State.memOk_vwrite {s : State} (h : s.memOk = true) (x : Ctx) (va : Nat) (b : Byte) :
    (s.vwrite x va b).memOk = true := by
  unfold State.vwrite
  split
  · exact h
  · rename_i e _
    split
    · have hc := State.memOk_claim h (entPhys e va / 64)
      exact State.memOk_newDev hc (wf_mwrite _ _ (State.wf_dev hc)) rfl rfl
    · exact State.memOk_hostSet h _ _
    · simp [h]

@[simp] theorem State.memOk_vwriteLE {s : State} (h : s.memOk = true) (x : Ctx) (va : Nat) (n : Nat) (v : Nat) :
    (s.vwriteLE x va n v).memOk = true := by
  induction n generalizing s va v with
  | zero => exact h
  | succ n ih => exact ih (State.memOk_vwrite h x va _) _ _

@[simp] theorem State.memOk_vcure (s : State) (x : Ctx) (va : Int) (n : Nat) : (s.vcure x va n).memOk = s.memOk := by
  refine State.memOk_foldl _ _ _ fun s p => ?_
  split
  · rfl
  · simp

@[simp] theorem State.memOk_cellPlus {s : State} (h : s.memOk = true) (x : Ctx) (va : Nat) (v : XVal) :
    (s.cellPlus x va v).memOk = true := State.memOk_vwriteLE h _ _ _ _

@[simp] theorem State.memOk_addAddends {s : State} (h : s.memOk = true) (x : Ctx) (r : CopyRec) (k : Nat) (n : Nat) :
    (s.addAddends x r k n).memOk = true := by
  induction n generalizing s k with
  | zero => exact h
  | succ n ih => exact ih (State.memOk_cellPlus h _ _ _) _

@[simp] theorem State.memOk_accdCells {s : State} (h : s.memOk = true) (x : Ctx) (d : DrainRec) (va es : Nat) :
    (s.accdCells x d va es).memOk = true := State.memOk_foldl_of (fun _ _ hs => State.memOk_cellPlus hs _ _ _) _ h

/-! ### Requests, tickets and the cache in front of device memory (R183 to R191) -/

@[simp] theorem State.memOk_enqueueAs (s : State) (c : Nat) (seq : Option Nat) (cls : Nat) (us : List Nat) :
    (s.enqueueAs c seq cls us).memOk = s.memOk := by
  unfold State.enqueueAs
  split <;> rfl

@[simp] theorem State.memOk_enqueue (s : State) (c : Nat) (seq : Option Nat) (nd : Need) :
    (s.enqueue c seq nd).memOk = s.memOk := State.memOk_enqueueAs s _ _ _ _

@[simp] theorem State.memOk_askLine (s : State) (fn : Nat) (ln : Nat × Bool) : (s.askLine fn ln).memOk = s.memOk := (rfl)
@[simp] theorem State.memOk_ask (s : State) (fn : Nat) (nd : Need) : (s.ask fn nd).memOk = s.memOk := by simp [State.ask]

@[simp] theorem State.memOk_fillAll (s : State) (fn : Nat) (nd : Need) :
    (s.fillAll fn nd).memOk = s.memOk := by simp [State.fillAll]

theorem State.memOk_withHome {s : State} {k : State → State} (h : s.memOk = true) (hk : (k s).memOk = true)
    (rs : List (Nat × Nat)) : (s.withHome rs k).memOk = true := by
  simp [State.withHome, h, hk]

@[simp] theorem State.memOk_hintPin (s : State) (fn : Nat) (u : HintUnit) : (s.hintPin fn u).memOk = s.memOk := (rfl)

@[simp] theorem State.memOk_hintUnit (s : State) (fn : Nat) (kind : PfhKind) (u : HintUnit) :
    (s.hintUnit fn kind u).memOk = s.memOk := by
  unfold State.hintUnit
  split
  · simp
  · simp
  · rfl

@[simp] theorem State.memOk_hintAdmit (s : State) (c : Nat) (seq : Option Nat) (secs : List Nat) :
    (s.hintAdmit c seq secs).memOk = s.memOk := by
  unfold State.hintAdmit
  split
  · rfl
  · exact State.memOk_foldl _ _ _ fun s u => State.memOk_hintUnit s _ _ u

@[simp] theorem State.memOk_hint (s : State) (kind : PfhKind) (ps : List Part) : (s.hint kind ps).memOk = s.memOk := by
  simp only [State.hint]
  split
  · simp
  · simp only [State.memOk_def]
    simp only [← State.memOk_def]
    simp

/-! ### Copies, cells and drains (R196 to R202, R243 to R264) -/

@[simp] theorem State.memOk_spSet {s : State} (h : s.memOk = true) (t a : Nat) (b : Byte) :
    (s.spSet t a b).memOk = true := State.memOk_setTile h t (wf_mwrite _ _ (State.wf_sp h t))

@[simp] theorem State.memOk_spWriteLE {s : State} (h : s.memOk = true) (t a n v : Nat) :
    (s.spWriteLE t a n v).memOk = true := State.memOk_setTile h t (wf_writeLE _ _ _ (State.wf_sp h t))

@[simp] theorem State.memOk_ownUpdate {s : State} (h : s.memOk = true) (c : Nat) (post : Bool) (ks : List Kept)
    (a n v : Nat) :
    (s.ownUpdate c post ks a n v).memOk = true := by
  unfold State.ownUpdate
  split
  · exact State.memOk_spWriteLE h _ _ _ _
  · refine State.memOk_foldl_of (fun s i hs => ?_) _ h
    split
    · simp [hs]
    · exact State.memOk_spSet hs _ _ _

@[simp] theorem State.memOk_dstByte {s : State} (h : s.memOk = true) (c : Nat) (x : Ctx) (r : CopyRec) (a : Nat) (b : Byte) :
    (s.dstByte c x r a b).memOk = true := by
  unfold State.dstByte
  split
  · exact State.memOk_spSet h _ _ _
  · exact State.memOk_spSet h _ _ _
  · exact State.memOk_vwrite h _ _ _

@[simp] theorem State.memOk_moveBytes {s : State} (h : s.memOk = true) (c : Nat) (x : Ctx) (r : CopyRec) (i : Nat) (n : Nat) :
    (s.moveBytes c x r i n).memOk = true := by
  induction n generalizing s i with
  | zero => exact h
  | succ n ih => exact ih (State.memOk_dstByte h c x r _ _) _

@[simp] theorem State.memOk_dstWord {s : State} (h : s.memOk = true) (c : Nat) (x : Ctx) (r : CopyRec) (i v : Nat) :
    (s.dstWord c x r i v).memOk = true := State.memOk_foldl_of (fun _ _ hs => State.memOk_dstByte hs c x r _ _) _ h

@[simp] theorem State.memOk_moveCells {s : State} (h : s.memOk = true) (c : Nat) (x : Ctx) (r : CopyRec) (i : Nat) (n : Nat) :
    (s.moveCells c x r i n).memOk = true := by
  induction n generalizing s i with
  | zero => exact h
  | succ n ih => exact ih (State.memOk_dstWord h c x r _ _) _

@[simp] theorem State.memOk_moveTo {s : State} (h : s.memOk = true) (c : Nat) (x : Ctx) (r : CopyRec) (i e : Nat) :
    (s.moveTo c x r i e).memOk = true := by simp [State.moveTo, h]

@[simp] theorem State.memOk_moveRec {s : State} (h : s.memOk = true) (c : Nat) (x : Ctx) (r : CopyRec) (e : Nat) :
    (s.moveRec c x r e).memOk = true := by
  simp only [State.moveRec]
  split
  · exact State.memOk_addAddends h x r _ _
  · simp [h]

@[simp] theorem State.memOk_failRec (s : State) (c : Nat) (r : CopyRec) (code eaddr : Nat) :
    (s.failRec c r code eaddr).memOk = s.memOk := (rfl)

@[simp] theorem State.memOk_countTo (s : State) (c : Nat) (r : CopyRec) (e : Nat) : (s.countTo c r e).memOk = s.memOk := (rfl)

@[simp] theorem State.memOk_finishRec (s : State) (c : Nat) (r : CopyRec) (io : Option Nat) :
    (s.finishRec c r io).memOk = s.memOk := by simp [State.finishRec]

@[simp] theorem State.memOk_partDone (s : State) (c : Nat) (r : CopyRec) (e : Nat) (counts more : Bool) :
    (s.partDone c r e counts more).memOk = s.memOk := by simp [State.partDone]

@[simp] theorem State.memOk_giveOld {s : State} (h : s.memOk = true) (c : Nat) (r : CopyRec) (old : Nat) :
    (s.giveOld c r old).memOk = true := by simp [State.giveOld, h]

@[simp] theorem State.memOk_virtAtomic {s : State} (h : s.memOk = true) (c : Nat) (x : Ctx) (r : CopyRec) :
    (s.virtAtomic c x r).memOk = true := by
  refine State.memOk_giveOld ?_ c r _
  split
  · exact State.memOk_vwriteLE h x _ _ _
  · exact h

@[simp] theorem State.memOk_atticAtomic {s : State} (h : s.memOk = true) (c : Nat) (x : Ctx) (r : CopyRec) (pa : Nat) :
    (s.atticAtomic c x r pa).memOk = true := by
  refine State.memOk_giveOld ?_ c r _
  split <;> simp [h]

@[simp] theorem State.memOk_giveAnswer {s : State} (h : s.memOk = true) (c : Nat) (r : CopyRec) (old : Nat) :
    (s.giveAnswer c r old).memOk = true := by simp [State.giveAnswer, h]

@[simp] theorem State.memOk_waitRec (s : State) (c : Nat) (r : CopyRec) (nd : Need) :
    (s.waitRec c r nd).memOk = s.memOk := by simp [State.waitRec]

section
variable {s : State} (c : Nat) (nd : Need) {k : State → State} (h : s.memOk = true)
  (hk : ∀ s : State, s.memOk = true → (k s).memOk = true)
include h hk

/-- A record's turn: a fault, a wait, or the work on a state in which only caches have moved. -/
theorem State.memOk_withNeed (r : CopyRec) : (s.withNeed c r nd k).memOk = true := by
  unfold State.withNeed
  split
  · simp [h]
  · split
    · simp [h]
    · exact hk _ (by simp [h])

theorem State.memOk_withCell (r : CellRec) : (s.withCell c r nd k).memOk = true := by
  unfold State.withCell
  split
  · simp [h]
  · split
    · exact h
    · split
      · simp [h]
      · exact hk _ (by simp [h])

end

/-! ### The end of a task, its faults and the rollback (R271 to R283) -/

@[simp] theorem State.memOk_undoRows {s : State} (h : s.memOk = true) (c : Nat) : (s.undoRows c).memOk = true := by
  refine State.memOk_setTile h _ ?_
  exact List.foldlRecOn (motive := fun m => Memory.wf m = true) _ _ (State.wf_sp h _) fun _ hm r _ => wf_writeMasked _ _ _ _ hm

@[simp] theorem State.memOk_refuseOne (s : State) (c : Nat) (src : EngSrc) (ln : Nat) :
    (s.refuseOne c src ln).memOk = s.memOk := by
  simp only [State.refuseOne]
  split
  · split <;> simp
  · split <;> simp
  · rfl

@[simp] theorem State.memOk_refuseLine (s : State) (ln : Nat) : (s.refuseLine ln).memOk = s.memOk := by simp [State.refuseLine]

/-! ### Records for the host, launches and queues (R296 to R301, R326 to R331) -/

@[simp] theorem State.memOk_record {s : State} (h : s.memOk = true) (fn kind reason tag code w1 w2 w3 : Nat) :
    (s.record fn kind reason tag code w1 w2 w3).memOk = true := by
  simp only [State.record]
  split
  · exact h
  · simp only [State.memOk_def]
    simp only [← State.memOk_def]
    exact State.memOk_fwWrite (State.memOk_fwWrite (State.memOk_fwWrite (State.memOk_fwWrite h _ _ _) _ _ _) _ _ _) _ _ _

@[simp] theorem State.memOk_followVotes (s : State) : s.followVotes.memOk = s.memOk := by
  refine State.memOk_foldl _ _ _ fun s r => ?_
  simp only
  split <;> rfl

@[simp] theorem State.memOk_launchRecord {s : State} (h : s.memOk = true) (l : Launch) : (s.launchRecord l).memOk = true := by
  unfold State.launchRecord
  split <;> simp [h]

@[simp] theorem State.memOk_completeLaunch {s : State} (h : s.memOk = true) (n : Nat) : (s.completeLaunch n).memOk = true := by
  unfold State.completeLaunch
  split
  · exact h
  · split
    · exact h
    · rw [State.memOk_followVotes, State.memOk_def]
      simp only [← State.memOk_def]
      simp [h]

@[simp] theorem State.memOk_refuseLaunch {s : State} (h : s.memOk = true) (n : Nat) (l : Launch) (reason : Nat) :
    (s.refuseLaunch n l reason).memOk = true := by
  simp only [State.refuseLaunch, State.memOk_def]
  simp only [← State.memOk_def]
  simp [h]

@[simp] theorem State.memOk_takeEngines (s : State) (l : Launch) (tasks : List Nat) :
    (s.takeEngines l tasks).memOk = s.memOk := by simp [State.takeEngines]

@[simp] theorem State.memOk_prepareAll (s : State) (n : Nat) (l : Launch) :
    (s.prepareAll n l).memOk = s.memOk := by simp [State.prepareAll]

@[simp] theorem State.memOk_takeTurn (s : State) (plane cls fn : Nat) : (s.takeTurn plane cls fn).memOk = s.memOk := (rfl)

@[simp] theorem State.memOk_acceptLaunch {s : State} (h : s.memOk = true) (n : Nat) (l : Launch) :
    (s.acceptLaunch n l).memOk = true := by
  unfold State.acceptLaunch
  split
  · simp [h]
  · have hs (ls : AMap Launch) : State.memOk { s with launches := ls } = true := h
    simp [hs]

theorem State.memOk_leaveL {s : State} {k : State → State} (h : s.memOk = true)
    (hk : ∀ s : State, s.memOk = true → (k s).memOk = true) (l : Launch) : (s.leaveL l k).memOk = true := by
  unfold State.leaveL
  rw [State.memOk_followVotes]
  exact hk _ (by simp [h])

/-- What happens at L: a refusal, a wait for a reply, or the start itself. -/
theorem State.memOk_atL {s : State} {away : Option (State → State)} {k : State → State} (h : s.memOk = true)
    (ha : ∀ f ∈ away, ∀ s : State, s.memOk = true → (f s).memOk = true)
    (hk : ∀ s : State, s.memOk = true → (k s).memOk = true) (n : Nat) (l : Launch) (nd : Need) :
    (s.atL n l nd away k).memOk = true := by
  unfold State.atL
  split
  · exact State.memOk_leaveL h (fun s hs => State.memOk_refuseLaunch hs _ _ _) l
  · split
    · exact State.memOk_leaveL h (ha _ rfl) l
    · split
      · exact h
      · split
        · simp [h]
        · exact hk _ (by simp [h])

@[simp] theorem State.memOk_loadSp {s : State} (h : s.memOk = true) (t lo size : Nat) (ims : List (Nat × Nat × Nat)) :
    (s.loadSp t lo size ims).memOk = true := by
  have hc := wf_clearRange lo size (State.wf_sp h t)
  refine State.memOk_setTile h t ?_
  exact List.foldlRecOn (motive := fun m => Memory.wf m = true) _ _ hc fun _ hm e _ => wf_writeBytes _ _ hm

@[simp] theorem State.memOk_clearAcc (s : State) (t base cnt : Nat) :
    (s.clearAcc t base cnt).memOk = s.memOk := by simp [State.clearAcc]

@[simp] theorem State.memOk_clearDebug (s : State) (t fn : Nat) :
    (s.clearDebug t fn).memOk = s.memOk := by simp [State.clearDebug]

@[simp] theorem State.memOk_startTile {s : State} (h : s.memOk = true) (l : Launch) (c : Nat) :
    (s.startTile l c).memOk = true := by simp [State.startTile, h]

@[simp] theorem State.memOk_countStart (s : State) (l : Launch) : (s.countStart l).memOk = s.memOk := by simp [State.countStart]
/-- The refusal for images that are out of reach keeps the memories canonical. -/
theorem State.memOk_imagesAway (s : State) (n : Nat) (l : Launch) :
    ∀ f ∈ s.imagesAway n l, ∀ u : State, u.memOk = true → (f u).memOk = true := by
  intro f hf u hu
  obtain ⟨a, -, rfl⟩ := Option.map_eq_some_iff.mp hf
  exact State.memOk_refuseLaunch hu _ _ _

@[simp] theorem State.memOk_startLaunch {s : State} (h : s.memOk = true) (n : Nat) (l : Launch) :
    (s.startLaunch n l).memOk = true := by
  have hs : (l.spots.foldl (fun (s : State) p => s.startTile l p.2.2) s).memOk = true :=
    State.memOk_foldl_of (fun s p hs => State.memOk_startTile hs _ _) _ h
  exact (State.memOk_countStart _ l).trans hs

@[simp] theorem State.memOk_cellarWrite {s : State} (h : s.memOk = true) (a : Nat) (bs : List Byte) :
    (s.cellarWrite a bs).memOk = true := by simp [State.cellarWrite, h]

@[simp] theorem State.memOk_requestEviction (s : State) (n : Nat) : (s.requestEviction n).memOk = s.memOk := by
  unfold State.requestEviction
  split
  · rfl
  · simp only
    split
    · rfl
    · refine (State.memOk_foldl _ _ _ fun s c => ?_).trans rfl
      simp

@[simp] theorem State.memOk_dropCopy (s : State) (c : Nat) : (s.dropCopy c).memOk = s.memOk := by
  unfold State.dropCopy
  split <;> simp

@[simp] theorem State.memOk_stopWith {s : State} (h : s.memOk = true) (c : Nat) (l : Launch) (m : Option (Nat × Nat)) :
    (s.stopWith c l m).memOk = true := by
  simp only [State.stopWith]
  split
  · simp [h]
  · simp only [State.memOk_def]
    simp only [← State.memOk_def]
    simp [h]

@[simp] theorem State.memOk_recordsDone (s : State) (l : Launch) :
    (s.recordsDone l).memOk = s.memOk := by simp [State.recordsDone]

@[simp] theorem State.memOk_freeRegion {s : State} (h : s.memOk = true) (n : Nat) (l : Launch) :
    (s.freeRegion n l).memOk = true := by
  simp only [State.freeRegion]
  rw [State.memOk_followVotes, State.memOk_def]
  simp only [← State.memOk_def]
  rw [State.memOk_foldl _ _ _ (by simp), State.memOk_recordsDone]
  exact State.memOk_foldl_of (fun s p hs => State.memOk_cellarWrite hs _ _) _ h

theorem wf_restoreSp (dev : Memory) (x : Ctx) (m a : Nat) {sp : Memory} (h : Memory.wf sp = true) :
    Memory.wf (restoreSp dev x m a sp) = true := by
  unfold restoreSp
  refine List.foldlRecOn (motive := fun p : Memory × Nat => Memory.wf p.1 = true) _ _ h fun p hp r _ => ?_
  refine List.foldlRecOn (motive := fun m => Memory.wf m = true) _ _ hp fun m hm i _ => ?_
  split
  · exact wf_mwrite _ _ hm
  · exact hm

@[simp] theorem State.memOk_restoreTile {s : State} (h : s.memOk = true) (l : Launch) (ry rx c : Nat) :
    (s.restoreTile l ry rx c).memOk = true := by
  have h0 : (((s.loadSp (tileOf c) l.spBase l.spSize []).clearAcc (tileOf c) l.accBase l.accCnt).clearDebug
      (tileOf c) l.fn).memOk = true := by simp [h]
  simp only [State.restoreTile]
  split
  · exact h0
  · rw [State.memOk_setCtx]
    exact State.memOk_setTile h0 _ (wf_restoreSp _ _ _ _ (State.wf_sp h0 _))

@[simp] theorem State.memOk_failResume {s : State} (h : s.memOk = true) (n : Nat) (l : Launch) (a : Nat) :
    (s.failResume n l a).memOk = true := by
  have hs (ls : AMap Launch) : State.memOk { s with launches := ls } = true := h
  simp [State.failResume, hs]

theorem State.memOk_recordsAway (s : State) (n : Nat) (l : Launch) :
    ∀ f ∈ s.recordsAway n l, ∀ u : State, u.memOk = true → (f u).memOk = true := by
  intro f hf u hu
  obtain ⟨a, -, rfl⟩ := Option.map_eq_some_iff.mp hf
  exact State.memOk_failResume hu _ _ _

@[simp] theorem State.memOk_acceptResume {s : State} (h : s.memOk = true) (n : Nat) (l : Launch) :
    (s.acceptResume n l).memOk = true := by
  unfold State.acceptResume
  split
  · exact State.memOk_failResume h _ _ _
  · split
    · simp [h]
    · split
      · simp [h]
      · have hs (ls : AMap Launch) : State.memOk { s with launches := ls } = true := h
        simp [hs]

@[simp] theorem State.memOk_setQueue (s : State) (fn q : Nat) (x : Queue) : (s.setQueue fn q x).memOk = s.memOk := (rfl)
@[simp] theorem State.memOk_pop (s : State) (fn q : Nat) (p : Packet) : (s.pop fn q p).memOk = s.memOk := (rfl)
@[simp] theorem State.memOk_placeQueue (s : State) (fn q base size : Nat) : (s.placeQueue fn q base size).memOk = s.memOk := (rfl)

@[simp] theorem State.memOk_haltQueue {s : State} (h : s.memOk = true) (fn q reason tag : Nat) :
    (s.haltQueue fn q reason tag).memOk = true := by simp [State.haltQueue, h]

@[simp] theorem State.memOk_setSetting (s : State) (reg f : Nat) (v : Nat) : (s.setSetting reg f v).memOk = s.memOk := by
  simp only [State.setSetting]
  split <;> simp

@[simp] theorem State.memOk_manage (s : State) (reg : Nat) (v : Nat) : (s.manage reg v).memOk = s.memOk := by
  simp only [State.manage]
  split
  · simp
  · simp
  · split <;> rfl
  · rfl
  · rfl
  · simp
  · simp

theorem State.memOk_runPacket {s : State} {k : Packet → State → State} (h : s.memOk = true)
    (hk : ∀ p, (k p s).memOk = true) (fn q type : Nat) (bad : Packet → Bool) :
    (s.runPacket fn q type bad k).memOk = true := by
  unfold State.runPacket
  split
  · exact h
  · split
    · exact h
    · refine State.memOk_withHome h ?_ _
      split <;> simp [h, hk]

/-! ### Keys, tenants, power and the calendar (R182, R302 to R315, R332 to R338) -/

@[simp] theorem State.memOk_endConsent (s : State) (fn tid : Nat) : (s.endConsent fn tid).memOk = s.memOk := (rfl)

@[simp] theorem State.memOk_mapEntries (s : State) (base lsize : Nat) (f : Nat → Nat) :
    (s.mapEntries base lsize f).memOk = s.memOk := (rfl)

@[simp] theorem State.memOk_markMigrations (s : State) : s.markMigrations.memOk = s.memOk := by
  unfold State.markMigrations
  split
  · rfl
  · exact State.memOk_foldl _ _ _ fun s m => State.memOk_mapEntries s _ _ _

@[simp] theorem State.memOk_barredRead (s : State) (fn addr : Nat) (b : HostBar) : (s.barredRead fn addr b).memOk = s.memOk := by
  unfold State.barredRead
  split <;> rfl

@[simp] theorem State.memOk_evictFilter (s : State) : s.evictFilter.memOk = s.memOk := by
  unfold State.evictFilter
  split
  · rfl
  · split
    · exact State.memOk_askBack s _
    · rfl

@[simp] theorem State.memOk_hostRead (s : State) (fn addr : Nat) (excl : Bool) : (s.hostRead fn addr excl).memOk = s.memOk := by
  simp only [State.hostRead]
  split
  · simp
  · split
    · exact State.memOk_evictFilter s
    · rfl

@[simp] theorem State.memOk_serveReads (s : State) : s.serveReads.memOk = s.memOk := by
  refine (State.memOk_foldl _ _ _ fun s r => ?_).trans rfl
  simp

@[simp] theorem State.memOk_killLaunch {s : State} (h : s.memOk = true) (n reason : Nat) :
    (s.killLaunch n reason).memOk = true := by
  have hs (ls : AMap Launch) {u : State} (hu : u.memOk = true) : State.memOk { u with launches := ls } = true := hu
  have ht (ts : List Ticket) (hs : List Hint) {u : State} (hu : u.memOk = true) :
      State.memOk { u with tickets := ts, hints := hs } = true := hu
  unfold State.killLaunch
  split
  · exact h
  · split
    · exact h
    · rw [State.memOk_followVotes, State.memOk_count]
      refine State.memOk_launchRecord (hs _ (ht _ _ ?_)) _
      rw [State.memOk_foldl _ _ _ (by simp), h]

@[simp] theorem State.memOk_killWhere {s : State} (h : s.memOk = true) (p : Launch → Bool) (reason : Nat) :
    (s.killWhere p reason).memOk = true := State.memOk_foldl_of (fun _ q hs => State.memOk_killLaunch hs q.1 reason) _ h

@[simp] theorem State.memOk_loseFrame (s : State) (frame : Nat) : (s.loseFrame frame).memOk = s.memOk := by
  simp only [State.loseFrame]
  show State.memOk (State.voidCopies _ _ _) = _
  simp

@[simp] theorem State.memOk_loseKeys (s : State) (fn : Nat) : (s.loseKeys fn).memOk = s.memOk := by
  simp only [State.loseKeys]
  exact State.memOk_foldl _ _ _ fun s f => State.memOk_loseFrame s f

@[simp] theorem State.memOk_endSessions (s : State) (fn : Nat) : (s.endSessions fn).memOk = s.memOk := by simp [State.endSessions]

@[simp] theorem State.memOk_resetTenant {s : State} (h : s.memOk = true) (fn : Nat) : (s.resetTenant fn).memOk = true := by
  simp only [State.resetTenant]
  simp only [State.memOk_def]
  simp only [← State.memOk_def]
  simp [h]

@[simp] theorem State.memOk_evictQuiet (s : State) : s.evictQuiet.memOk = s.memOk := by simp [State.evictQuiet]

@[simp] theorem State.memOk_debugSet (s : State) (c reg : Nat) (v : Word) : (s.debugSet c reg v).memOk = s.memOk := by
  simp only [State.debugSet]
  split
  · rfl
  · simp

@[simp] theorem State.memOk_recadence (s : State) : s.recadence.memOk = s.memOk := (rfl)

@[simp] theorem State.memOk_shedMore (s : State) : s.shedMore.memOk = s.memOk := by
  unfold State.shedMore
  split
  · rfl
  · exact State.memOk_foldl _ _ _ fun s p => State.memOk_requestEviction s p.1
  · rfl
  · split <;> rfl
  · rfl

@[simp] theorem State.memOk_shedRaise (s : State) : s.shedRaise.memOk = s.memOk := (rfl)

@[simp] theorem State.memOk_shedLess (s : State) : s.shedLess.memOk = s.memOk := by
  unfold State.shedLess
  split <;> rfl

@[simp] theorem State.memOk_trip {s : State} (h : s.memOk = true) : s.trip.memOk = true := by
  simp only [State.trip, State.memOk_def]
  simp only [← State.memOk_def]
  have hk := State.memOk_killWhere (State.memOk_killWhere h (fun l => l.st.placed') 3) (fun _ => true) 3
  simp [hk]

@[simp] theorem State.memOk_sampleRails (s : State) : s.sampleRails.memOk = s.memOk := by
  refine State.memOk_foldl _ _ _ fun s t => ?_
  simp

@[simp] theorem State.memOk_loseRow {s : State} (h : s.memOk = true) (t bank row : Nat) :
    (s.loseRow t bank row).memOk = true := State.memOk_setTile h t (wf_foldl_mwrite _ _ _ (State.wf_sp h t))

@[simp] theorem State.memOk_retire (s : State) (row col : Nat) : (s.retire row col).memOk = s.memOk := by
  simp only [State.retire]
  split
  · split <;> rfl
  · split <;> rfl

@[simp] theorem State.memOk_payInteractive (s : State) (slice plane fn : Nat) :
    (s.payInteractive slice plane fn).memOk = s.memOk := by
  simp only [State.payInteractive]
  split
  · rfl
  · split
    · rfl
    · split
      · rfl
      · simp

@[simp] theorem State.memOk_payToken (s : State) (slice k : Nat) : (s.payToken slice k).memOk = s.memOk := by
  simp only [State.payToken]
  split <;> rfl

@[simp] theorem State.memOk_payRequest (s : State) (slice plane cls sectors fn : Nat) :
    (s.payRequest slice plane cls sectors fn).memOk = s.memOk := by simp [State.payRequest]

@[simp] theorem State.memOk_afterPower {s : State} (h : s.memOk = true) (p : Power) : (s.afterPower p).memOk = true := by
  have hh := State.wf_hostMem h
  exact State.memOk_of rfl hh (by simp [State.afterPower, State.reset])

/-! ### Bundles (R39, R92, R194, R268) -/

@[simp] theorem State.memOk_take (s : State) (c : Nat) (b : Bundle) (len : Nat) (pc : PAddr) (ws : List (Slot × Instr)) :
    (s.take c b len pc ws).memOk = s.memOk := by
  simp only [State.take]
  split <;> rfl

@[simp] theorem State.memOk_close (s : State) (annulled : Bool) : (s.close annulled).memOk = s.memOk := by
  simp only [State.close, State.memOk_def]
  simp only [← State.memOk_def]
  rw [State.memOk_setTl_sp, State.memOk_setCx]
  split <;> rfl

@[simp] theorem State.memOk_issueFault (s : State) (c : Nat) (r : Raise) :
    (s.issueFault c r).memOk = s.memOk := by simp [State.issueFault]

@[simp] theorem State.memOk_watch (s : State) (c : Nat) : (s.watch c).memOk = s.memOk := by
  simp only [State.watch]
  split
  · rfl
  · split
    · simp
    · split <;> simp

@[simp] theorem State.memOk_watchTile (s : State) (t : Nat) : (s.watchTile t).memOk = s.memOk := by simp [State.watchTile]
@[simp] theorem State.memOk_pollTile (s : State) (t : Nat) : (s.pollTile t).memOk = s.memOk := by simp [State.pollTile]

@[simp] theorem State.memOk_issueSamples (s : State) (c : Nat) :
    (s.issueSamples c).memOk = s.memOk := by simp [State.issueSamples]

@[simp] theorem State.memOk_takeSlot (s : State) (c : Nat) : (s.takeSlot c).memOk = s.memOk := by
  simp only [State.takeSlot, State.memOk_def]
  simp only [← State.memOk_def]
  simp

@[simp] theorem State.memOk_overrun (s : State) (c : Nat) : (s.overrun c).memOk = s.memOk := by
  simp only [State.overrun]
  split
  · rfl
  · split
    · simp
    · split
      · rfl
      · simp only [State.memOk_issueFault, State.memOk_takeSlot]
        split <;> simp

/-! ### The end of a cycle -/

@[simp] theorem State.memOk_takeReads (s : State) : s.takeReads.memOk = s.memOk := (rfl)

@[simp] theorem State.memOk_readUnit (s : State) (fn t u : Nat) : (s.readUnit fn t u).memOk = s.memOk := by
  simp only [State.readUnit]
  split
  · rfl
  · split <;> simp

@[simp] theorem State.memOk_input {s : State} (h : s.memOk = true) (i : Input) : (s.input i).memOk = true := by
  cases i with
  | hostStore a n v => exact State.memOk_foldl_of (fun s i hs => State.memOk_hostSet hs _ _) _ h
  | spError t w fatal => simp [State.input, h]
  | devError sec fatal =>
    simp only [State.input]
    split
    · exact h
    · split <;> exact h
  | readMonitor fn t u => simp [State.input, h]
  | readCounter fn n => simp [State.input, h]
  | readFwstatus => exact h
  | readHealth i => exact h

@[simp] theorem State.memOk_takeInputs {s : State} (h : s.memOk = true) : s.takeInputs.memOk = true := by
  exact State.memOk_foldl_of (fun s p hs => State.memOk_input hs p.2) _ h

@[simp] theorem State.memOk_tickPorts (s : State) : s.tickPorts.memOk = s.memOk := (rfl)

@[simp] theorem State.memOk_tickLate {s : State} (h : s.memOk = true) : s.tickLate.memOk = true := by
  simp only [State.tickLate, State.memOk_serveReads]
  exact State.memOk_foldl_of (fun _ p hs => State.memOk_loseSector hs p.1) (s.backInv.filter _) h

@[simp] theorem State.memOk_tidy {s : State} (h : s.memOk = true) : s.tidy.memOk = true := by simp [State.tidy, h]
@[simp] theorem State.memOk_sampleBlocks (s : State) : s.sampleBlocks.memOk = s.memOk := by simp [State.sampleBlocks]

@[simp] theorem State.memOk_countEnergy (s : State) (fn n : Nat) :
    (s.countEnergy fn n).memOk = s.memOk := by simp [State.countEnergy]

@[simp] theorem State.memOk_payBand (s : State) (c : Nat) (l : Launch) (b : Nat) :
    (s.payBand c l b).memOk = s.memOk := by simp [State.payBand]

@[simp] theorem State.memOk_countIssue (s : State) : s.countIssue.memOk = s.memOk := by
  refine State.memOk_foldl _ _ _ fun s p => ?_
  split <;> simp

@[simp] theorem State.memOk_payEnergy (s : State) : s.payEnergy.memOk = s.memOk := by
  refine State.memOk_foldl _ _ _ fun s p => ?_
  split <;> simp

@[simp] theorem State.tickTile_sp (s : State) (t : Nat) (x : Tile) : (s.tickTile t x).sp = x.sp := by
  simp only [State.tickTile, State.leaveWidth]
  split
  · split <;> rfl
  · rfl

@[simp] theorem State.memOk_count1 (s : State) : s.count1.memOk = s.memOk := by
  have h0 : (s.countIssue.payEnergy.sampleBlocks).memOk = s.memOk := by simp
  rw [← h0]
  simp [State.count1, State.memOk, Function.comp_def]

@[simp] theorem State.memOk_tick {s : State} (h : s.memOk = true) : s.tick.memOk = true := by
  simp only [State.tick]
  split
  · exact h
  · rw [State.memOk_takeReads, State.memOk_def]
    simp only [← State.memOk_def]
    simp [h]

/-! ### Slot words (R81) -/

/-- An outcome keeps the memories canonical when its next state, if there is one, has them so. -/
def KeepsMem (s : State) (r : Res) : Prop := s.memOk = true → ∀ t, r = .next t → t.memOk = true

theorem keepsMem_next {s t : State} (h : s.memOk = true → t.memOk = true) : KeepsMem s (.next t) := by
  rintro hs _ ⟨⟩
  exact h hs

/-- A next state whose memories are as they were. -/
theorem keepsMem_of_eq {s t : State} (h : t.memOk = s.memOk) : KeepsMem s (.next t) := keepsMem_next fun hs => h ▸ hs

theorem execEret_keepsMem (s : State) : KeepsMem s (execEret s) := keepsMem_of_eq (by
  split
  · simp
  · split
    · simp
    · split
      · simp
      · rfl)

/-- A load into every enabled cluster of a vector register. -/
theorem State.memOk_vecLoad (s : State) (cs : List Nat) (d : VReg) (lat : Nat) (img : Nat → Nat) :
    (cs.foldl (fun s' c => s'.writeV lat d c (ones 2048) (img c)) (s.needUndo (.v d.val))).memOk = s.memOk := by
  simp

theorem execVsts_keepsMem (w : Width) (d : VReg) (b : SReg) (off : BitVec 9) (col : Colour) (s : State) :
    KeepsMem s (execVsts w d b off col s) := keepsMem_next fun h => by
  split
  · exact h
  · refine State.memOk_localCheck h ?_ _ _ _ _ _
    exact State.memOk_storeBytes h _

/-! ### Words of the matrix unit and the engines (R230 to R264) -/

theorem execMldw_keepsMem (a b : SReg) (bands : BitVec 4) (s : State) : KeepsMem s (execMldw a b bands s) :=
  keepsMem_next fun h => by
    refine State.memOk_xOwn h ?_
    refine State.memOk_xPair h (fun _ w => ?_) _
    refine State.memOk_check h ?_ _ _ _
    refine State.memOk_check h ?_ _ _ _
    refine State.memOk_xReads h ?_ _ _ _
    simp [h]

theorem execMmul_keepsMem (acc : ATile) (a b : SReg) (aip : Bool) (bands : BitVec 4) (s : State) :
    KeepsMem s (execMmul acc a b aip bands s) := keepsMem_next fun h => by
  refine State.memOk_xAcc h ?_ _
  refine State.memOk_xPair h (fun fa w => ?_) _
  refine State.memOk_check h ?_ _ _ _
  refine State.memOk_check h ?_ _ _ _
  refine State.memOk_check h ?_ _ _ _
  refine State.memOk_xReads h ?_ _ _ _
  simp [h]

theorem execMvec_keepsMem (acc : ATile) (a b : SReg) (aip : Bool) (bands : BitVec 4) (s : State) :
    KeepsMem s (execMvec acc a b aip bands s) := keepsMem_next fun h => by
  refine State.memOk_xAcc h ?_ _
  refine State.memOk_xPair h (fun fa w => ?_) _
  refine State.memOk_check h ?_ _ _ _
  refine State.memOk_check h ?_ _ _ _
  refine State.memOk_xReads h ?_ _ _ _
  simp [h]

theorem execMzero_keepsMem (acc : ATile) (quarters : BitVec 4) (s : State) : KeepsMem s (execMzero acc quarters s) :=
  keepsMem_next fun h => by
    refine State.memOk_xAcc h ?_ _
    simp [h]

theorem execMdrn_keepsMem (acc : ATile) (a b : SReg) (clamp : Bool) (quarters : BitVec 4) (s : State) :
    KeepsMem s (execMdrn acc a b clamp quarters s) := keepsMem_next fun h => by
  refine State.memOk_xAcc h (State.memOk_check h (State.memOk_check h ?_ _ _ _) _ _ _) _
  simp only
  split
  · simp only [State.memOk_writeFlags, State.memOk_startDrain]
    rw [State.memOk_foldl _ _ _ fun s i => State.memOk_foldl _ _ s fun s c => State.memOk_pend s _ _ _ _,
      State.memOk_foldl _ _ _ fun s i => State.memOk_needUndo s _, h]
  · refine State.memOk_checkSp h ?_ _
    refine State.memOk_gatePush h ?_
    simp only [State.memOk_writeFlags, State.memOk_startDrain, State.memOk_pushed, h]

theorem execMaccd_keepsMem (acc : ATile) (a b : SReg) (clamp : Bool) (quarters : BitVec 4) (s : State) :
    KeepsMem s (execMaccd acc a b clamp quarters s) := keepsMem_next fun h => by
  refine State.memOk_xAcc h (State.memOk_check h (State.memOk_check h ?_ _ _ _) _ _ _) _
  simp only
  split
  · refine State.memOk_check h ?_ _ _ _
    refine State.memOk_checkSp h ?_ _
    refine State.memOk_gatePush h ?_
    simp only [State.memOk_startDrain, State.memOk_pushed, h]
  · refine State.memOk_check h ?_ _ _ _
    refine State.memOk_checkParts h ?_ _
    refine State.memOk_gatePush h ?_
    simp only [State.memOk_startDrain, State.memOk_pushed, h]

theorem execXfer_keepsMem (a : SReg) (col : Colour) (ch : Chan) (s : State) : KeepsMem s (execXfer a col ch s) :=
  keepsMem_next fun h => by
    refine State.memOk_checkSp h ?_ _
    refine State.memOk_check h ?_ _ _ _
    refine State.memOk_check h ?_ _ _ _
    refine State.memOk_check h ?_ _ _ _
    refine State.memOk_check h ?_ _ _ _
    refine State.memOk_check h ?_ _ _ _
    split
    · simp [h]
    · refine State.memOk_checkParts h ?_ _
      refine State.memOk_gatePush h ?_
      simp only [State.memOk_enterCopy, h]

theorem execAmog_keepsMem (a k : SReg) (op : AmogOp) (w : Bool) (col : Colour) (ch : Chan) (s : State) :
    KeepsMem s (execAmog a k op w col ch s) := keepsMem_next fun h => by
  refine State.memOk_checkParts h ?_ _
  refine State.memOk_check h ?_ _ _ _
  refine State.memOk_checkSp h ?_ _
  refine State.memOk_check h ?_ _ _ _
  refine State.memOk_gatePush h ?_
  simp only [State.memOk_enterCopy, h]

theorem execGthr_keepsMem (v : VReg) (b : SReg) (w : Width) (s : State) : KeepsMem s (execGthr v b w s) := by
  unfold execGthr
  refine keepsMem_next fun h => State.memOk_check h (State.memOk_check h ?_ _ _ _) _ _ _
  refine (State.memOk_ite _ _ _).trans ?_
  split
  · split <;> simp [h]
  · refine State.memOk_checkParts h ?_ _
    rw [State.memOk_pushed, h]

theorem execLadd_keepsMem (v i : VReg) (p : SReg) (col : Colour) (s : State) : KeepsMem s (execLadd v i p col s) :=
  keepsMem_next fun h => by
    refine State.memOk_check h (State.memOk_checkParts h ?_ _) _ _ _
    simp [h]

theorem execLinit_keepsMem (a n : SReg) (col : Colour) (s : State) : KeepsMem s (execLinit a n col s) :=
  keepsMem_next fun h => by
    split
    · exact h
    · refine State.memOk_check h (State.memOk_checkParts h ?_ _) _ _ _
      simp [h]

theorem execLraw_keepsMem (a b n : SReg) (s : State) : KeepsMem s (execLraw a b n s) :=
  keepsMem_next fun h => by
    split
    · exact h
    · refine State.memOk_check h (State.memOk_check h ?_ _ _ _) _ _ _
      split
      · simp [h]
      · refine State.memOk_checkParts h ?_ _
        simp [h]

theorem execColl_keepsMem (a : SReg) (col : Colour) (s : State) : KeepsMem s (execColl a col s) := keepsMem_next fun h => by
  refine State.memOk_check h ?_ _ _ _
  refine State.memOk_checkSp h ?_ _
  refine State.memOk_check h ?_ _ _ _
  refine State.memOk_check h ?_ _ _ _
  refine State.memOk_check h ?_ _ _ _
  refine State.memOk_check h ?_ _ _ _
  simp [h]

theorem execGpop_keepsMem (v : VReg) (d : SReg) (s : State) : KeepsMem s (execGpop v d s) := keepsMem_of_eq (by
  split
  · simp
  · split
    · simp
    · simp only [State.memOk_writeS, State.memOk_writeWhole, State.memOk_setCx])

theorem execCpop_keepsMem (v : VReg) (d : SReg) (s : State) : KeepsMem s (execCpop v d s) := keepsMem_of_eq (by
  split
  · simp
  · split
    · simp
    · simp
    · simp only [State.memOk_writeS, State.memOk_writeWhole, State.memOk_setCx])

theorem execXwait_keepsMem (a : SReg) (ch : Chan) (s : State) : KeepsMem s (execXwait a ch s) := keepsMem_of_eq (by
  split
  · simp
  · split <;> simp)

/-- Every slot word keeps the memories canonical. -/
theorem wordMeaning_keepsMem (i : Instr) (s : State) : KeepsMem s (wordMeaning i s) := by
  cases i with
  | add | addi | and | andi | or | ori | xor | xori | sub | clz | ctz | popc | div | rem | mul | mulh | min | max | shl | shr
  | sra | rotl | sel | limm | xptr => exact keepsMem_of_eq (State.memOk_writeS _ _ _ _)
  | cmp => exact keepsMem_of_eq (State.memOk_writeQ _ _ _ _)
  | mfc =>
    refine keepsMem_of_eq ?_
    split <;> simp
  | mtc | mtcEvent | mtcDmr | mtcAshape => exact keepsMem_of_eq (State.memOk_writeCr _ _ _)
  | br | brn | jmp | call | loop | trap => exact keepsMem_of_eq (by simp)
  | jmpr | ret => exact keepsMem_of_eq (State.memOk_jumpReg _ _)
  | eret => exact execEret_keepsMem s
  | pause | bkpt | sync => exact keepsMem_next fun h => State.memOk_check h (by simp [h]) _ _ _
  | endTask | yield =>
    refine keepsMem_of_eq ?_
    split <;> rfl
  | fence | drain =>
    refine keepsMem_next fun h => ?_
    split
    · exact State.memOk_check h (by simp [h]) _ _ _
    · simp [h]
  | ld | st | vcsq =>
    refine keepsMem_next fun h => State.memOk_localCheck h ?_ _ _ _ _ _
    simp [h]
  | aadd | amin | amax | aand | aor | axor | aswap | acas => exact keepsMem_next fun h => State.memOk_atomic h _ _ _ _ _ _
  | vld | vldb | vlds =>
    refine keepsMem_next fun h => ?_
    split
    · exact h
    · exact State.memOk_localCheck h ((State.memOk_vecLoad _ _ _ _ _).trans h) _ _ _ _ _
  | vstK0 | vstK1 | vstK2 | vstK3 => exact keepsMem_next fun h => State.memOk_vst h _ _ _ _
  | vsts _ _ _ _ col => exact execVsts_keepsMem _ _ _ _ col s
  | vadd | vsub | vmul | vmin | vmax => exact keepsMem_of_eq (State.memOk_arith2 _ _ _ _ _ _ _ _ _ _)
  | vabs | vneg => exact keepsMem_of_eq (State.memOk_arith1 _ _ _ _ _ _ _)
  | vfma | vclamp | vdot => exact keepsMem_of_eq (State.memOk_vecLoop _ _ _ _ _ _)
  | vand | vor | vxor | vshl | vshr | vsra => exact keepsMem_of_eq (State.memOk_logic2 _ _ _ _ _ _ _)
  | vsel | vred | vscan | vcvt | vqnt | vdqnt => exact keepsMem_of_eq (State.memOk_vecImages _ _ _ _)
  | vperm | vsplat | vmov | vxch => exact keepsMem_of_eq (State.memOk_vecPure _ _ _ _ _ _)
  | vget | vput => exact keepsMem_of_eq (by simp)
  | vcmp => exact keepsMem_of_eq (State.memOk_maskLoop _ _ _ _ _ _)
  | kand | kor | kxor | knot => exact keepsMem_of_eq (State.memOk_maskWord _ _ _)
  | kpopc | kfirst =>
    refine keepsMem_of_eq ?_
    split <;> simp
  | fexp2 | flog2 | frcp | frsq | ftanh | fsig | fsin | fcos => exact keepsMem_of_eq (State.memOk_special _ _ _ _ _ _)
  | mcfg | mswap =>
    refine keepsMem_next fun h => State.memOk_xOwn h (State.memOk_check h (State.memOk_check h ?_ _ _ _) _ _ _)
    simp [h]
  | mldw => exact execMldw_keepsMem _ _ _ s
  | mmul => exact execMmul_keepsMem _ _ _ _ _ s
  | mvec => exact execMvec_keepsMem _ _ _ _ _ s
  | mzero => exact execMzero_keepsMem _ _ s
  | mdrn => exact execMdrn_keepsMem _ _ _ _ _ s
  | maccd => exact execMaccd_keepsMem _ _ _ _ _ s
  | xfer => exact execXfer_keepsMem _ _ _ s
  | amog => exact execAmog_keepsMem _ _ _ _ _ _ s
  | gthr v b w => exact execGthr_keepsMem v b w s
  | ladd => exact execLadd_keepsMem _ _ _ _ s
  | linit => exact execLinit_keepsMem _ _ _ s
  | lraw a b n => exact execLraw_keepsMem a b n s
  | coll => exact execColl_keepsMem _ _ s
  | pfh => exact keepsMem_of_eq (by simp)
  | gpop => exact execGpop_keepsMem _ _ s
  | cpop => exact execCpop_keepsMem _ _ s
  | xwait => exact execXwait_keepsMem _ _ s
  | _ => exact keepsMem_of_eq rfl

@[simp] theorem State.memOk_word {s : State} (h : s.memOk = true) (p : Slot × Instr) : (s.word p).memOk = true := by
  simp only [State.word]
  split
  · rename_i s' hw
    exact wordMeaning_keepsMem _ { s with issue := { s.issue with slot := p.1 } } h s' hw
  · exact h

@[simp] theorem State.memOk_ran {s : State} (h : s.memOk = true) (c : Nat) (b : Bundle) (len : Nat) :
    (s.ran c b len).memOk = true := by
  simp only [State.ran]
  exact State.memOk_foldl_of (fun s p hs => State.memOk_word hs p) _ (by simp [h])

@[simp] theorem State.memOk_issueBundle {s : State} (h : s.memOk = true) (c : Nat) (b : Bundle) (len : Nat) :
    (s.issueBundle c b len).memOk = true := by
  simp only [State.issueBundle]
  split
  · simp [h]
  · split
    · simp [h]
    · split
      · simp [h]
      · split <;> simp [h]

@[simp] theorem State.memOk_issueCtx {s : State} (h : s.memOk = true) (c : Nat) : (s.issueCtx c).memOk = true := by
  simp only [State.issueCtx]
  split <;> simp [h]

/-! ### Engine steps (R196 to R264, R284 to R287, R325) -/

theorem execCopyRecordPerform_keepsMem (ctx : Nat) (ch : Chan) (n : Nat) (s : State) :
    KeepsMem s (execCopyRecordPerform ctx ch n s) := keepsMem_next fun h => by
  split
  · exact h
  · split
    · exact h
    · split
      · simp [h]
      · split
        · exact h
        · refine State.memOk_withNeed _ _ h (fun u hu => ?_) _
          simp only
          split
          · split <;> simp [hu]
          · split <;> simp [hu]

theorem execRemoteAtomicPerform_keepsMem (ctx : Nat) (ch : Chan) (s : State) : KeepsMem s (execRemoteAtomicPerform ctx ch s) :=
  keepsMem_next fun h => by
    split
    · exact h
    · split
      · exact h
      · split
        · exact State.memOk_withNeed _ _ h (fun u hu => State.memOk_virtAtomic hu _ _ _) _
        · simp only
          split
          · simp [h]
          · refine State.memOk_giveOld ?_ _ _ _
            split
            · split <;> simp [h]
            · exact h

theorem execHostAtomicPerform_keepsMem (ctx : Nat) (ch : Chan) (s : State) : KeepsMem s (execHostAtomicPerform ctx ch s) :=
  keepsMem_next fun h => by
    have hv (r : CopyRec) (nd : Need) : (s.withNeed ctx r nd fun u => u.virtAtomic ctx (s.ctx ctx) r).memOk = true :=
      State.memOk_withNeed _ _ h (fun u hu => State.memOk_virtAtomic hu _ _ _) _
    have ha (u : State) (hu : u.memOk = true) (r : CopyRec) (pa : Nat) (nd : Need) :
        (u.withNeed ctx r nd fun u => u.atticAtomic ctx (s.ctx ctx) r pa).memOk = true :=
      State.memOk_withNeed _ _ hu (fun u hu => State.memOk_atticAtomic hu _ _ _ _) _
    split
    · exact h
    · split
      · exact h
      · split
        · simp [h]
        · simp only
          split
          · exact hv _ _
          · split
            · exact h
            · exact h
            · exact State.memOk_giveOld h _ _ _
            · exact ha _ h _ _ _
            · split
              · simp [h]
              · split
                · exact ha _ ((State.memOk_setCtx _ _ _).trans h) _ _ _
                · exact h
          · exact ha _ h _ _ _

theorem execHostAtomicopCompletion_keepsMem (ctx : Nat) (ch : Chan) (st : Completion) (s : State) :
    KeepsMem s (execHostAtomicopCompletion ctx ch st s) := keepsMem_next fun h => by
  split
  · exact h
  · split
    · split
      · exact h
      · simp only
        split
        · refine State.memOk_giveAnswer ?_ _ _ _
          split
          · exact State.memOk_foldl_of (fun u i hu => State.memOk_hostSet hu _ _) _ h
          · exact h
        · split <;> simp [h]
        · simp [h]
        · simp [h]
    · exact h

theorem execCellAddPerform_keepsMem (ctx : Nat) (s : State) : KeepsMem s (execCellAddPerform ctx s) := keepsMem_next fun h => by
  split
  · exact h
  · split
    · exact State.memOk_withCell _ _ h (fun u hu => (State.memOk_setCtx _ _ _).trans (State.memOk_cellPlus hu _ _ _)) _
    · simp [h]
    · exact h

theorem execCellInitPerform_keepsMem (ctx : Nat) (s : State) : KeepsMem s (execCellInitPerform ctx s) := keepsMem_next fun h => by
  split
  · exact h
  · split
    · split
      · simp [h]
      · exact State.memOk_withCell _ _ h (fun u hu => (State.memOk_setCtx _ _ _).trans (State.memOk_vwriteLE hu _ _ _ _)) _
    · exact h

theorem execLrawPerform_keepsMem (ctx : Nat) (s : State) : KeepsMem s (execLrawPerform ctx s) := keepsMem_next fun h => by
  split
  · exact h
  · split
    · split
      · simp [h]
      · exact State.memOk_withCell _ _ h (fun u hu => (State.memOk_setCtx _ _ _).trans (State.memOk_spWriteLE hu _ _ _ _)) _
    · exact h

theorem execGatherComplete_keepsMem (ctx : Nat) (s : State) : KeepsMem s (execGatherComplete ctx s) := keepsMem_of_eq (by
  split
  · rfl
  · split
    · simp
    · simp only
      split
      · simp
      · split <;> simp)

theorem execCollectiveComplete_keepsMem (ctx : Nat) (s : State) : KeepsMem s (execCollectiveComplete ctx s) :=
  keepsMem_next fun h => by
    split
    · exact h
    · split
      · exact h
      · simp only
        split
        · refine State.memOk_foldl_of (fun u p hu => ?_) _ h
          split <;> simp [hu]
        · refine (State.memOk_foldl _ _ _ fun u p => ?_).trans h
          split <;> simp

theorem execDrainPushPerform_keepsMem (ctx : Nat) (s : State) : KeepsMem s (execDrainPushPerform ctx s) :=
  keepsMem_next fun h => by
    split
    · exact h
    · split
      · exact h
      · split
        · simp [h]
        · split
          · simp only
            split
            · split <;> simp [h]
            · simp [h]
          · simp only
            split
            · simp [h]
            · split
              · simp [h]
              · rw [State.memOk_setCtx]
                split <;> simp [h]

theorem execSegmentResident_keepsMem (ctx : Nat) (s : State) : KeepsMem s (execSegmentResident ctx s) := keepsMem_of_eq (by
  split
  · rfl
  · simp only
    split
    · split
      · simp
      · split
        · split
          · simp
          · split <;> simp
        · rfl
    · split
      · simp
      · split <;> simp)

theorem execHostRequestCompletion_keepsMem (ctx : Nat) (src : EngSrc) (st : Completion) (s : State) :
    KeepsMem s (execHostRequestCompletion ctx src st s) := keepsMem_of_eq (by
  cases src with
  | chan ch =>
    simp only
    split
    · rfl
    · split
      · split
        · rfl
        · split <;> simp
      · split <;> simp
      · rfl
  | gather =>
    simp only
    split
    · rfl
    · split
      · split <;> simp
      · rfl
  | posted =>
    simp only
    split <;> simp
  | cells => rfl
  | drains => rfl)

theorem execHostCompletionTimeout_keepsMem (ctx : Nat) (src : EngSrc) (s : State) :
    KeepsMem s (execHostCompletionTimeout ctx src s) := keepsMem_of_eq (by
  cases src with
  | chan ch =>
    simp only
    split <;> simp
  | gather =>
    simp only
    split <;> simp
  | cells =>
    simp only
    split <;> simp
  | drains =>
    simp only
    split <;> simp
  | posted =>
    simp only
    split <;> simp)

theorem execAtticLineFill_keepsMem (line : Nat) (own : Bool) (s : State) : KeepsMem s (execAtticLineFill line own s) :=
  keepsMem_next fun h => by
    split
    · exact h
    · split
      · exact h
      · simp only
        split
        · exact (State.memOk_refuseLine _ _).trans h
        · have hq (m : AMap LineReq) : State.memOk { s with atticReq := m } = true := h
          exact State.memOk_atticRoom (hq _) line

/-! ### Steps of the issue, of events and of tasks (R39 to R62, R271 to R283) -/

theorem execBundleIssue_keepsMem (tile : Nat) (s : State) : KeepsMem s (execBundleIssue tile s) := keepsMem_next fun h => by
  have hi (ts : List Nat) : State.memOk { (s.pollTile tile).watchTile tile with issued := ts } = true := by
    simp only [State.memOk_def]
    simp only [← State.memOk_def]
    simp [h]
  split
  · exact h
  · simp only
    split <;> simp [hi]

theorem execEngineFaultDelivery_keepsMem (ctx : Nat) (s : State) : KeepsMem s (execEngineFaultDelivery ctx s) :=
  keepsMem_of_eq (by
    split
    · rfl
    · split
      · rfl
      · simp)

theorem execRollback_keepsMem (ctx : Nat) (s : State) : KeepsMem s (execRollback ctx s) := keepsMem_next fun h => by
  split
  · exact h
  · split
    · exact h
    · split
      · simp [h]
      · simp [h]

/-! ### Launches, evictions and resumes (R295 to R300) -/

theorem execLaunchStart_keepsMem (n plane y0 x0 : Nat) (s : State) : KeepsMem s (execLaunchStart n plane y0 x0 s) :=
  keepsMem_next fun h => by
    split
    · exact h
    · split
      · split
        · exact h
        · refine State.memOk_withHome h ?_ _
          exact State.memOk_acceptLaunch h _ _
      · split
        · refine State.memOk_atL h (State.memOk_imagesAway s _ _) (fun u hu => ?_) _ _ _
          exact State.memOk_startLaunch hu _ _
        · exact h
      · exact h

theorem execEvictionStop_keepsMem (ctx : Nat) (s : State) : KeepsMem s (execEvictionStop ctx s) := keepsMem_next fun h => by
  split
  · exact h
  · split
    · exact h
    · refine State.memOk_withHome h ?_ _
      split
      · simp [h]
      · split <;> simp [h]

theorem execEvictionComplete_keepsMem (n : Nat) (s : State) : KeepsMem s (execEvictionComplete n s) := keepsMem_next fun h => by
  split
  · exact h
  · split
    · split
      · exact h
      · split
        · simp [h]
        · simp [h]
    · exact h

theorem execResume_keepsMem (n plane y0 x0 : Nat) (s : State) : KeepsMem s (execResume n plane y0 x0 s) :=
  keepsMem_next fun h => by
    split
    · exact h
    · split
      · simp only
        split
        · exact h
        · exact State.memOk_withHome h (State.memOk_acceptResume h _ _) _
      · split
        · refine State.memOk_atL h (State.memOk_recordsAway s _ _) (fun u hu => ?_) _ _ _
          exact State.memOk_foldl_of (fun u p hu => State.memOk_restoreTile hu _ _ _ _) _ hu
        · exact h
      · exact h

/-! ### Queues and packets (R301, R326 to R331) -/

theorem execHostRegisterWrite_keepsMem (fn reg : Nat) (v : Word) (s : State) : KeepsMem s (execHostRegisterWrite fn reg v s) := by
  simp only [execHostRegisterWrite]
  split
  · exact keepsMem_of_eq rfl
  · split
    · exact keepsMem_of_eq (by simp)
    · split
      · exact keepsMem_of_eq (by simp)
      · split
        · exact keepsMem_of_eq rfl
        · split
          · exact keepsMem_of_eq (by split <;> rfl)
          · split
            · exact keepsMem_of_eq (by simp)
            · exact fun _ _ ht => nomatch ht

theorem execNop_keepsMem (fn q : Nat) (s : State) : KeepsMem s (execNop fn q s) := keepsMem_next fun h => by
  split
  · split
    · exact State.memOk_withHome h h _
    · exact h
  · split
    · simp [h]
    · simp [h]

theorem execLaunch_keepsMem (fn q : Nat) (s : State) : KeepsMem s (execLaunch fn q s) := keepsMem_next fun h => by
  refine State.memOk_runPacket h (fun p => ?_) _ _ _ _
  simp only
  split
  · exact h
  · split
    · simp [h]
    · split
      · simp [h]
      · exact h

theorem execMigrate_keepsMem (fn q : Nat) (s : State) : KeepsMem s (execMigrate fn q s) := keepsMem_next fun h => by
  refine State.memOk_runPacket h (fun p => ?_) _ _ _ _
  simp only
  split
  · exact h
  · refine State.memOk_withHome h ?_ _
    split
    · simp [h]
    · exact h

theorem execMigrationCopy_keepsMem (tenant : Nat) (s : State) : KeepsMem s (execMigrationCopy tenant s) :=
  keepsMem_next fun h => by
    split
    · exact h
    · simp only
      split
      · exact h
      · split
        · simp [h]
        · exact State.memOk_movePage h _ _ _

theorem execMigrationCommit_keepsMem (tenant : Nat) (s : State) : KeepsMem s (execMigrationCommit tenant s) :=
  keepsMem_next fun h => by
    split
    · exact h
    · simp only
      split
      · simp [h]
      · refine State.memOk_record ?_ _ _ _ _ _ _ _ _
        refine State.memOk_foldl_of (fun u a hu => ?_) _ ((State.memOk_mapEntries s _ _ _).trans h)
        have hc := State.memOk_claimRange hu a 16
        exact State.memOk_newDev hc (wf_writeLE _ _ _ (State.wf_dev hc)) rfl rfl

/-! ### The host (R317 to R325) -/

theorem execBackInvalidateResponse_keepsMem (sector : Nat) (data : BitVec 512) (s : State) :
    KeepsMem s (execBackInvalidateResponse sector data s) := keepsMem_next fun h => by
  split
  · exact h
  · rename_i b _
    have hd : State.memOk (if mgetD s.snoop sector false then s.hostData sector data else s) = true := by simp [h]
    have hm (u : State) (hu : u.memOk = true) (bi : AMap BackInv) (sn : AMap Bool) :
        State.memOk { u with backInv := bi, snoop := sn } = true := hu
    simp only [State.memOk_serveReads]
    split
    · exact State.memOk_landPend (hm _ hd _ _) _
    · exact hm _ hd _ _

theorem execHostMemWrite_keepsMem (fn addr : Nat) (enables : BitVec 64) (data : BitVec 512) (s : State) :
    KeepsMem s (execHostMemWrite fn addr enables data s) := keepsMem_next fun h => by
  split
  · simp [h]
  · simp [h]
  · have hc := State.memOk_claim h (addr / 64)
    have hw := State.memOk_newDev hc (t := { s.claim (addr / 64) with dev := writeMasked _ _ 64 enables.toNat data.toNat })
      (wf_writeMasked (64 * (addr / 64)) _ _ _ (State.wf_dev hc)) rfl rfl
    simp only
    split
    · exact hw
    · exact hw

/-! ### Firmware, debug, the calendar and power (R302 to R315, R332 to R338) -/

theorem execUnannouncedExtension_keepsMem (cycles : Nat) (s : State) : KeepsMem s (execUnannouncedExtension cycles s) :=
  keepsMem_of_eq (by
    have hc (k : Calendar) :
        State.memOk { (if cycles = 0 then s else s.health' healthExtension cycles) with cal := k } = s.memOk :=
      (State.memOk_ite _ _ _).trans (ite_self _)
    split
    · rfl
    · simp only
      split
      · exact hc _
      · split
        · rfl
        · split
          · rw [State.memOk_foldl _ _ _ fun u c => State.memOk_overrun u c, hc]
          · exact hc _)

theorem execSensorSweep_keepsMem (junction watts : Nat) (s : State) : KeepsMem s (execSensorSweep junction watts s) :=
  keepsMem_next fun h => by
    have hc (u : State) (k : Nat) : State.memOk { u with calm := k } = u.memOk := rfl
    split
    · exact h
    · simp only
      split
      · simp [h]
      · split
        · simp [hc, h]
        · split
          · simp [hc, h]
          · simp [hc, h]

theorem execSpareBringIn_keepsMem (sp : Spare) (s : State) : KeepsMem s (execSpareBringIn sp s) := keepsMem_next fun h => by
  split
  · exact h
  · cases sp with
    | tile row col => simp [h]
    | bankRow t bank row =>
      simp only
      split
      · exact State.memOk_loseRow h _ _ _
      · exact h
    | bank t bank =>
      have hb (rs : List Nat) (u : Spares) : State.memOk { rs.foldl (fun s r => s.loseRow t bank r) s with spares := u } = true :=
        State.memOk_foldl_of (fun _ r hs => State.memOk_loseRow hs t bank r) rs h
      simp [hb, h]
    | dqLane n =>
      simp only
      split <;> exact h
    | core n =>
      simp only
      split <;> exact h

theorem execTokenRefill_keepsMem (slice bucket : Nat) (s : State) : KeepsMem s (execTokenRefill slice bucket s) :=
  keepsMem_of_eq (by
    split
    · rfl
    · simp only
      split
      · rfl
      · split <;> rfl)

theorem execSlcRequestAdmit_keepsMem (slice plane cls sectors : Nat) (s : State) :
    KeepsMem s (execSlcRequestAdmit slice plane cls sectors s) := keepsMem_of_eq (by
  split
  · rfl
  · split
    · rfl
    · rw [State.memOk_hintAdmit, State.memOk_def]
      simp only [← State.memOk_def]
      simp)

theorem execD3hotEntry_keepsMem (s : State) : KeepsMem s (execD3hotEntry s) := keepsMem_next fun h => by
  have hd := State.memOk_dropLines h (fun _ => true)
  split
  · exact h
  · split
    · simp [h]
    · have hdev := State.wf_dev hd
      have hhost := State.wf_hostMem hd
      exact State.memOk_of hdev hhost (by simp)

/-- Every instruction keeps the memories canonical: a word as its meaning does, a step as its own lemma says. -/
theorem exec_keepsMem (i : Instr) (s : State) : KeepsMem s (exec i s) := by
  have hw := wordMeaning_keepsMem i s
  cases i with
  | bundleIssue tile => exact execBundleIssue_keepsMem tile s
  | registerWriteLands => exact keepsMem_of_eq (State.memOk_setCtx _ _ _)
  | segmentResident ctx => exact execSegmentResident_keepsMem ctx s
  | copyRecordPerform ctx ch n => exact execCopyRecordPerform_keepsMem ctx ch n s
  | remoteAtomicPerform ctx ch => exact execRemoteAtomicPerform_keepsMem ctx ch s
  | hostAtomicPerform ctx ch => exact execHostAtomicPerform_keepsMem ctx ch s
  | cellAddPerform ctx => exact execCellAddPerform_keepsMem ctx s
  | cellInitPerform ctx => exact execCellInitPerform_keepsMem ctx s
  | lrawPerform ctx => exact execLrawPerform_keepsMem ctx s
  | gatherComplete ctx => exact execGatherComplete_keepsMem ctx s
  | collectiveComplete ctx => exact execCollectiveComplete_keepsMem ctx s
  | drainPushPerform ctx => exact execDrainPushPerform_keepsMem ctx s
  | engineFaultDelivery ctx => exact execEngineFaultDelivery_keepsMem ctx s
  | rollback ctx => exact execRollback_keepsMem ctx s
  | eventTaken | quantumExpiry | pauseEnd | watchdogExpiry | drainLimitExceeded | qreset | paused | debugHalt
  | debugRegisterAccess | debugSingleStep | debugResume | consentExpiry => exact keepsMem_of_eq (by simp)
  | matrixResultLands | mldwComplete | evictionRequest | cadenceChange =>
    refine keepsMem_of_eq ?_
    split <;> simp
  | syncRelease =>
    refine keepsMem_of_eq ?_
    split
    · rfl
    · split <;> simp
  | taskEnd | launchFailureStop | doorbell => exact keepsMem_next fun h => by simp [h]
  | launchStart n p y x => exact execLaunchStart_keepsMem n p y x s
  | evictionStop ctx => exact execEvictionStop_keepsMem ctx s
  | evictionComplete n => exact execEvictionComplete_keepsMem n s
  | resume n p y x => exact execResume_keepsMem n p y x s
  | hostRegisterWrite fn reg v => exact execHostRegisterWrite_keepsMem fn reg v s
  | nop fn q => exact execNop_keepsMem fn q s
  | launch fn q => exact execLaunch_keepsMem fn q s
  | signal | barrier | evict | timestamp | release =>
    refine keepsMem_next fun h => State.memOk_runPacket h (fun p => ?_) _ _ _ _
    simp [h]
  | migrate fn q => exact execMigrate_keepsMem fn q s
  | migrationCopy t => exact execMigrationCopy_keepsMem t s
  | migrationCommit t => exact execMigrationCommit_keepsMem t s
  | hostReadShared | hostReadOwn => exact keepsMem_of_eq (State.memOk_hostRead _ _ _ _)
  | hostMemWrite fn addr e d => exact execHostMemWrite_keepsMem fn addr e d s
  | backInvalidateResponse sec d => exact execBackInvalidateResponse_keepsMem sec d s
  | hostSnoop => exact keepsMem_next fun h => State.memOk_snooped h _ _
  | atticLineFill line own => exact execAtticLineFill_keepsMem line own s
  | hostAtomicopCompletion ctx ch st => exact execHostAtomicopCompletion_keepsMem ctx ch st s
  | hostCompletionTimeout ctx src => exact execHostCompletionTimeout_keepsMem ctx src s
  | tenantReset fn => exact keepsMem_next fun h => State.memOk_resetTenant h fn
  | functionLevelReset fn =>
    refine keepsMem_next fun h => ?_
    simp only [State.memOk_def]
    simp only [← State.memOk_def]
    exact State.memOk_resetTenant h fn
  | linkDown => exact keepsMem_of_eq rfl
  | spdmRequest => exact keepsMem_of_eq (State.memOk_tell _ _)
  | d3hotEntry => exact execD3hotEntry_keepsMem s
  | powerLoss => exact keepsMem_next fun h => State.memOk_afterPower h _
  | linkTraining | fwrangeWrite | prepare | activate | firmwareRestart | debugConsent | maintenanceFrameBoundary | guardBandStart
  | maintenanceSlotStart | extendedFrameAnnounce | railSettled | d3hotExit =>
    refine keepsMem_of_eq ?_
    split <;> rfl
  | sensorSweep j w => exact execSensorSweep_keepsMem j w s
  | unannouncedExtension n => exact execUnannouncedExtension_keepsMem n s
  | spareBringIn sp => exact execSpareBringIn_keepsMem sp s
  | tokenRefill sl b => exact execTokenRefill_keepsMem sl b s
  | slcRequestAdmit sl p c n => exact execSlcRequestAdmit_keepsMem sl p c n s
  | hostRequestCompletion ctx src st => exact execHostRequestCompletion_keepsMem ctx src st s
  | reset => exact keepsMem_next fun h => by simp [h]
  | _ => exact hw

/-! ### Every step -/

/-- What comes next is chosen on a machine with the same memories. -/
theorem State.memOk_pick (s : State) : s.pick.2.memOk = s.memOk := by
  unfold State.pick
  split
  · rfl
  · split
    · split
      · rfl
      · simp only
        split <;> rfl
    · rfl

/-- Settles O56: the event that comes next leaves the memories canonical, and so does the end of the cycle. -/
theorem stepKeepsMemory : Obligations.StepKeepsMemory := by
  intro s t h ht
  have hp := (State.memOk_pick s).trans h
  unfold step at ht
  split at ht
  · rename_i i s' hs
    rw [hs] at hp
    exact exec_keepsMem i s' hp t ht
  · rename_i s' hs
    rw [hs] at hp
    cases ht
    exact State.memOk_tick hp

end Sys2Proof.Machine

/-! SUPPORT. What an operation leaves of the tasks: the cycle, the calendar, the contexts, the tiles, the launches and the
tenants. The operations on memory, caches, rings, ports and rails leave all of it, one lemma for each in the order in which the model
builds them. -/

namespace Sys2Proof.Machine

/-! ### A loop whose turns leave something -/

/-- What every turn of a loop leaves, the loop leaves. -/
theorem foldl_keeps {σ α β : Type} {g : σ → β} {f : σ → α → σ} (h : ∀ s x, g (f s x) = g s) (xs : List α) (s : σ) :
    g (xs.foldl f s) = g s :=
  List.foldlRecOn (motive := fun t => g t = g s) xs f rfl fun t ht x _ => (h t x).trans ht

/-! ### The tasks of a state -/

/-- The parts of a state that tasks, tiles and launches stand in. -/
def State.tasks (s : State) : (Nat × Calendar) × AMap Ctx × AMap Tile × AMap Launch × AMap Tenant :=
  ((s.cycle, s.cal), s.ctxs, s.tiles, s.launches, s.tenants)

theorem State.tasks_iff (s t : State) : t.tasks = s.tasks ↔
    (t.cycle = s.cycle ∧ t.cal = s.cal) ∧ t.ctxs = s.ctxs ∧ t.tiles = s.tiles ∧ t.launches = s.launches ∧
      t.tenants = s.tenants := by
  simp [State.tasks]

section
variable {s t : State} (h : t.tasks = s.tasks)
include h

theorem State.cycle_of_tasks : t.cycle = s.cycle := ((State.tasks_iff s t).mp h).1.1
theorem State.ctxs_of_tasks : t.ctxs = s.ctxs := ((State.tasks_iff s t).mp h).2.1
theorem State.launches_of_tasks : t.launches = s.launches := ((State.tasks_iff s t).mp h).2.2.2.1
theorem State.ctx_of_tasks (c : Nat) : t.ctx c = s.ctx c := congrArg (mgetD · c Ctx.reset) (State.ctxs_of_tasks h)
theorem State.tile_of_tasks (u : Nat) : t.tile u = s.tile u :=
  congrArg (mgetD · u Tile.reset) ((State.tasks_iff s t).mp h).2.2.1
theorem State.tenant_of_tasks (f : Nat) : t.tenant f = s.tenant f :=
  congrArg (mgetD · f Tenant.reset) ((State.tasks_iff s t).mp h).2.2.2.2

end

/-! ### Memory, caches and ports -/

@[simp] theorem State.tasks_claim (s : State) (sec : Nat) : (s.claim sec).tasks = s.tasks := by
  unfold State.claim; split <;> rfl

@[simp] theorem State.tasks_claimRange (s : State) (a n : Nat) : (s.claimRange a n).tasks = s.tasks := by
  unfold State.claimRange
  split
  · rfl
  · exact foldl_keeps State.tasks_claim _ _

@[simp] theorem State.tasks_askBack (s : State) (sn : Nat × Bool) : (s.askBack sn).tasks = s.tasks := by
  unfold State.askBack
  split
  · split <;> rfl
  · rfl

@[simp] theorem State.tasks_landPend (s : State) (sec : Nat) : (s.landPend sec).tasks = s.tasks := by
  have hc : (if (s.fwPend.filter (fun p => p.1 / 64 == sec)).isEmpty then s else s.claim sec).tasks = s.tasks := by
    split
    · rfl
    · exact State.tasks_claim s sec
  unfold State.landPend
  simp only
  split <;> exact hc

@[simp] theorem State.tasks_loseSector (s : State) (sec : Nat) : (s.loseSector sec).tasks = s.tasks :=
  (State.tasks_landPend _ sec).trans rfl

@[simp] theorem State.tasks_enqueue (s : State) (c : Nat) (seq : Option Nat) (nd : Need) :
    (s.enqueue c seq nd).tasks = s.tasks := by
  unfold State.enqueue State.enqueueAs; split <;> rfl

@[simp] theorem State.tasks_dropTicket (s : State) (c : Nat) (seq : Option Nat) : (s.dropTicket c seq).tasks = s.tasks := rfl

/-! ### Host memory and host reads -/

@[simp] theorem State.tasks_writeBack (s : State) (ln : Nat) (l : Line) : (s.writeBack ln l).tasks = s.tasks := by
  unfold State.writeBack; split <;> rfl

@[simp] theorem State.tasks_snooped (s : State) (ln : Nat) (invalidate : Bool) : (s.snooped ln invalidate).tasks = s.tasks := by
  unfold State.snooped
  split
  · rfl
  · exact State.tasks_writeBack s ln _

@[simp] theorem State.tasks_hostSet (s : State) (a : Nat) (b : Byte) : (s.hostSet a b).tasks = s.tasks := by
  unfold State.hostSet
  simp only
  split
  · exact State.tasks_snooped s _ _
  · rfl

@[simp] theorem State.tasks_hostRead (s : State) (fn addr : Nat) (excl : Bool) : (s.hostRead fn addr excl).tasks = s.tasks := by
  have he : s.evictFilter.tasks = s.tasks := by
    unfold State.evictFilter
    split
    · rfl
    · split
      · exact State.tasks_askBack s _
      · rfl
  unfold State.hostRead
  split
  · unfold State.barredRead
    split <;> rfl
  · simp only
    split
    · exact he
    · rfl

@[simp] theorem State.tasks_tickLate (s : State) : s.tickLate.tasks = s.tasks := by
  have hl := foldl_keeps (g := State.tasks) (f := fun (s : State) (p : Nat × BackInv) => s.loseSector p.1)
    (fun s p => State.tasks_loseSector s p.1) (s.backInv.filter (fun p => s.late p.2.since)) s
  exact ((foldl_keeps (fun s r => State.tasks_hostRead s _ _ _) _ _).trans rfl).trans hl

/-! ### Records, rails and what a use of memory leaves in the caches -/

@[simp] theorem State.tasks_fwByte (s : State) (held : List Nat) (a : Nat) (b : Byte) :
    (s.fwByte held a b).tasks = s.tasks := by
  unfold State.fwByte
  split
  · rfl
  · exact State.tasks_claim s _

@[simp] theorem State.tasks_fwWrite (s : State) (a n v : Nat) : (s.fwWrite a n v).tasks = s.tasks := by
  unfold State.fwWrite State.fwBytes
  simp only
  split
  · exact State.tasks_claimRange s _ _
  · exact (foldl_keeps (fun s _ => State.tasks_fwByte s _ _ _) _ _).trans (foldl_keeps (fun s _ => State.tasks_askBack s _) _ _)

@[simp] theorem State.tasks_record (s : State) (fn kind reason tag code w1 w2 w3 : Nat) :
    (s.record fn kind reason tag code w1 w2 w3).tasks = s.tasks := by
  have hw (a v0 v1 v2 v3 : Nat) :
      ((((s.fwWrite a 8 v0).fwWrite (a + 8) 8 v1).fwWrite (a + 16) 8 v2).fwWrite (a + 24) 8 v3).tasks = s.tasks := by simp
  unfold State.record
  simp only
  split
  · rfl
  · exact hw _ _ _ _ _

@[simp] theorem State.tasks_launchRecord (s : State) (l : Launch) : (s.launchRecord l).tasks = s.tasks := by
  unfold State.launchRecord
  split <;> exact State.tasks_record s _ _ _ _ _ _ _ _

@[simp] theorem State.tasks_followVotes (s : State) : s.followVotes.tasks = s.tasks := by
  refine foldl_keeps (fun s r => ?_) _ _
  simp only
  split <;> rfl

@[simp] theorem State.tasks_takeTurn (s : State) (plane cls fn : Nat) : (s.takeTurn plane cls fn).tasks = s.tasks := rfl

end Sys2Proof.Machine

/-! SUPPORT. A step runs the bundle that its bytes decode to (R42, R92, R94, R194). -/

namespace Sys2Proof.Machine

/-! ### The end of a cycle moves the clock on -/

@[simp] theorem State.endBlock_cycle (s : State) (c n : Nat) : (s.endBlock c n).cycle = s.cycle := by
  unfold State.endBlock State.sample
  simp only
  split <;> rfl

@[simp] theorem State.sampleBlocks_cycle (s : State) : s.sampleBlocks.cycle = s.cycle :=
  foldl_keeps (fun s _ => State.endBlock_cycle s _ _) _ _

@[simp] theorem State.countIssue_cycle (s : State) : s.countIssue.cycle = s.cycle :=
  foldl_keeps (fun s p => by split <;> rfl) _ _

@[simp] theorem State.payEnergy_cycle (s : State) : s.payEnergy.cycle = s.cycle := by
  refine foldl_keeps (fun s p => ?_) _ _
  split
  · rfl
  · refine foldl_keeps (fun s op => ?_) _ _
    split
    · refine foldl_keeps (fun s b => ?_) _ _
      rfl
    · rfl

@[simp] theorem State.count1_cycle (s : State) : s.count1.cycle = s.cycle := by simp [State.count1]

@[simp] theorem State.markMigrations_cycle (s : State) : s.markMigrations.cycle = s.cycle := by
  unfold State.markMigrations
  split
  · rfl
  · exact foldl_keeps (g := State.cycle) (f := fun (s : State) (m : Migration) => s.mapEntries m.old m.lsize (fun e => entSetState e 2))
      (fun _ _ => rfl) _ _

@[simp] theorem State.input_cycle (s : State) (i : Input) : (s.input i).cycle = s.cycle := by
  cases i with
  | hostStore a n v => exact foldl_keeps (fun s _ => State.cycle_of_tasks (State.tasks_hostSet s _ _)) _ _
  | spError t w fatal =>
    simp only [State.input]
    split
    · rfl
    · split <;> rfl
  | devError sec fatal =>
    simp only [State.input]
    split
    · rfl
    · split <;> rfl
  | readMonitor fn t u =>
    simp only [State.input, State.readUnit]
    split
    · rfl
    · exact (apply_ite State.cycle _ _ _).trans (ite_self _)
  | readCounter fn n => simp only [State.input]; split <;> rfl
  | readFwstatus | readHealth => rfl

@[simp] theorem State.tidy_cycle (s : State) : s.tidy.cycle = s.cycle :=
  calc s.tidy.cycle = s.markMigrations.tickPorts.tickLate.cycle :=
      foldl_keeps (g := State.cycle) (f := fun (s : State) (p : Nat × Input) => s.input p.2) (fun s p => State.input_cycle s p.2) _ _
    _ = s.markMigrations.cycle := State.cycle_of_tasks (State.tasks_tickLate _)
    _ = s.cycle := State.markMigrations_cycle s

theorem State.tick_cycle (s : State) : s.tick.cycle = s.cycle + 1 := by
  unfold State.tick
  split
  · rfl
  · exact congrArg (· + 1) (by simp : s.count1.tidy.cycle = s.cycle)

/-! ### A word in its bundle -/

/-- Every word that some slot admits answers a next state. -/
theorem wordMeaning_next (i : Instr) (sl : Slot) (s : State) (h : wfIn sl i = true) : ∃ t, wordMeaning i s = .next t := by
  cases i <;> first | exact Bool.noConfusion h | exact ⟨_, rfl⟩

/-- A word of a bundle does what `exec` gives it, with its own slot in hand. -/
theorem exec_eq_word (sl : Slot) (i : Instr) (s : State) (h : wfIn sl i = true) :
    exec i { s with issue := { s.issue with slot := sl } } = .next (s.word (sl, i)) := by
  obtain ⟨t, ht⟩ := wordMeaning_next i sl { s with issue := { s.issue with slot := sl } } h
  rw [← wordMeaning_eq_exec i sl _ h]
  simp [State.word, ht]

/-! ### A bundle that passes its checks -/

theorem Ctx.performs_all {x : Ctx} (b : Bundle) (ha : x.annul = 0) (hm : x.svcMode = false) : x.performs b = b.words := by
  simp [Ctx.performs, ha, hm]

theorem Ctx.fetch_bundle {x : Ctx} {off stop : Nat} {b : Bundle} (hl : x.locate x.pc.toNat = .at' off stop)
    (ha : x.pc.toNat % 4 = 0) (hd : decodeBundle (x.avail off stop) = .ok b) :
    x.fetch = .bundle b (bundleLen b.hdr.pres) := by
  simp [Ctx.fetch, hl, ha, hd]

/-- With no fault of its flags, its schedule or its words, a bundle performs and goes on. -/
theorem State.issueBundle_performs {s : State} {c : Nat} {b : Bundle} {len : Nat} (hh : (s.ctx c).headFault b.hdr = none)
    (hf : s.flagFault c b = none) (hr : (s.ran c b len).issue.raised = none) :
    s.issueBundle c b len = (s.ran c b len).close (decide ((s.ctx c).annul ≠ 0)) := by
  simp [State.issueBundle, State.transitFault, hh, hf, hr]

/-- Settles O60: a step is the event picked or the end of the cycle, and an issue fetches, performs and closes the bundle. -/
theorem stepRunsDecoded : Obligations.StepRunsDecoded := by
  refine ⟨fun s i s' h => ?_, fun s s' h => ⟨?_, State.tick_cycle s'⟩, exec_eq_word, fun x b => Ctx.performs_all b, ?_⟩
  · simp only [step, h]
  · simp only [step, h]
  · intro s tile c b off stop hp hi p ch u v x hc hl ha hd ws w hh hf hr
    have hs : step s = execBundleIssue tile s := by simp only [step, hp]; rfl
    have hx : u.issueCtx c = w.close (decide (x.annul ≠ 0)) := by
      have hb := State.issueBundle_performs (s := v) (c := c) (b := b) (len := bundleLen b.hdr.pres) hh hf hr
      have hv : (v.ctx c).fetch = .bundle b (bundleLen b.hdr.pres) := Ctx.fetch_bundle hl ha hd
      simp only [State.issueCtx]
      rw [hv]
      exact hb
    have hu : execBundleIssue tile s = .next (u.issueCtx c) := by
      have hc' : (State.choose p tile).ctx = some c := hc
      unfold execBundleIssue
      simp only [hi, Bool.false_eq_true, if_false, u, ch, p]
      simp only [p] at hc'
      simp only [hc', Option.map_some]
    rw [hs, hu, hx]

end Sys2Proof.Machine

/-! SUPPORT. SYNC releases its domain (R63 to R67), and tasks and launches end (R40, R41, R367, R485). -/

namespace Sys2Proof.Machine

/-! ### Arrivals at a domain -/

theorem Ctx.arrivalAt_some {x : Ctx} {a b : Arrival} (h : x.arrivalAt a = some b) : x.wait = .hold b ∧ b.level = a.level := by
  unfold Ctx.arrivalAt at h
  split at h
  · rename_i b' hw
    split at h
    · rename_i hc
      simp only [Bool.and_eq_true, beq_iff_eq] at hc
      cases h
      exact ⟨hw, hc.1.2⟩
    · cases h
  · cases h

/-- A member of the domain that has arrived is among those that go on. -/
theorem State.mem_arrivedAt {s : State} {c d : Nat} {a b : Arrival} (hd : d ∈ s.domainOf c a.dmr a.level)
    (hb : (s.ctx d).arrivalAt a = some b) : d ∈ s.arrivedAt c a := by
  unfold State.domainOf at hd
  unfold State.arrivedAt
  cases hl : mfind s.launches (s.ctx c).launch <;> simp only [hl, List.mem_filter] at hd ⊢ <;> exact ⟨hd.1, by simp [hb]⟩

theorem le_foldl_max {α : Type} (f : α → Nat) (xs : List α) (k : Nat) :
    k ≤ xs.foldl (fun m x => max m (f x)) k ∧ ∀ x ∈ xs, f x ≤ xs.foldl (fun m x => max m (f x)) k := by
  induction xs generalizing k with
  | nil => simp
  | cons y ys ih =>
    obtain ⟨hk, hm⟩ := ih (max k (f y))
    refine ⟨(Nat.le_max_left _ _).trans hk, fun x hx => ?_⟩
    rcases List.mem_cons.mp hx with rfl | hx
    · exact (Nat.le_max_right _ _).trans hk
    · exact hm x hx

/-- A whole domain has no member that has not arrived, nor one that arrived after t_last (R63, R66). -/
theorem State.lastArrival_some {s : State} {c last : Nat} {a : Arrival} (h : s.lastArrival c a = some last) :
    ∀ d ∈ s.domainOf c a.dmr a.level, ∃ b, (s.ctx d).arrivalAt a = some b ∧ b.at' ≤ last := by
  intro d hd
  simp only [State.lastArrival] at h
  split at h
  · cases h
  · rename_i hw
    simp only [Bool.or_eq_true, decide_eq_true_eq, not_or, Nat.not_lt] at hw
    have hall := List.filterMap_length_eq_length.mp (Nat.le_antisymm (List.length_filterMap_le _ _) hw.2)
    obtain ⟨b, hb⟩ := Option.isSome_iff_exists.mp (hall d hd)
    refine ⟨b, hb, ?_⟩
    cases h
    exact (Nat.le_max_left b.at' b.left).trans ((le_foldl_max (fun b => max b.at' b.left) _ _).2 b (List.mem_filterMap.mpr ⟨d, hd, hb⟩))

theorem State.lastArrival_none {s : State} {c d : Nat} {a : Arrival} (hd : d ∈ s.domainOf c a.dmr a.level)
    (hw : ∀ b, (s.ctx d).wait ≠ .hold b) : s.lastArrival c a = none := by
  cases h : s.lastArrival c a with
  | none => rfl
  | some last =>
    obtain ⟨b, hb, -⟩ := State.lastArrival_some h d hd
    exact absurd (Ctx.arrivalAt_some hb).1 (hw b)

/-! ### When a domain releases -/

theorem State.releaseDue_hold {s : State} {c : Nat} {a : Arrival} (hw : (s.ctx c).wait = .hold a) :
    s.releaseDue c = true ↔ (s.ctx c).isLive = true ∧ ∃ last, s.lastArrival c a = some last ∧ last + 40 ≤ s.cycle ∧
      ((s.ctx c).strict = true → s.cal.start = s.cycle) := by
  unfold State.releaseDue
  simp only [hw]
  cases s.lastArrival c a with
  | none => simp
  | some last => cases (s.ctx c).strict <;> simp

theorem State.releaseDue_notHold {s : State} {c : Nat} (hw : ∀ a, (s.ctx c).wait ≠ .hold a) : s.releaseDue c = false := by
  simp only [State.releaseDue]
  cases h : (s.ctx c).wait with
  | hold a => exact absurd h (hw a)
  | none | fence | drain | transit => exact Bool.and_false _

theorem exec_syncRelease_idle {s : State} {c : Nat} (h : ¬ s.releaseDue c = true) : exec (.syncRelease c) s = .next s := by
  show execSyncRelease c s = _
  simp [execSyncRelease, h]

/-! ### The release itself -/

theorem Ctx.release_release (x : Ctx) (now : Nat) : (x.release now).release now = x.release now := by
  have hf : (if x.strictNow then some (now, none) else (x.release now).frame) = (x.release now).frame := by
    simp only [Ctx.release]
    split <;> rfl
  exact congrArg (fun f => { x.release now with frame := f }) hf

/-- One after another, contexts are released. -/
def State.releaseEach (s : State) (cs : List Nat) : State :=
  cs.foldl (fun (s : State) c => s.setCtx c ((s.ctx c).release s.cycle)) s

theorem exec_syncRelease_due {s : State} {c : Nat} {a : Arrival} (hw : (s.ctx c).wait = .hold a) (h : s.releaseDue c = true) :
    exec (.syncRelease c) s = .next (s.releaseEach (s.arrivedAt c a)) := by
  show execSyncRelease c s = _
  simp [execSyncRelease, h, hw, State.releaseEach]

theorem State.releaseEach_only (s : State) (cs : List Nat) : s.releaseEach cs = { s with ctxs := (s.releaseEach cs).ctxs } :=
  List.foldlRecOn (motive := fun t : State => t = { s with ctxs := t.ctxs }) cs _ rfl fun t ht c _ => by
    rw [ht]; rfl

theorem State.releaseEach_ctx (s : State) (cs : List Nat) (d : Nat) :
    (s.releaseEach cs).ctx d = if d ∈ cs then (s.ctx d).release s.cycle else s.ctx d := by
  induction cs generalizing s with
  | nil => simp [State.releaseEach]
  | cons c cs ih =>
    show ((s.setCtx c ((s.ctx c).release s.cycle)).releaseEach cs).ctx d = _
    rw [ih, State.setCtx_cycle]
    by_cases hd : d = c
    · subst hd; simp [Ctx.release_release]
    · simp [State.ctx_setCtx_ne _ _ hd, hd]

/-! ### A task ends -/

@[simp] theorem State.freeOwner_ctxs (s : State) (c : Nat) : (s.freeOwner c).ctxs = s.ctxs := by
  unfold State.freeOwner; simp only; split <;> rfl
@[simp] theorem State.freeOwner_launches (s : State) (c : Nat) : (s.freeOwner c).launches = s.launches := by
  unfold State.freeOwner; simp only; split <;> rfl
@[simp] theorem State.freeOwner_tenants (s : State) (c : Nat) : (s.freeOwner c).tenants = s.tenants := by
  unfold State.freeOwner; simp only; split <;> rfl
@[simp] theorem State.freeOwner_ctx (s : State) (c d : Nat) : (s.freeOwner c).ctx d = s.ctx d := by
  simp [State.ctx]
@[simp] theorem State.freeOwner_tenant (s : State) (c f : Nat) : (s.freeOwner c).tenant f = s.tenant f := by
  simp [State.tenant]

/-- The end of a launch changes no context. -/
@[simp] theorem State.completeLaunch_ctx (s : State) (n c : Nat) : (s.completeLaunch n).ctx c = s.ctx c := by
  unfold State.completeLaunch
  split
  · rfl
  · split
    · rfl
    · rename_i l _
      exact (State.ctx_of_tasks (State.tasks_followVotes _) c).trans (State.ctx_of_tasks (State.tasks_launchRecord s l) c)

/-- A launch of which nothing is live is over, and DONE of its class grows by one (R40, R301). -/
theorem State.completeLaunch_done {s : State} {n : Nat} {l : Launch} (hl : mfind s.launches n = some l) (hd : s.launchDone n = true) :
    mfind (s.completeLaunch n).launches n = some { l with st := .over } ∧
      mgetD ((s.completeLaunch n).tenant l.fn).counters (4 + l.cls) 0 =
        min (2 ^ 48 - 1) (mgetD (s.tenant l.fn).counters (4 + l.cls) 0 + 1) := by
  have ht := State.tenant_of_tasks (State.tasks_launchRecord s l) l.fn
  unfold State.completeLaunch
  simp only [hd, hl, Bool.not_true, Bool.false_eq_true, if_false]
  rw [State.launches_of_tasks (State.tasks_followVotes _), State.tenant_of_tasks (State.tasks_followVotes _)]
  refine ⟨mfind_mput_self _ _ _, ?_⟩
  show mgetD (((s.launchRecord l).count l.fn (ctrDone l.cls) 48 1).tenant l.fn).counters (4 + l.cls) 0 = _
  simp [State.count, ctrDone, ones, ht]

/-- Nothing of a launch on its tiles is live, and nothing of it waits in the cellar unless it fails. -/
theorem State.launchDone_intro {s : State} {n : Nat} {l : Launch} (hl : mfind s.launches n = some l) (hst : l.st = .running)
    (hlive : ∀ d ∈ l.ctxs, (s.ctx d).isLive = false) (hev : l.failing = true ∨ s.someEvicted n l = false) : s.launchDone n = true := by
  have hn : s.someLive n l = false := by
    simp only [State.someLive, List.any_eq_false]
    intro d hd
    simp [hlive d hd]
  simp only [State.launchDone, hl, hst, hn, LaunchSt.onTiles]
  rcases hev with h | h <;> simp [h]

/-- How the task of a context ends whose END has status `st` (R367). -/
def Ctx.ended (x : Ctx) (st : Nat) : Ctx :=
  { x with life := if st = 0 then .ended else .failed, wait := .none, pauseTo := none, ending := none, gathers := [], colls := [] }

theorem exec_taskEnd {s : State} {c st pc : Nat} (hr : (s.ctx c).endReady = true) (he : (s.ctx c).ending = some (st, pc)) :
    exec (.taskEnd c) s = .next (((s.setCtx c ((s.ctx c).ended st)).freeOwner c).completeLaunch (s.ctx c).launch) := by
  show execTaskEnd c s = _
  simp only [execTaskEnd, hr, he, Bool.not_true, Bool.false_eq_true, if_false, Ctx.ended]
  by_cases h : st = 0 <;> simp [h]

theorem Ctx.ended_life_ne (x : Ctx) (st : Nat) : (x.ended st).life ≠ .live ∧ (x.ended st).life ≠ .evicted := by
  simp only [Ctx.ended]
  split <;> simp

/-- The end of the last live task leaves its launch done. -/
theorem State.launchDone_ended {s : State} {c st : Nat} {l : Launch} (hl : mfind s.launches (s.ctx c).launch = some l)
    (hst : l.st = .running) (hall : l.ctxs.all (fun d => d == c || !(s.ctx d).isLive) = true)
    (hev : l.failing = true ∨ s.someEvicted (s.ctx c).launch l = false) :
    ((s.setCtx c ((s.ctx c).ended st)).freeOwner c).launchDone (s.ctx c).launch = true := by
  obtain ⟨hnl, hne⟩ := Ctx.ended_life_ne (s.ctx c) st
  have hctx (d : Nat) : ((s.setCtx c ((s.ctx c).ended st)).freeOwner c).ctx d = if d = c then (s.ctx c).ended st else s.ctx d := by
    rw [State.freeOwner_ctx]
    by_cases h : d = c
    · subst h; simp
    · simp [State.ctx_setCtx_ne _ _ h, h]
  refine State.launchDone_intro (by simpa using hl) hst (fun d hd => ?_) (hev.imp id fun hev => ?_)
  · have := List.all_eq_true.mp hall d hd
    rw [hctx]
    by_cases h : d = c
    · simpa [h, Ctx.isLive] using hnl
    · simpa [h] using this
  · simp only [State.someEvicted, List.any_eq_false] at hev ⊢
    intro d hd
    have := hev d hd
    rw [hctx]
    by_cases h : d = c
    · simp [h, hne]
    · simpa [h] using this

/-! ### A task of a launch that failed stops -/

/-- The task of a context as a failure elsewhere in its launch leaves it (R41). -/
def Ctx.stopsFailed (x : Ctx) : Ctx :=
  { x.releaseAll with life := .stopped, wait := .none, pauseTo := none, syncWait := false, rollback := none }

theorem exec_launchFailureStop {s : State} {c : Nat} {l : Launch} {f : Failure} (hlive : (s.ctx c).isLive = true)
    (he : (s.ctx c).ending = none) (hl : mfind s.launches (s.ctx c).launch = some l) (hf : l.failing = true)
    (hfl : l.failure = some f) (hlt : f.cycle < s.cycle) :
    exec (.launchFailureStop c) s =
      .next (((s.setCtx c (s.ctx c).stopsFailed).freeOwner c).completeLaunch (s.ctx c).launch) := by
  show execLaunchFailureStop c s = _
  simp [execLaunchFailureStop, State.stopDue, Ctx.stopsFailed, hlive, he, hl, hf, hfl, hlt]

/-- Settles O31: a release is due exactly when the domain is whole and its cycle has come; an end and a stop complete the launch. -/
theorem syncAndTaskEnd : Obligations.SyncAndTaskEnd := by
  refine ⟨fun s c => ?_, fun s c => ?_⟩
  · refine ⟨fun a last hlive hw hl h40 hst => ?_, fun a last hl d hd => ?_, fun a d hd hnw hw => ?_, fun a last hw hl hno => ?_,
      fun hw => ?_⟩
    · refine ⟨_, exec_syncRelease_due hw ((State.releaseDue_hold hw).mpr ⟨hlive, last, hl, h40, hst⟩), State.releaseEach_only _ _,
        fun d hd => ?_, fun d hd => ?_⟩
      · rw [State.releaseEach_ctx, if_pos hd]
        exact ⟨rfl, rfl, rfl, rfl, rfl⟩
      · rw [State.releaseEach_ctx, if_neg hd]
    · obtain ⟨b, hb, hle⟩ := State.lastArrival_some hl d hd
      exact ⟨State.mem_arrivedAt hd hb, b, (Ctx.arrivalAt_some hb).1, (Ctx.arrivalAt_some hb).2, hle⟩
    · refine exec_syncRelease_idle fun h => ?_
      obtain ⟨-, last, hl, -⟩ := (State.releaseDue_hold hw).mp h
      rw [State.lastArrival_none hd hnw] at hl
      cases hl
    · refine exec_syncRelease_idle fun h => ?_
      obtain ⟨-, last', hl', h40, hst⟩ := (State.releaseDue_hold hw).mp h
      cases hl.symm.trans hl'
      rcases hno with hno | ⟨hs, hne⟩
      · omega
      · exact hne (hst hs)
    · exact exec_syncRelease_idle (by simp [State.releaseDue_notHold hw])
  · refine ⟨fun st pc hr he => ?_, fun l f hlive he hl hf hfl hlt => ?_⟩
    · refine ⟨_, exec_taskEnd hr he, by simp [Ctx.ended], by simp [Ctx.ended], by simp [Ctx.ended],
        fun l hl hst hall hev => ?_⟩
      obtain ⟨hover, hcount⟩ := State.completeLaunch_done (by simpa using hl) (State.launchDone_ended (st := st) hl hst hall hev)
      exact ⟨⟨_, hover, rfl⟩, by simpa using hcount⟩
    · refine ⟨_, exec_launchFailureStop hlive he hl hf hfl hlt, ?_⟩
      rw [State.completeLaunch_ctx, State.freeOwner_ctx, State.ctx_setCtx]
      exact ⟨rfl, Ctx.releaseAll_held (s.ctx c), rfl⟩

end Sys2Proof.Machine

/-! SUPPORT. Loops over places that differ, the bytes of an image in a memory, and the argument registers of a task. -/

namespace Sys2Proof.Machine

/-! ### Loops -/

/-- What every turn of a loop keeps, once one turn has brought it about, holds after the loop. -/
theorem foldl_stays {σ α : Type} {P : σ → Prop} {f : σ → α → σ} {x : α} {xs : List α} (hx : x ∈ xs) (hset : ∀ u, P (f u x))
    (hkeep : ∀ u y, P u → P (f u y)) (s : σ) : P (xs.foldl f s) := by
  obtain ⟨as, bs, rfl⟩ := List.append_of_mem hx
  rw [List.foldl_append, List.foldl_cons]
  exact List.foldlRecOn bs f (hset _) fun u hu y _ => hkeep u y hu

/-- In a loop over elements with keys of their own, whose turns leave what `g` shows unless their key is that of `x`, `g` shows at the
end what the turn of `x` has made of the state at the beginning. -/
theorem foldl_at {σ α β κ : Type} {f : σ → α → σ} {g : σ → β} {key : α → κ} {I : σ → Prop} {x : α} {xs : List α} (hx : x ∈ xs)
    (hn : (xs.map key).Nodup) (hI : ∀ u y, I u → I (f u y)) (hf : ∀ u y, key y ≠ key x → g (f u y) = g u) {s : σ} (hs : I s) :
    ∃ u, I u ∧ g u = g s ∧ g (xs.foldl f s) = g (f u x) := by
  have hleave (ys : List α) (hy : ∀ y ∈ ys, key y ≠ key x) (u : σ) : g (ys.foldl f u) = g u :=
    List.foldlRecOn (motive := fun t => g t = g u) ys f rfl fun t ht y hm => (hf t y (hy y hm)).trans ht
  obtain ⟨as, bs, rfl⟩ := List.append_of_mem hx
  simp only [List.map_append, List.map_cons, List.nodup_append, List.nodup_cons, List.mem_map, List.mem_cons] at hn
  obtain ⟨-, ⟨hb, -⟩, ha⟩ := hn
  refine ⟨as.foldl f s, List.foldlRecOn as f hs fun u hu y _ => hI u y hu,
    hleave as (fun y hy he => ha _ ⟨y, hy, rfl⟩ _ (.inl rfl) he) s, ?_⟩
  rw [List.foldl_append, List.foldl_cons]
  exact hleave bs (fun y hy he => hb ⟨y, hy, he⟩) _

/-! ### Bytes -/

/-- A key whose entries a filter drops is no longer found. -/
theorem mfind_filter_none {α : Type} (m : AMap α) {f : Nat × α → Bool} {k : Nat} (h : ∀ v, f (k, v) = false) :
    mfind (m.filter f) k = none := by
  induction m with
  | nil => rfl
  | cons p m ih =>
    rw [List.filter_cons]
    split
    · rename_i hp
      have hne : p.1 ≠ k := by
        rintro rfl
        exact Bool.false_ne_true ((h p.2).symm.trans hp)
      simp only [mfind, hne, if_false, ih]
    · exact ih

theorem mread_clearRange (m : Memory) {a n b : Nat} (h1 : a ≤ b) (h2 : b < a + n) : mread (clearRange m a n) b = blank := by
  have hn : mfind (clearRange m a n) b = none := mfind_filter_none m fun v => by simp [h1, h2]
  simp [mread, mgetD, hn]

@[simp] theorem length_readBytes (m : Memory) (a n : Nat) : (readBytes m a n).length = n := by
  induction n generalizing a with
  | zero => rfl
  | succ n ih => simp [readBytes, ih]

theorem getElem?_readBytes (m : Memory) (a : Nat) {n i : Nat} (h : i < n) : (readBytes m a n)[i]? = some (mread m (a + i)) := by
  induction n generalizing a i with
  | zero => omega
  | succ n ih =>
    cases i with
    | zero => rfl
    | succ i =>
      rw [readBytes, List.getElem?_cons_succ, ih (a + 1) (by omega)]
      congr 2
      omega

/-- A byte of a list reads where it was written. -/
theorem mread_writeBytes_in {m : Memory} (hw : Memory.wf m = true) (a : Nat) {bs : List Byte} {i : Nat} {b : Byte}
    (h : bs[i]? = some b) : mread (writeBytes m a bs) (a + i) = b := by
  induction bs generalizing m a i with
  | nil => simp at h
  | cons c bs ih =>
    rw [writeBytes]
    cases i with
    | zero =>
      cases h
      show mread (writeBytes (mwrite m a _) (a + 1) bs) a = _
      rw [mread_writeBytes_out _ _ _ _ (.inl (by omega)), mread_mwrite_self _ _ hw]
    | succ i =>
      rw [show a + (i + 1) = a + 1 + i by omega]
      exact ih (wf_mwrite _ _ hw) (a + 1) (by simpa using h)

/-! ### Images of a scratchpad (R330) -/

/-- The bytes of device memory that images name, written over a scratchpad. -/
def State.images (s : State) (m : Memory) (ims : List (Nat × Nat × Nat)) : Memory :=
  ims.foldl (fun m e => writeBytes m e.2.1 (readBytes (s.text e.1 e.2.2) e.1 e.2.2)) m

theorem State.loadSp_sp (s : State) (t lo size : Nat) (ims : List (Nat × Nat × Nat)) :
    ((s.loadSp t lo size ims).tile t).sp = s.images (clearRange (s.tile t).sp lo size) ims := by
  simp [State.loadSp, State.images]

/-- A byte that no image covers. -/
theorem State.mread_images_out (s : State) (m : Memory) {ims : List (Nat × Nat × Nat)} {b : Nat}
    (h : ∀ e ∈ ims, ¬ (e.2.1 ≤ b ∧ b < e.2.1 + e.2.2)) : mread (s.images m ims) b = mread m b :=
  List.foldlRecOn (motive := fun m' => mread m' b = mread m b) ims _ rfl fun m' hm e he =>
    (mread_writeBytes_out _ _ _ _ (by have := h e he; rw [length_readBytes]; omega)).trans hm

/-- A byte of one of several images that lie apart. -/
theorem State.mread_images_in {s : State} (hd : Memory.wf s.dev = true) {m : Memory} (hm : Memory.wf m = true)
    {ims : List (Nat × Nat × Nat)} (ho : spOverlap ims = false) {e : Nat × Nat × Nat} (he : e ∈ ims) {i : Nat} (hi : i < e.2.2) :
    mread (s.images m ims) (e.2.1 + i) = s.devByte (e.1 + i) := by
  induction ims generalizing m with
  | nil => cases he
  | cons f fs ih =>
    simp only [spOverlap, Bool.or_eq_false_iff, List.any_eq_false, decide_eq_true_eq, not_and, Nat.not_lt] at ho
    obtain ⟨hapart, ho⟩ := ho
    show mread (s.images (writeBytes m f.2.1 (readBytes (s.text f.1 f.2.2) f.1 f.2.2)) fs) (e.2.1 + i) = _
    rcases List.mem_cons.mp he with rfl | he
    · rw [State.mread_images_out s _ (fun g hg => by have := hapart g hg; omega),
        mread_writeBytes_in hm _ (getElem?_readBytes _ _ hi), s.mread_text hd (by omega) (by omega)]
    · exact ih (wf_writeBytes _ _ hm) ho he

/-! ### Argument registers (R38) -/

theorem mfind_foldl_mput {α : Type} (vs : List α) (a : Nat) (m : AMap α) (k : Nat) :
    mfind (((List.range' a vs.length).zip vs).foldl (fun m p => mput m (p.1 + 1) p.2) m) k =
      if a < k ∧ k ≤ a + vs.length then vs[k - (a + 1)]? else mfind m k := by
  induction vs generalizing a m with
  | nil => rw [if_neg (by simp)]; rfl
  | cons v vs ih =>
    rw [List.length_cons, List.range'_succ, List.zip_cons_cons, List.foldl_cons, ih]
    by_cases hk : k = a + 1
    · subst hk
      rw [if_neg (by omega), if_pos (by omega), mfind_mput_self]
      simp
    · rw [mfind_mput_ne _ _ hk]
      by_cases hin : a < k ∧ k ≤ a + (vs.length + 1)
      · rw [if_pos hin, if_pos (by omega), show k - (a + 1) = k - (a + 1 + 1) + 1 by omega, List.getElem?_cons_succ]
      · rw [if_neg hin, if_neg (by omega)]

/-- Eight argument words stand in s1 to s8, and nothing in any other register. -/
theorem mfind_argRegs {args : List Word} (h : args.length = 8) (k : Nat) :
    mfind (argRegs args) k = if 0 < k ∧ k ≤ 8 then args[k - 1]? else none := by
  have := mfind_foldl_mput args 0 [] k
  rw [h, ← List.range_eq_range'] at this
  simpa [argRegs, mfind] using this

end Sys2Proof.Machine

/-! SUPPORT. A launch is accepted, ends before L, or starts at L (R37 to R39, R57, R127, R298, R307, R330, R331). -/

namespace Sys2Proof.Machine

/-! ### The places of a launch -/

theorem Launch.ctxs_eq_spots (l : Launch) : l.ctxs = l.spots.map (·.2.2) := by
  simp [Launch.ctxs, Launch.spots, List.map_flatMap, Function.comp_def]

theorem Launch.mem_ctxs {l : Launch} {p : Nat × Nat × Nat} (h : p ∈ l.spots) : p.2.2 ∈ l.ctxs := by
  rw [Launch.ctxs_eq_spots]
  exact List.mem_map_of_mem h

/-- Contexts of one launch on the same tile are the same context: they lie on one plane. -/
theorem Launch.spots_eq_of_tile {l : Launch} {p q : Nat × Nat × Nat} (hp : p ∈ l.spots) (hq : q ∈ l.spots)
    (h : tileOf p.2.2 = tileOf q.2.2) : p.2.2 = q.2.2 := by
  simp only [Launch.spots, List.mem_flatMap, List.mem_map] at hp hq
  obtain ⟨i, -, j, -, rfl⟩ := hp
  obtain ⟨i', -, j', -, rfl⟩ := hq
  simp only [tileOf, ctxId] at h ⊢
  omega

theorem Launch.spots_tiles_nodup {l : Launch} (hn : (l.spots.map (·.2.2)).Nodup) : (l.spots.map (fun p => tileOf p.2.2)).Nodup := by
  have h := List.Nodup.map_on (f := tileOf) (fun c hc d hd he => by
    obtain ⟨p, hp, rfl⟩ := List.mem_map.mp hc
    obtain ⟨q, hq, rfl⟩ := List.mem_map.mp hd
    exact Launch.spots_eq_of_tile hp hq he) hn
  rwa [List.map_map] at h

/-! ### Acceptance -/

/-- The contexts of the launch are those that its tables give, with the sequence numbers of their pushes going on. -/
theorem State.prepareAll_ctx {s : State} {n : Nat} {l : Launch} (hn : (l.spots.map (·.2.2)).Nodup) {p : Nat × Nat × Nat}
    (hp : p ∈ l.spots) : (s.prepareAll n l).ctx p.2.2 = { s.prepare n l p.1 p.2.1 with seq := (s.ctx p.2.2).seq } := by
  obtain ⟨u, ⟨cs, hu⟩, hc, ht⟩ := foldl_at (g := fun u : State => u.ctx p.2.2) (key := fun q : Nat × Nat × Nat => q.2.2)
    (f := fun (u : State) q => u.setCtx q.2.2 { u.prepare n l q.1 q.2.1 with seq := (u.ctx q.2.2).seq })
    (I := fun u => ∃ cs, u = { s with ctxs := cs }) hp hn
    (fun u q => by rintro ⟨cs, rfl⟩; exact ⟨_, rfl⟩) (fun u q hq => State.ctx_setCtx_ne u _ (Ne.symm hq)) ⟨s.ctxs, rfl⟩
  have hprep : u.prepare n l p.1 p.2.1 = s.prepare n l p.1 p.2.1 := by rw [hu]; rfl
  refine ht.trans ((State.ctx_setCtx _ _ _).trans ?_)
  rw [hprep, ← hc]

@[simp] theorem State.prepareAll_launches (s : State) (n : Nat) (l : Launch) : (s.prepareAll n l).launches = s.launches := by
  refine foldl_keeps (fun u p => ?_) _ _
  rfl

@[simp] theorem State.takeEngines_launches (s : State) (l : Launch) (cs : List Nat) : (s.takeEngines l cs).launches = s.launches := by
  unfold State.takeEngines
  split
  · refine foldl_keeps (fun u d => ?_) _ _
    rfl
  · rfl

@[simp] theorem State.takeEngines_ctx (s : State) (l : Launch) (cs : List Nat) (c : Nat) : (s.takeEngines l cs).ctx c = s.ctx c := by
  unfold State.takeEngines
  split
  · refine foldl_keeps (g := fun u : State => u.ctx c) (fun u d => ?_) _ _
    rfl
  · rfl

/-- A strict launch owns the matrix engine of each of its tiles (R57). -/
theorem State.takeEngines_owner {s : State} {l : Launch} (hs : l.strict = true) {cs : List Nat} {c : Nat} (hc : c ∈ cs) :
    ((s.takeEngines l cs).tile (tileOf c)).owner = some l.plane := by
  simp only [State.takeEngines, hs, if_true]
  refine foldl_stays (P := fun u : State => (u.tile (tileOf c)).owner = some l.plane) hc (fun u => ?_) (fun u d hu => ?_) s
  · simp
  · by_cases h : tileOf c = tileOf d
    · simp [h]
    · simpa [State.tile_setTile_ne _ _ h] using hu

/-- The launch placed on the cycle, its contexts loaded and its engines taken. -/
def State.placed (s : State) (n : Nat) (l : Launch) : State :=
  ({ s with launches := mput s.launches n { l with st := .placed s.cycle } }.prepareAll n l).takeEngines l l.ctxs

theorem State.tasks_acceptLaunch {s : State} {n : Nat} {l : Launch} (h : s.refusal n l = none) :
    (s.acceptLaunch n l).tasks = (s.placed n l).tasks := by
  unfold State.acceptLaunch
  rw [h]
  exact (State.tasks_followVotes _).trans ((State.tasks_enqueue _ _ _ _).trans (State.tasks_takeTurn _ _ _ _))

theorem State.placed_ctx {s : State} {n : Nat} {l : Launch} (hn : (l.spots.map (·.2.2)).Nodup) {p : Nat × Nat × Nat} (hp : p ∈ l.spots) :
    (s.placed n l).ctx p.2.2 = { s.prepare n l p.1 p.2.1 with seq := (s.ctx p.2.2).seq } := by
  rw [State.placed, State.takeEngines_ctx, State.prepareAll_ctx hn hp]
  rfl

theorem State.acceptLaunch_refused {s : State} {n r : Nat} {l : Launch} (h : s.refusal n l = some r) :
    s.acceptLaunch n l = s.refuseLaunch n l r := by
  unfold State.acceptLaunch
  rw [h]

theorem exec_launchStart_queued {s : State} {n plane y x : Nat} {l : Launch} (hl : mfind s.launches n = some l) (hst : l.st = .queued)
    (hw : s.withheld l = false) (hp : s.canPlace l plane y x = true) (ht : s.itsTurn n l plane = true)
    (hh : s.isHome (s.tables l) = true) :
    exec (.launchStart n plane y x) s = .next (s.acceptLaunch n (s.settle l plane y x)) := by
  show execLaunchStart n plane y x s = _
  simp [execLaunchStart, hl, hst, hw, hp, ht, State.withHome, hh]

/-! ### At L -/

theorem exec_launchStart_placed {s : State} {n a : Nat} {l : Launch} (plane y x : Nat) (hl : mfind s.launches n = some l)
    (hst : l.st = .placed a) (hL : s.isL l a = true) :
    exec (.launchStart n plane y x) s = .next (s.atL n l (s.startNeed l) (s.imagesAway n l) fun s => s.startLaunch n l) := by
  show execLaunchStart n plane y x s = _
  simp [execLaunchStart, hl, hst, hL]

/-- Images out of reach end the launch. -/
theorem State.atL_away {s : State} {n e : Nat} {l : Launch} {nd : Need} {k : State → State} (hf : nd.fault = none)
    (he : s.outOfReach l.fn l.imageReads = some e) :
    s.atL n l nd (s.imagesAway n l) k = s.leaveL l fun s => s.refuseLaunch n l 14 := by
  simp [State.atL, State.imagesAway, hf, he]

/-- Everything read, come home and admitted: the launch goes on. -/
theorem State.atL_goes {s : State} {n : Nat} {l : Launch} {nd : Need} {away : Option (State → State)} {k : State → State}
    (hf : nd.fault = none) (ha : away.isNone = true) (ht : s.codeInTransit l = false) (hh : nd.holds true = false)
    (hp : s.admitted l.firstCtx none nd = true) : s.atL n l nd away k = k ((s.fillAll l.fn nd).dropTicket l.firstCtx none) := by
  rw [Option.isNone_iff_eq_none.mp ha]
  simp [State.atL, hf, ht, hh, hp]

theorem State.leaveL_refused (s : State) (n : Nat) (l : Launch) (reason : Nat) :
    mfind (s.leaveL l fun s => s.refuseLaunch n l reason).launches n = some { l with st := .over } := by
  unfold State.leaveL
  rw [State.launches_of_tasks (State.tasks_followVotes _)]
  exact mfind_mput_self _ _ _

/-- A use of memory leaves the caches in another state, and nothing else. -/
theorem State.fillAll_only (s : State) (fn : Nat) (nd : Need) : ∃ q a, s.fillAll fn nd = { s with slc := q, attic := a } := by
  have hs : ∃ q a, nd.touches.foldl (fun (s : State) t => s.fill fn t) s = { s with slc := q, attic := a } :=
    List.foldlRecOn (motive := fun t : State => ∃ q a, t = { s with slc := q, attic := a }) _ _ ⟨_, _, rfl⟩
      fun t ht u _ => by obtain ⟨q, a, rfl⟩ := ht; exact ⟨_, _, rfl⟩
  exact List.foldlRecOn (motive := fun t : State => ∃ q a, t = { s with slc := q, attic := a }) nd.reach _ hs
    fun t ht u _ => by obtain ⟨q, a, rfl⟩ := ht; exact ⟨_, _, rfl⟩

/-! ### One tile starts -/

/-- The task that goes live in a context whose instruction memory has been loaded. -/
def Ctx.started (x : Ctx) (m : Memory) (h0 h1 : Option Nat) (args : List Word) (enable : BitVec 6)
    (now cadence : Nat) (dbg : Bool) : Ctx :=
  ({ x with imem := m, half0 := h0, half1 := h1, s := argRegs args, evEnable := enable } : Ctx).goLive now cadence dbg

/-- Loading code fills instruction memory, and notes what the halves hold. -/
theorem State.loadCode_only (s : State) (x : Ctx) (a b : Option Nat) :
    ∃ m h0 h1, s.loadCode x a b = { x with imem := m, half0 := h0, half1 := h1 } := by
  simp only [State.loadCode]
  split
  · exact ⟨_, _, _, rfl⟩
  · cases a <;> cases b <;> exact ⟨_, _, _, rfl⟩

/-- Only contexts of the tile lose a debug enable (R336). -/
theorem State.clearDebug_only (s : State) (t fn : Nat) : ∃ cs, s.clearDebug t fn = { s with ctxs := cs } :=
  List.foldlRecOn (motive := fun u : State => ∃ cs, u = { s with ctxs := cs }) (planesOf t) _ ⟨_, rfl⟩ fun u hu c _ => by
    obtain ⟨cs, rfl⟩ := hu
    simp only
    split
    · exact ⟨_, rfl⟩
    · exact ⟨_, rfl⟩

theorem State.clearDebug_ctx_ne {s : State} {t fn d : Nat} (ht : t < 144) (hd : tileOf d ≠ t) : (s.clearDebug t fn).ctx d = s.ctx d :=
  List.foldlRecOn (motive := fun u : State => u.ctx d = s.ctx d) (planesOf t) _ rfl fun u hu c hc => by
    have hne : d ≠ c := by
      simp only [planesOf, List.mem_cons, List.not_mem_nil, or_false] at hc
      simp only [tileOf] at hd
      omega
    simp only
    split
    · exact (State.ctx_setCtx_ne _ _ hne).trans hu
    · exact hu

/-- A tile with its scratchpad loaded and its accumulator window cleared. -/
def State.loadTile (s : State) (l : Launch) (t : Nat) : State :=
  (s.loadSp t l.spBase l.spSize l.spLoads).clearAcc t l.accBase l.accCnt

theorem State.startTile_eq (s : State) (l : Launch) (c : Nat) : s.startTile l c =
    let u := (s.loadTile l (tileOf c)).clearDebug (tileOf c) l.fn
    u.setCtx c (Ctx.goLive { u.loadCode (s.ctx c) (some 0) none with s := argRegs l.args, evEnable := l.enable }
      u.cycle (u.cadenceOf l) (u.consented l)) := rfl

theorem State.startTile_only (s : State) (l : Launch) (c : Nat) : ∃ cs ts, s.startTile l c = { s with ctxs := cs, tiles := ts } := by
  obtain ⟨cs, hd⟩ := State.clearDebug_only (s.loadTile l (tileOf c)) (tileOf c) l.fn
  rw [State.startTile_eq, hd]
  exact ⟨_, _, rfl⟩

theorem State.startTile_ctx (s : State) (l : Launch) (c : Nat) : ∃ m h0 h1,
    (s.startTile l c).ctx c = (s.ctx c).started m h0 h1 l.args l.enable s.cycle (s.cadenceOf l) (s.consented l) := by
  obtain ⟨cs, hd⟩ := State.clearDebug_only (s.loadTile l (tileOf c)) (tileOf c) l.fn
  obtain ⟨m, h0, h1, hc⟩ :=
    State.loadCode_only ((s.loadTile l (tileOf c)).clearDebug (tileOf c) l.fn) (s.ctx c) (some 0) none
  refine ⟨m, h0, h1, ?_⟩
  simp only [State.startTile_eq, hc, State.ctx_setCtx]
  rw [hd]
  rfl

theorem State.startTile_tile (s : State) (l : Launch) (c : Nat) :
    (s.startTile l c).tile (tileOf c) = (s.loadTile l (tileOf c)).tile (tileOf c) := by
  obtain ⟨cs, hd⟩ := State.clearDebug_only (s.loadTile l (tileOf c)) (tileOf c) l.fn
  rw [State.startTile_eq, hd]
  rfl

/-- Other tiles, and the contexts on them, stay as they are. -/
theorem State.startTile_ne {s : State} {l : Launch} {c d : Nat} (h : tileOf c ≠ tileOf d) :
    (s.startTile l c).ctx d = s.ctx d ∧ (s.startTile l c).tile (tileOf d) = s.tile (tileOf d) := by
  have hne : d ≠ c := by rintro rfl; exact h rfl
  have hd := State.clearDebug_ctx_ne (s := s.loadTile l (tileOf c)) (fn := l.fn) (Nat.mod_lt c (by decide)) (Ne.symm h)
  obtain ⟨cs, ho⟩ := State.clearDebug_only (s.loadTile l (tileOf c)) (tileOf c) l.fn
  refine ⟨(State.ctx_setCtx_ne _ _ hne).trans hd, ?_⟩
  rw [State.startTile_eq, ho]
  exact (State.tile_setTile_ne _ _ (Ne.symm h)).trans (State.tile_setTile_ne _ _ (Ne.symm h))

end Sys2Proof.Machine

/-! SUPPORT. A launch starts at L: the state of R38 in its contexts, its tiles, and the launch itself (R37 to R39, R330). -/

namespace Sys2Proof.Machine

/-! ### The state of R38 -/

section
variable {x : Ctx} {m : Memory} {h0 h1 : Option Nat} {enable : BitVec 6} {now cadence : Nat} {dbg : Bool}

/-- A started task holds its argument words in s1 to s8. -/
theorem Ctx.started_args {args : List Word} (h : args.length = 8) {i : Nat} (hi : i < 8) :
    (x.started m h0 h1 args enable now cadence dbg).rs (i + 1) = args.getD i 0#64 := by
  show mgetD (argRegs args) (i + 1) 0#64 = _
  rw [mgetD, mfind_argRegs h, if_pos (by omega), Nat.add_sub_cancel, List.getD_eq_getElem?_getD]

theorem Ctx.started_rest {args : List Word} (h : args.length = 8) {i : Nat} (hi : 8 < i) :
    (x.started m h0 h1 args enable now cadence dbg).rs i = 0#64 := by
  show (if i = 0 then 0#64 else mgetD (argRegs args) i 0#64) = _
  rw [mgetD, mfind_argRegs h, if_neg (by omega : ¬ (0 < i ∧ i ≤ 8))]
  exact ite_self _

end

/-! ### The tile at L: its accumulator window reads zero, its scratchpad holds the images, and zero elsewhere -/

theorem State.clearAcc_window (s : State) {t base cnt row : Nat} (h1 : 128 * base ≤ row) (h2 : row < 128 * (base + cnt)) :
    mfind ((s.clearAcc t base cnt).tile t).acc row = none := by
  simp only [State.clearAcc, State.tile_setTile]
  exact mfind_filter_none _ fun v => by simp [h1, h2]

theorem State.clearAcc_sp (s : State) (t base cnt : Nat) : ((s.clearAcc t base cnt).tile t).sp = (s.tile t).sp := by
  simp [State.clearAcc]

theorem State.startTile_window (s : State) (l : Launch) (c : Nat) {row : Nat} (h1 : 128 * l.accBase ≤ row)
    (h2 : row < 128 * (l.accBase + l.accCnt)) : mfind ((s.startTile l c).tile (tileOf c)).acc row = none := by
  rw [State.startTile_tile]
  exact State.clearAcc_window _ h1 h2

theorem State.startTile_sp (s : State) (l : Launch) (c : Nat) : ((s.startTile l c).tile (tileOf c)).sp =
    s.images (clearRange (s.tile (tileOf c)).sp l.spBase l.spSize) l.spLoads := by
  rw [State.startTile_tile, State.loadTile, State.clearAcc_sp, State.loadSp_sp]

theorem State.startTile_zero (s : State) (l : Launch) (c : Nat) {b : Nat} (h1 : l.spBase ≤ b) (h2 : b < l.spBase + l.spSize)
    (hout : ∀ e ∈ l.spLoads, ¬ (e.2.1 ≤ b ∧ b < e.2.1 + e.2.2)) : mread ((s.startTile l c).tile (tileOf c)).sp b = 0#8 := by
  rw [State.startTile_sp, State.mread_images_out _ _ hout, mread_clearRange _ h1 h2, blank]

theorem State.startTile_images {s : State} {l : Launch} {c : Nat} (hw : Memory.wf (s.tile (tileOf c)).sp = true)
    (hd : Memory.wf s.dev = true) (ho : spOverlap l.spLoads = false) {e : Nat × Nat × Nat} (he : e ∈ l.spLoads)
    {i : Nat} (hi : i < e.2.2) :
    mread ((s.startTile l c).tile (tileOf c)).sp (e.2.1 + i) = s.devByte (e.1 + i) := by
  rw [State.startTile_sp, State.mread_images_in hd (wf_clearRange _ _ hw) ho he hi]

/-! ### The launch starts -/

theorem State.startLaunch_launch (s : State) (n : Nat) (l : Launch) :
    mfind (s.startLaunch n l).launches n = some { l with st := .running } := mfind_mput_self _ _ _

/-- The tiles of a launch start one after another. -/
def State.startTiles (s : State) (l : Launch) : State := l.spots.foldl (fun (s : State) p => s.startTile l p.2.2) s

theorem State.startLaunch_ctx (s : State) (n : Nat) (l : Launch) (c : Nat) : (s.startLaunch n l).ctx c = (s.startTiles l).ctx c := rfl
theorem State.startLaunch_tile (s : State) (n : Nat) (l : Launch) (t : Nat) : (s.startLaunch n l).tile t = (s.startTiles l).tile t := rfl

/-- Each of its contexts and tiles is what the start of that tile has made of it: tiles differ, and the loads read the same memory. -/
theorem State.startTiles_at {s : State} {l : Launch} (hn : (l.spots.map (·.2.2)).Nodup) {p : Nat × Nat × Nat}
    (hp : p ∈ l.spots) : ∃ cs ts, let u : State := { s with ctxs := cs, tiles := ts }
      (u.ctx p.2.2 = s.ctx p.2.2 ∧ u.tile (tileOf p.2.2) = s.tile (tileOf p.2.2)) ∧
      (s.startTiles l).ctx p.2.2 = (u.startTile l p.2.2).ctx p.2.2 ∧
      (s.startTiles l).tile (tileOf p.2.2) = (u.startTile l p.2.2).tile (tileOf p.2.2) := by
  obtain ⟨u, ⟨cs, ts, rfl⟩, hsame, hend⟩ := foldl_at (g := fun u : State => (u.ctx p.2.2, u.tile (tileOf p.2.2)))
    (key := fun q : Nat × Nat × Nat => tileOf q.2.2) (f := fun (u : State) q => u.startTile l q.2.2)
    (I := fun u => ∃ cs ts, u = { s with ctxs := cs, tiles := ts }) hp (Launch.spots_tiles_nodup hn)
    (fun u q => by
      rintro ⟨cs, ts, rfl⟩
      obtain ⟨cs', ts', h⟩ := State.startTile_only { s with ctxs := cs, tiles := ts } l q.2.2
      exact ⟨cs', ts', h⟩)
    (fun u q hq => by
      obtain ⟨hc, ht⟩ := State.startTile_ne (s := u) (l := l) hq
      simp only [hc, ht]) ⟨s.ctxs, s.tiles, rfl⟩
  simp only [Prod.mk.injEq] at hsame hend
  exact ⟨cs, ts, hsame, hend⟩

/-- The caches and ports that a use of memory changes bear on none of it: a task of the launch goes live in its context as that stood
at L, on its tile as that stood, and its images are those of device memory at L. -/
theorem State.startTiles_atL (s : State) {l : Launch} (nd : Need) (hn : (l.spots.map (·.2.2)).Nodup) {p : Nat × Nat × Nat}
    (hp : p ∈ l.spots) : let t := ((s.fillAll l.fn nd).dropTicket l.firstCtx none).startTiles l
    (∃ m h0 h1 dbg, t.ctx p.2.2 = (s.ctx p.2.2).started m h0 h1 l.args l.enable s.cycle (s.cadenceOf l) dbg) ∧
    ∃ u : State, (u.tile (tileOf p.2.2) = s.tile (tileOf p.2.2) ∧ u.dev = s.dev ∧ ∀ b, u.devByte b = s.devByte b) ∧
      t.tile (tileOf p.2.2) = (u.startTile l p.2.2).tile (tileOf p.2.2) := by
  obtain ⟨q, a, h⟩ := State.fillAll_only s l.fn nd
  rw [h]
  obtain ⟨cs, ts, ⟨hc0, ht0⟩, hc, ht⟩ := State.startTiles_at (s := State.dropTicket { s with slc := q, attic := a } l.firstCtx none) hn hp
  refine ⟨?_, _, ⟨ht0, rfl, fun b => rfl⟩, ht⟩
  obtain ⟨m, h0, h1, hstart⟩ := State.startTile_ctx
    { State.dropTicket { s with slc := q, attic := a } l.firstCtx none with ctxs := cs, tiles := ts } l p.2.2
  rw [hc0] at hstart
  exact ⟨m, h0, h1, _, hc.trans hstart⟩

/-- Every q register but q0 reads false (R38, R83). -/
theorem State.prepare_rq (s : State) (n : Nat) (l : Launch) (ry rx : Nat) {i : Nat} (hi : 0 < i) :
    (s.prepare n l ry rx).rq i = false := by
  show (i == 0 || (0#8).getLsbD i) = false
  simp [Nat.ne_of_gt hi]

/-- WTAB names the tenant's TID in its low half (R38). -/
theorem State.prepare_tid (s : State) (n : Nat) (l : Launch) (ry rx : Nat) :
    (s.prepare n l ry rx).wtab.toNat % 2 ^ 32 = l.tid % 2 ^ 32 := by
  show (BitVec.ofNat 41 (l.tid + 2 ^ 32 * _)).toNat % 2 ^ 32 = _
  rw [BitVec.toNat_ofNat, Nat.mod_mod_of_dvd _ (by decide), Nat.add_mul_mod_self_left]

/-- Settles O34: an acceptance loads the contexts, a refusal or an image out of reach ends the launch, and L starts tile after tile. -/
theorem launchesStart : Obligations.LaunchesStart := by
  intro s n plane y x l hl
  refine ⟨fun hst hw hpl ht hh => ⟨fun r hr => ?_, fun hr hn => ?_⟩, fun a e hst hL hf he => ?_,
    fun a hst hL hf ha htr hh hadm hn hargs hfresh => ?_⟩
  · rw [exec_launchStart_queued hl hst hw hpl ht hh, State.acceptLaunch_refused hr]
    rfl
  · have htasks := State.tasks_acceptLaunch hr
    refine ⟨_, exec_launchStart_queued hl hst hw hpl ht hh, ?_, rfl, fun p hp => ?_⟩
    · rw [State.launches_of_tasks htasks]
      simp [State.placed]
    · have hctx := (State.ctx_of_tasks htasks p.2.2).trans (State.placed_ctx hn hp)
      refine ⟨hctx, by rw [hctx]; rfl, by rw [hctx]; rfl, by rw [hctx]; rfl, fun hs => ?_⟩
      rw [State.tile_of_tasks htasks]
      exact State.takeEngines_owner (l := s.settle l plane y x) hs (Launch.mem_ctxs hp)
  · refine ⟨_, exec_launchStart_placed plane y x hl hst hL, ?_⟩
    rw [State.atL_away hf he]
    exact State.leaveL_refused s n l 14
  · refine ⟨_, exec_launchStart_placed plane y x hl hst hL, ?_⟩
    rw [State.atL_goes hf ha htr hh hadm]
    refine ⟨State.startLaunch_launch _ n l, fun p hp => ?_⟩
    obtain ⟨-, hpend, hsvc⟩ := hfresh p hp
    obtain ⟨⟨m, h0, h1, dbg, hz⟩, v, ⟨hvt, hvd, hvb⟩, htl⟩ := State.startTiles_atL s (s.startNeed l) hn hp
    simp only [State.startLaunch_ctx, State.startLaunch_tile]
    rw [hz, htl]
    refine ⟨fun u seq hx => ?_, rfl, rfl, hpend, hsvc, rfl, rfl, fun i hi => Ctx.started_args hargs hi,
      fun i hi => Ctx.started_rest hargs hi, rfl, rfl, rfl, fun row => State.startTile_window v l _,
      fun b => State.startTile_zero v l _, fun hw hd ho e he i hi => ?_⟩
    · rw [hx]
      -- What R38 gives is what a context has after reset, or what `prepare` writes, but for q, k and WTAB.
      exact ⟨rfl, rfl, fun i hi => State.prepare_rq u n l p.1 p.2.1 hi, fun i c => rfl, fun c => rfl,
        fun i c hi => if_neg (Nat.ne_of_gt hi), rfl, rfl, rfl, rfl, rfl, rfl, rfl, rfl, rfl, rfl, rfl, rfl, rfl, rfl, rfl, rfl,
        rfl, rfl, rfl, rfl, rfl, rfl, rfl, rfl, rfl, rfl, State.prepare_tid u n l p.1 p.2.1, rfl, rfl, rfl, rfl, rfl, rfl, rfl,
        rfl, rfl, rfl, rfl⟩
    · rw [← hvb]
      exact State.startTile_images (hvt ▸ hw) (hvd ▸ hd) ho he hi

end Sys2Proof.Machine

/-! SUPPORT. Slot words by their formats (R81): what each field of an encoding reads, and that a word is the encoding of its fields. -/

namespace Sys2Proof

/-! ### What a field of a word reads (R81) -/

theorem finish_ok {s : Slot} {rz : Nat} {o : Option Instr} {i : Instr} (hrz : rz = 0) (ho : o = some i) (h : wfIn s i = true) :
    finish s rz o = .ok i := by
  subst hrz ho
  simp [finish, h]

theorem ok_of_finish {s : Slot} {rz : Nat} {o : Option Instr} {i : Instr} (h : finish s rz o = .ok i) :
    rz = 0 ∧ o = some i ∧ wfIn s i = true := by
  unfold finish at h
  split at h
  · cases h
  · rename_i hrz
    split at h
    · cases h
    · split at h
      · cases h; exact ⟨not_not.mp hrz, rfl, ‹_›⟩
      · cases h

theorem finOfNat_iff {n : Nat} [NeZero n] {a : Nat} {d : Fin n} : Fin.ofNat n a = d ↔ a % n = d.val := Fin.ext_iff

theorem bvOfNat_iff {n a : Nat} {d : BitVec n} : BitVec.ofNat n a = d ↔ a % 2 ^ n = d.toNat := by
  rw [← BitVec.toNat_inj, BitVec.toNat_ofNat]

theorem bit_toNat (w n : Nat) : (bit w n).toNat = w / 2 ^ n % 2 := by
  have h : w / 2 ^ n % 2 < 2 := Nat.mod_lt _ (by decide)
  unfold bit fld
  rcases (by omega : w / 2 ^ n % 2 = 0 ∨ w / 2 ^ n % 2 = 1) with h | h <;> simp [h]

theorem bit_iff {w n : Nat} {b : Bool} : bit w n = b ↔ w / 2 ^ n % 2 = b.toNat := by
  rw [← bit_toNat]
  cases b <;> cases bit w n <;> simp

theorem Src.field_lt (b : Src) : b.field < 64 := by cases b <;> exact Fin.isLt _
theorem Src.i_lt (b : Src) : b.i < 2 := by cases b <;> simp [Src.i]

theorem srcF_field (w n : Nat) : (srcF w n).field = w / 2 ^ 6 % 64 := by unfold srcF; split <;> rfl

theorem srcF_i (w n : Nat) : (srcF w n).i = w / 2 ^ n % 2 := by
  have hb := bit_toNat w n
  unfold srcF
  cases hc : bit w n <;> simpa [hc, Src.i] using hb

theorem srcF_iff {w n : Nat} {b : Src} : srcF w n = b ↔ w / 2 ^ 6 % 64 = b.field ∧ w / 2 ^ n % 2 = b.i := by
  rw [← srcF_field w n, ← srcF_i w n]
  refine ⟨fun h => by rw [h]; exact ⟨rfl, rfl⟩, fun ⟨h1, h2⟩ => ?_⟩
  generalize srcF w n = c at h1 h2
  cases b <;> cases c <;> simp_all [Src.field, Src.i, Fin.ext_iff]

/-! ### Codes -/

theorem ETy.code_lt (t : ETy) : t.code < 16 := by cases t <;> decide
theorem ETy.ofCode_code (t : ETy) : ETy.ofCode t.code = t := by cases t <;> rfl
theorem ETy.code_ofCode {n : Nat} (h : n < 16) : (ETy.ofCode n).code = n := by interval_cases n <;> rfl
theorem ETy.ofCode_iff (w lo : Nat) {t : ETy} : ETy.ofCode (fld w lo 4) = t ↔ w / 2 ^ lo % 2 ^ 4 = t.code :=
  ⟨fun h => h ▸ (ETy.code_ofCode (Nat.mod_lt _ (by decide))).symm, fun h => by rw [fld, h, ETy.ofCode_code]⟩

theorem Width.code_lt (t : Width) : t.code < 4 := by cases t <;> decide
theorem Width.ofCode_code (t : Width) : Width.ofCode t.code = t := by cases t <;> rfl
theorem Width.code_ofCode {n : Nat} (h : n < 4) : (Width.ofCode n).code = n := by interval_cases n <;> rfl
theorem Width.ofCode_iff (w lo : Nat) {t : Width} : Width.ofCode (fld w lo 2) = t ↔ w / 2 ^ lo % 2 ^ 2 = t.code :=
  ⟨fun h => h ▸ (Width.code_ofCode (Nat.mod_lt _ (by decide))).symm, fun h => by rw [fld, h, Width.ofCode_code]⟩

theorem Cond.code_lt (c : Cond) : c.code < 7 := by cases c <;> decide
theorem Cond.ofCode_iff {n : Nat} {c : Cond} : Cond.ofCode n = some c ↔ n = c.code := by
  refine ⟨fun h => ?_, fun h => by subst h; cases c <;> rfl⟩
  unfold Cond.ofCode at h; split at h <;> cases h <;> rfl
theorem VCond.code_lt (c : VCond) : c.code < 7 := by cases c <;> decide
theorem VCond.ofCode_iff {n : Nat} {c : VCond} : VCond.ofCode n = some c ↔ n = c.code := by
  refine ⟨fun h => ?_, fun h => by subst h; cases c <;> rfl⟩
  unfold VCond.ofCode at h; split at h <;> cases h <;> rfl
theorem RMode.code_lt (c : RMode) : c.code < 5 := by cases c <;> decide
theorem RMode.ofCode_iff {n : Nat} {c : RMode} : RMode.ofCode n = some c ↔ n = c.code := by
  refine ⟨fun h => ?_, fun h => by subst h; cases c <;> rfl⟩
  unfold RMode.ofCode at h; split at h <;> cases h <;> rfl
theorem RedOp.code_lt (c : RedOp) : c.code < 6 := by cases c <;> decide
theorem RedOp.ofCode_iff {n : Nat} {c : RedOp} : RedOp.ofCode n = some c ↔ n = c.code := by
  refine ⟨fun h => ?_, fun h => by subst h; cases c <;> rfl⟩
  unfold RedOp.ofCode at h; split at h <;> cases h <;> rfl
theorem AmogOp.code_lt (c : AmogOp) : c.code < 3 := by cases c <;> decide
theorem AmogOp.ofCode_iff {n : Nat} {c : AmogOp} : AmogOp.ofCode n = some c ↔ n = c.code := by
  refine ⟨fun h => ?_, fun h => by subst h; cases c <;> rfl⟩
  unfold AmogOp.ofCode at h; split at h <;> cases h <;> rfl
theorem PfhKind.code_lt (c : PfhKind) : c.code < 3 := by cases c <;> decide
theorem PfhKind.ofCode_iff {n : Nat} {c : PfhKind} : PfhKind.ofCode n = some c ↔ n = c.code := by
  refine ⟨fun h => ?_, fun h => by subst h; cases c <;> rfl⟩
  unfold PfhKind.ofCode at h; split at h <;> cases h <;> rfl
theorem Scope.code_lt (c : Scope) : c.code < 5 := by cases c <;> decide
theorem Scope.ofCode_iff {n : Nat} {c : Scope} : Scope.ofCode n = some c ↔ n = c.code := by
  refine ⟨fun h => ?_, fun h => by subst h; cases c <;> rfl⟩
  unfold Scope.ofCode at h; split at h <;> cases h <;> rfl

theorem finOfNat_val (n a : Nat) [NeZero n] : (Fin.ofNat n a).val = a % n := rfl

theorem tyF_code (w : Nat) : (tyF w).code = w / 2 ^ 2 % 2 ^ 4 := ETy.code_ofCode (Nat.mod_lt _ (by decide))

theorem r6_of_fld {w : Nat} {b : Fin 64} (h : fld w 6 6 = b.val) : r6 w = b := Fin.ext h

theorem imm12_of_fld {w : Nat} {n : BitVec 12} (h : fld w 0 12 = n.toNat) : imm12 w = n := by
  unfold fld at h
  exact bvOfNat_iff.mpr (by omega)

theorem fld_above (w lo : Nat) : fld w (lo + 3) 3 = w / 2 ^ lo / 2 ^ 3 % 2 ^ 3 := by
  unfold fld
  rw [Nat.pow_add, ← Nat.div_div_eq_div_mul]

/-- A field of six bits that holds a number below 8, and the RZ bits above that number (R103). -/
theorem f8_of_six {w lo : Nat} {d : Fin 8} (h : Fin.ofNat 64 (w / 2 ^ lo) = ⟨d.val, by omega⟩) :
    f8 w lo = d ∧ fld w (lo + 3) 3 = 0 := by
  have h : w / 2 ^ lo % 64 = d.val := finOfNat_iff.mp h
  exact ⟨finOfNat_iff.mpr (by omega), by rw [fld_above]; omega⟩

theorem f8_eq_six {w lo : Nat} (h : fld w (lo + 3) 3 = 0) : (f8 w lo).val = fld w lo 6 := by
  rw [fld_above] at h
  simp only [f8, finOfNat_val, fld]
  omega

/-! ### Words by their formats (R81): what each field reads -/

/-- The word of an instruction is one that a map reads as the instruction. -/
def Reads (map : Nat → Nat → Except DecErr Instr) (i : Instr) : Prop :=
  ∃ w, encodeWord? i = some w ∧ w < 2 ^ 32 ∧ map (fld w 24 8) w = .ok i

section
variable {map : Nat → Nat → Except DecErr Instr} {i : Instr} {op : Nat}

theorem reads_op {x : Nat} (ho : op < 256) (hx : x < 2 ^ 24) (he : encodeWord? i = some (op * 2 ^ 24 + x))
    (h : ∀ w, fld w 0 24 = x → map op w = .ok i) : Reads map i := by
  refine ⟨_, he, by omega, ?_⟩
  rw [show fld (op * 2 ^ 24 + x) 24 8 = op by unfold fld; omega]
  exact h _ (by unfold fld; omega)

theorem reads_branch {q : QReg} {n : Bool} {x : BitVec 20} (ho : op < 256)
    (he : encodeWord? i = some (op * 2 ^ 24 + q.val * 2 ^ 21 + n.toNat * 2 ^ 20 + x.toNat))
    (h : ∀ w, f8 w 21 = q → bit w 20 = n → disp20 w = x → map op w = .ok i) : Reads map i := by
  have hn := n.toNat_lt
  rw [Nat.add_assoc, Nat.add_assoc] at he
  refine reads_op ho (by omega) he fun w hl => ?_
  unfold fld at hl
  exact h w (finOfNat_iff.mpr (by omega)) (bit_iff.mpr (by omega)) (bvOfNat_iff.mpr (by omega))

theorem reads_enc3_add {d a : Fin 64} {b lo : Nat} (ho : op < 256) (hb : b < 64) (hl : lo < 64)
    (he : encodeWord? i = some (enc3 op d.val a.val b + lo))
    (h : ∀ w, r18 w = d → r12 w = a → fld w 6 6 = b → fld w 0 6 = lo → map op w = .ok i) : Reads map i := by
  unfold enc3 at he
  refine ⟨_, he, by omega, ?_⟩
  rw [show fld (op * 2 ^ 24 + d.val * 2 ^ 18 + a.val * 2 ^ 12 + b * 2 ^ 6 + lo) 24 8 = op by unfold fld; omega]
  exact h _ (finOfNat_iff.mpr (by omega)) (finOfNat_iff.mpr (by omega)) (by unfold fld; omega) (by unfold fld; omega)

theorem reads_enc3 {d a b : Fin 64} (ho : op < 256) (he : encodeWord? i = some (enc3 op d.val a.val b.val))
    (h : ∀ w, r18 w = d → r12 w = a → r6 w = b → fld w 0 6 = 0 → map op w = .ok i) : Reads map i :=
  reads_enc3_add (lo := 0) ho b.isLt (by decide) (by rwa [Nat.add_zero]) fun w hd ha hb hl => h w hd ha (r6_of_fld hb) hl

theorem reads_imm {d a : Fin 64} {lo : Nat} (ho : op < 256) (hl : lo < 2 ^ 12)
    (he : encodeWord? i = some (enc3 op d.val a.val 0 + lo))
    (h : ∀ w, r18 w = d → r12 w = a → fld w 0 12 = lo → map op w = .ok i) : Reads map i := by
  unfold enc3 at he
  refine ⟨_, he, by omega, ?_⟩
  rw [show fld (op * 2 ^ 24 + d.val * 2 ^ 18 + a.val * 2 ^ 12 + 0 * 2 ^ 6 + lo) 24 8 = op by unfold fld; omega]
  exact h _ (finOfNat_iff.mpr (by omega)) (finOfNat_iff.mpr (by omega)) (by unfold fld; omega)

theorem reads_enc3_two {d a : Fin 64} (ho : op < 256) (he : encodeWord? i = some (enc3 op d.val a.val 0))
    (h : ∀ w, r18 w = d → r12 w = a → fld w 0 12 = 0 → map op w = .ok i) : Reads map i :=
  reads_imm (lo := 0) ho (by decide) (by rwa [Nat.add_zero]) h

theorem reads_encV {d a : Fin 64} {b : Nat} {t : ETy} {k : KSel} (ho : op < 256) (hb : b < 64)
    (he : encodeWord? i = some (encV op d.val a.val b t k))
    (h : ∀ w, r18 w = d → r12 w = a → fld w 6 6 = b → tyF w = t → k2 w = k → map op w = .ok i) : Reads map i := by
  have ht := t.code_lt
  unfold encV at he
  rw [Nat.add_assoc] at he
  refine reads_enc3_add ho hb (by omega) he fun w hd ha hb hl => ?_
  unfold fld at hl
  exact h w hd ha hb ((ETy.ofCode_iff w 2).mpr (by omega)) (finOfNat_iff.mpr (by omega))

theorem reads_encS {d b : Fin 64} {off : BitVec 9} {col : Colour} (ho : op < 256)
    (he : encodeWord? i = some (encS op d.val b.val off col))
    (h : ∀ w, r18 w = d → r12 w = b → off9 w = off → f8 w 0 = col → map op w = .ok i) : Reads map i := by
  rw [show encS op d.val b.val off col = enc3 op d.val b.val 0 + (off.toNat * 2 ^ 3 + col.val) by unfold encS enc3; omega] at he
  refine reads_imm ho (by omega) he fun w hd ha hl => ?_
  unfold fld at hl
  exact h w hd ha (bvOfNat_iff.mpr (by omega)) (finOfNat_iff.mpr (by omega))

theorem reads_encX {a b : Fin 64} {acc ctl : Nat} (ho : op < 256) (hacc : acc < 16) (hc : ctl < 256)
    (he : encodeWord? i = some (encX op acc a.val b.val ctl))
    (h : ∀ w, fld w 20 4 = acc → x14 w = a → x8 w = b → fld w 0 8 = ctl → map op w = .ok i) : Reads map i := by
  unfold encX at he
  refine ⟨_, he, by omega, ?_⟩
  rw [show fld (op * 2 ^ 24 + acc * 2 ^ 20 + a.val * 2 ^ 14 + b.val * 2 ^ 8 + ctl) 24 8 = op by unfold fld; omega]
  exact h _ (by unfold fld; omega) (finOfNat_iff.mpr (by omega)) (finOfNat_iff.mpr (by omega)) (by unfold fld; omega)

theorem reads_encA {d a b : SReg} {w u : Bool} {col : Colour} (ho : op < 256) (he : encodeWord? i = some (encA op d a b w u col))
    (h : ∀ v, r18 v = d → r12 v = a → r6 v = b → bit v 5 = w → fld v 3 2 = u.toNat * 2 → f8 v 0 = col → map op v = .ok i) :
    Reads map i := by
  have hw := w.toNat_lt
  have hu := u.toNat_lt
  unfold encA at he
  rw [Nat.add_assoc, Nat.add_assoc] at he
  refine reads_enc3_add ho b.isLt (by omega) he fun v hd ha hb hl => ?_
  unfold fld at hl
  exact h v hd ha (r6_of_fld hb) (bit_iff.mpr (by omega)) (by unfold fld; omega) (finOfNat_iff.mpr (by omega))

end

/-! ### A word is the encoding of what its fields read -/

section
variable {op w : Nat} (hw : w < 2 ^ 32) (ho : fld w 24 8 = op)
include hw ho

theorem op_fields : op * 2 ^ 24 + fld w 0 24 = w := by unfold fld at *; omega

theorem enc3_fields : enc3 op (r18 w).val (r12 w).val (fld w 6 6) + fld w 0 6 = w := by
  simp only [enc3, fld, r18, r12, finOfNat_val] at *; omega

theorem imm_fields : enc3 op (r18 w).val (r12 w).val 0 + fld w 0 12 = w := by
  simp only [enc3, fld, r18, r12, finOfNat_val] at *; omega

theorem encA_fields : encA op (r18 w) (r12 w) (r6 w) (bit w 5) (bit w 4) (f8 w 0) + fld w 3 1 * 2 ^ 3 = w := by
  have hf : enc3 op (r18 w).val (r12 w).val (r6 w).val + fld w 0 6 = w := enc3_fields hw ho
  simp only [encA, bit_toNat, f8, finOfNat_val]
  unfold fld at hf ⊢
  omega

theorem encV_fields : encV op (r18 w).val (r12 w).val (fld w 6 6) (tyF w) (k2 w) = w := by
  have hf := enc3_fields hw ho
  simp only [encV, tyF_code, k2, finOfNat_val]
  unfold fld at hf ⊢
  omega

theorem encS_fields : encS op (r18 w).val (r12 w).val (off9 w) (f8 w 0) = w := by
  simp only [encS, fld, r18, r12, off9, f8, finOfNat_val, BitVec.toNat_ofNat] at *; omega

theorem encX_fields : encX op (fld w 20 4) (x14 w).val (x8 w).val (fld w 0 8) = w := by
  simp only [encX, fld, x14, x8, finOfNat_val] at *; omega

end

end Sys2Proof

/-! SUPPORT. Each map of R98 to R112 reads the encoding of every instruction that its slot admits. -/

namespace Sys2Proof

/-! ### The scalar map and the control map (R98 to R100) -/

theorem decodeScalar_reads {s : Slot} {map : Nat → Nat → Except DecErr Instr}
    (hm : ∀ op w, op < 0x40 → map op w = decodeScalar s op w) {i : Instr} (hb : wfIn .sb i = true) (h : wfIn s i = true) :
    Reads map i := by
  cases i with
  | add d a b | sub d a b | mul d a b | and d a b | or d a b | xor d a b =>
    refine reads_enc3 (by decide) rfl fun w hd ha hb hl => ?_
    simp only [hm, Nat.reduceLT, decodeScalar, hd, ha, hb]
    exact finish_ok hl rfl h
  | clz d a | ctz d a | popc d a =>
    refine reads_enc3_two (by decide) rfl fun w hd ha hl => ?_
    simp only [hm, Nat.reduceLT, decodeScalar, hd, ha]
    exact finish_ok hl rfl h
  | mulh d a b u | div d a b u | rem d a b u | min d a b u | max d a b u =>
    have hu := u.toNat_lt
    refine reads_enc3_add (by decide) b.isLt (by omega) rfl fun w hd ha hb hl => ?_
    unfold fld at hl
    have hu : bit w 0 = u := bit_iff.mpr (by omega)
    simp only [hm, Nat.reduceLT, decodeScalar, hd, ha, r6_of_fld hb, hu]
    exact finish_ok (by unfold fld; omega) rfl h
  | shl d a b | shr d a b | sra d a b | rotl d a b =>
    have hi := b.i_lt
    refine reads_enc3_add (by decide) b.field_lt (by omega) rfl fun w hd ha hb hl => ?_
    unfold fld at hl
    have hb : srcF w 5 = b := srcF_iff.mpr ⟨hb, by omega⟩
    simp only [hm, Nat.reduceLT, decodeScalar, hd, ha, hb]
    exact finish_ok (by unfold fld; omega) rfl h
  | cmp d a b c =>
    have hi := b.i_lt
    have hc := c.code_lt
    refine reads_enc3_add (op := 0x13) (d := ⟨d.val, by omega⟩) (lo := b.i * 2 ^ 5 + c.code) (by decide) b.field_lt (by omega)
      (by rw [← Nat.add_assoc]; rfl) fun w hd ha hb hl => ?_
    obtain ⟨hd, hd'⟩ := f8_of_six hd
    unfold fld at hl
    have hb : srcF w 5 = b := srcF_iff.mpr ⟨hb, by omega⟩
    have hc : Cond.ofCode (fld w 0 3) = some c := Cond.ofCode_iff.mpr (by unfold fld; omega)
    simp only [hm, Nat.reduceLT, decodeScalar, hd, hd', ha, hb, hc, Option.map_some]
    exact finish_ok (by unfold fld; omega) rfl h
  | sel d a b n q =>
    have hn := n.toNat_lt
    refine reads_enc3_add (op := 0x14) (lo := n.toNat * 2 ^ 3 + q.val) (by decide) b.isLt (by omega)
      (by rw [← Nat.add_assoc]; rfl) fun w hd ha hb hl => ?_
    unfold fld at hl
    have hn : bit w 3 = n := bit_iff.mpr (by omega)
    have hq : f8 w 0 = q := finOfNat_iff.mpr (by omega)
    simp only [hm, Nat.reduceLT, decodeScalar, hd, ha, r6_of_fld hb, hn, hq]
    exact finish_ok (by unfold fld; omega) rfl h
  | addi d a n | andi d a n | ori d a n | xori d a n =>
    refine reads_imm (by decide) n.isLt rfl fun w hd ha hl => ?_
    simp only [hm, Nat.reduceLT, decodeScalar, hd, ha, imm12_of_fld hl]
    exact finish_ok rfl rfl h
  | limm p d n =>
    refine reads_op (op := 0x24 + p.code) (x := d.val * 2 ^ 18 + n.toNat) (by cases p <;> decide) (by omega)
      (by rw [← Nat.add_assoc]; rfl) fun w hl => ?_
    unfold fld at hl
    have hd : r18 w = d := finOfNat_iff.mpr (by omega)
    have hn : BitVec.ofNat 18 w = n := bvOfNat_iff.mpr (by omega)
    cases p <;>
    · simp only [LPos.code, Nat.reduceAdd, hm, Nat.reduceLT, decodeScalar, hd, hn]
      exact finish_ok rfl rfl h
  | _ => exact Bool.noConfusion hb

theorem decodeControl_scalar (op w : Nat) (h : op < 0x40) : decodeControl op w = decodeScalar .sa op w := by
  unfold decodeControl
  split
  case h_16 => rfl
  all_goals omega

theorem mtcOf_eq {num : BitVec 12} (a : SReg) (h : num.toNat ≠ 0x016 ∧ num.toNat ≠ 0x006 ∧ num.toNat ≠ 0x005) :
    mtcOf num.toNat a = .mtc num a := by
  obtain ⟨h1, h2, h3⟩ := h
  simp [mtcOf, h1, h2, h3]

theorem decodeControl_reads {i : Instr} (h : wfIn .sa i = true) : Reads decodeControl i := by
  cases i with
  | br q n x | brn q n x =>
    refine reads_branch (by decide) rfl fun w hq hn hx => ?_
    simp only [decodeControl, hq, hn, hx]
    exact finish_ok rfl rfl h
  | jmp x | call x =>
    refine reads_op (by decide) (by omega) rfl fun w hl => ?_
    unfold fld at hl
    have hx : disp20 w = x := bvOfNat_iff.mpr (by omega)
    simp only [decodeControl, hx]
    exact finish_ok (by unfold fld; omega) rfl h
  | jmpr a | ret a =>
    refine reads_enc3_two (d := 0) (by decide) rfl fun w hd ha hl => ?_
    have hd : fld w 18 6 = 0 := finOfNat_iff.mp hd
    simp only [decodeControl, ha, hd, hl]
    exact finish_ok rfl rfl h
  | loop c x =>
    have hc := c.toNat_lt
    refine reads_op (op := 0x46) (x := c.toNat * 2 ^ 21 + x.toNat) (by decide) (by omega) (by rw [← Nat.add_assoc]; rfl) fun w hl => ?_
    unfold fld at hl
    have hc : bit w 21 = c := bit_iff.mpr (by omega)
    have hx : disp20 w = x := bvOfNat_iff.mpr (by omega)
    simp only [decodeControl, hc, hx]
    exact finish_ok (by unfold fld; omega) rfl h
  | trap n | pause n | endTask n =>
    refine reads_op (by decide) (by omega) rfl fun w hl => ?_
    unfold fld at hl
    have hn : imm12 w = n := bvOfNat_iff.mpr (by omega)
    simp only [decodeControl, hn]
    exact finish_ok (by unfold fld; omega) rfl h
  | eret | yield | bkpt => exact ⟨_, rfl, by decide, rfl⟩
  | mfc d r =>
    refine reads_imm (a := 0) (by decide) r.isLt rfl fun w hd ha hl => ?_
    simp only [decodeControl, hd, imm12_of_fld hl]
    exact finish_ok (finOfNat_iff.mp ha) rfl h
  | mtc r a =>
    refine reads_imm (d := 0) (by decide) r.isLt rfl fun w hd ha hl => ?_
    simp only [decodeControl, ha, hl, mtcOf_eq a (of_decide_eq_true h)]
    exact finish_ok (finOfNat_iff.mp hd) rfl h
  | mtcEvent a | mtcDmr a | mtcAshape a =>
    refine reads_imm (d := 0) (by decide) (by decide) rfl fun w hd ha hl => ?_
    simp only [decodeControl, ha, hl]
    exact finish_ok (finOfNat_iff.mp hd) rfl h
  | _ => exact decodeScalar_reads decodeControl_scalar h h

/-! ### The scratchpad map and the map of MA (R101, R102) -/

theorem decodeScratch_reads {s : Slot} {map : Nat → Nat → Except DecErr Instr}
    (hm : ∀ op w, op < 0x28 → map op w = decodeScratch s op w) {i : Instr} (hb : wfIn .mb i = true) (h : wfIn s i = true) :
    Reads map i := by
  cases i with
  | ld t d b o =>
    refine reads_imm (op := t.code) (by cases t <;> decide) o.isLt rfl fun w hd ha hl => ?_
    cases t <;>
    · simp only [LdTy.code, hm, Nat.reduceLT, decodeScratch, hd, ha, imm12_of_fld hl]
      exact finish_ok rfl rfl h
  | vlds t d b o =>
    refine reads_imm (op := 0x18 + t.code) (by cases t <;> decide) o.isLt rfl fun w hd ha hl => ?_
    cases t <;>
    · simp only [Width.code, Nat.reduceAdd, hm, Nat.reduceLT, decodeScratch, hd, ha, imm12_of_fld hl]
      exact finish_ok rfl rfl h
  | vld d b o | vldb d b o =>
    refine reads_imm (by decide) o.isLt rfl fun w hd ha hl => ?_
    simp only [hm, Nat.reduceLT, decodeScratch, hd, ha, imm12_of_fld hl]
    exact finish_ok rfl rfl h
  | st t d b o c | vsts t d b o c =>
    refine reads_encS (by cases t <;> decide) rfl fun w hd ha ho hc => ?_
    cases t <;>
    · simp only [Width.code, Nat.reduceAdd, hm, Nat.reduceLT, decodeScratch, hd, ha, ho, hc]
      exact finish_ok rfl rfl h
  | vstK0 d b o c | vstK1 d b o c | vstK2 d b o c | vstK3 d b o c =>
    refine reads_encS (by decide) rfl fun w hd ha ho hc => ?_
    simp only [hm, Nat.reduceLT, decodeScratch, hd, ha, ho, hc]
    exact finish_ok rfl rfl h
  | _ => exact Bool.noConfusion hb

theorem decodeMa_scratch (op w : Nat) (h : op < 0x28) : decodeMa op w = decodeScratch .ma op w := by
  unfold decodeMa
  split
  case h_10 => rfl
  all_goals omega

theorem decodeMa_reads {i : Instr} (h : wfIn .ma i = true) : Reads decodeMa i := by
  cases i with
  | vcsq d a b t k =>
    refine reads_encV (by decide) b.isLt rfl fun w hd ha hb ht hk => ?_
    simp only [decodeMa, hd, ha, r6_of_fld hb, ht, hk]
    exact finish_ok rfl rfl h
  | aadd d a b w c | aand d a b w c | aor d a b w c | axor d a b w c | aswap d a b w c | acas d a b w c =>
    refine reads_encA (by decide) rfl fun v hd ha hb hw hu hc => ?_
    simp only [decodeMa, hd, ha, hb, hw, hc]
    exact finish_ok hu rfl h
  | amin d a b w u c | amax d a b w u c =>
    have hu' := u.toNat_lt
    refine reads_encA (by decide) rfl fun v hd ha hb hw hu hc => ?_
    unfold fld at hu
    have hu : bit v 4 = u := bit_iff.mpr (by omega)
    simp only [decodeMa, hd, ha, hb, hw, hu, hc]
    exact finish_ok (by unfold fld; omega) rfl h
  | _ => exact decodeScratch_reads decodeMa_scratch h h

/-! ### The vector maps (R103 to R108) -/

theorem decodeVecShared_reads {s : Slot} {map : Nat → Nat → Except DecErr Instr}
    (hm : ∀ op w, op < 0x40 → (op < 0x20 ∨ 0x38 ≤ op) → op ≠ 0x04 → op ≠ 0x12 → map op w = decodeVecShared s op w) {i : Instr}
    (hb : wfIn .va i = true) (h : wfIn s i = true)
    (hf : ∀ d a b t k, i = .vfma d a b t k → Reads map i) (hd : ∀ d a b t k, i = .vdot d a b t k → Reads map i) :
    Reads map i := by
  cases i with
  | vadd d a b t k | vsub d a b t k | vmul d a b t k | vmin d a b t k | vmax d a b t k | vand d a b t k | vor d a b t k
  | vxor d a b t k | vshl d a b t k | vshr d a b t k | vsra d a b t k | vsel d a b t k | vclamp d a b t k
  | vperm d a b t k | vget d a b t k | vput d a b t k =>
    refine reads_encV (by decide) b.isLt rfl fun w hd ha hb ht hk => ?_
    rw [hm _ w (by decide) (by decide) (by decide) (by decide)]
    simp only [decodeVecShared, hd, ha, r6_of_fld hb, ht, hk]
    exact finish_ok rfl rfl h
  | vabs d a t k | vneg d a t k | vsplat d a t k | vmov d a t k =>
    refine reads_encV (by decide) (by decide) rfl fun w hd ha hb ht hk => ?_
    rw [hm _ w (by decide) (by decide) (by decide) (by decide)]
    simp only [decodeVecShared, hd, ha, ht, hk]
    exact finish_ok hb rfl h
  | vxch d a x t k =>
    refine reads_encV (by decide) (by omega) rfl fun w hd ha hb ht hk => ?_
    unfold fld at hb
    have hx : f8 w 6 = x := finOfNat_iff.mpr (by omega)
    rw [hm _ w (by decide) (by decide) (by decide) (by decide)]
    simp only [decodeVecShared, hd, ha, hx, ht, hk]
    exact finish_ok (by unfold fld; omega) rfl h
  | vred d a o t k | vscan d a o t k =>
    have ho := o.code_lt
    refine reads_encV (by decide) (by omega) rfl fun w hd ha hb ht hk => ?_
    unfold fld at hb
    have ho : RedOp.ofCode (fld w 6 3) = some o := RedOp.ofCode_iff.mpr (by unfold fld; omega)
    rw [hm _ w (by decide) (by decide) (by decide) (by decide)]
    simp only [decodeVecShared, hd, ha, ho, ht, hk, Option.map_some]
    exact finish_ok (by unfold fld; omega) rfl h
  | vcmp c d a b t k =>
    refine reads_encV (op := 0x38 + c.code) (d := ⟨d.val, by omega⟩) (by cases c <;> decide) b.isLt rfl fun w hd ha hr ht hk => ?_
    obtain ⟨hq, hz⟩ := f8_of_six hd
    cases c <;>
    · rw [hm _ w (by decide) (by decide) (by decide) (by decide)]
      simp only [VCond.code, Nat.reduceAdd, decodeVecShared, VCond.ofCode, Option.map_some, hq, ha, r6_of_fld hr, ht, hk]
      exact finish_ok hz rfl h
  | vfma d a b t k => exact hf d a b t k rfl
  | vdot d a b t k => exact hd d a b t k rfl
  | _ => exact Bool.noConfusion hb

theorem decodeVab_shared {s : Slot} (op w : Nat) (h4 : op ≠ 0x04) (h12 : op ≠ 0x12) :
    decodeVab s op w = decodeVecShared s op w := by
  unfold decodeVab
  split
  · exact absurd rfl h4
  · exact absurd rfl h12
  · rfl

theorem decodeVc_shared (op w : Nat) (h : op < 0x40) (h' : op < 0x20 ∨ 0x38 ≤ op) :
    decodeVc op w = decodeVecShared .vc op w := by
  unfold decodeVc
  split
  case h_18 => rfl
  all_goals omega

theorem decodeVab_reads {s : Slot} {i : Instr} (hb : wfIn .va i = true) (h : wfIn s i = true) : Reads (decodeVab s) i := by
  refine decodeVecShared_reads (fun op w _ _ => decodeVab_shared op w) hb h ?_ ?_ <;> rintro d a b t k rfl <;>
  · refine reads_encV (by decide) b.isLt rfl fun w hd ha hr ht hk => ?_
    simp only [decodeVab, hd, ha, r6_of_fld hr, ht, hk]
    exact finish_ok rfl rfl h

theorem arithTypeIn_va {t : ETy} (h : arithTypeIn .vc t = true) : arithTypeIn .va t = true := by
  cases t <;> first | rfl | exact h

/-- VFMA and VDOT are no words of VC. -/
theorem decodeVc_reads_shared {i : Instr} (hb : wfIn .va i = true) (h : wfIn .vc i = true) : Reads decodeVc i := by
  refine decodeVecShared_reads (fun op w h h' _ _ => decodeVc_shared op w h h') hb h ?_ ?_ <;> rintro d a b t k rfl <;>
    exact Bool.noConfusion h

theorem decodeVc_reads {i : Instr} (h : wfIn .vc i = true) : Reads decodeVc i := by
  cases i with
  | kand d a b | kor d a b | kxor d a b =>
    refine reads_enc3 (d := ⟨d.val, by omega⟩) (a := ⟨a.val, by omega⟩) (b := ⟨b.val, by omega⟩) (by decide) rfl
      fun w hd ha hb hl => ?_
    obtain ⟨hd, hd'⟩ := f8_of_six hd
    obtain ⟨ha, ha'⟩ := f8_of_six ha
    obtain ⟨hb, hb'⟩ := f8_of_six hb
    simp only [decodeVc, hd, ha, hb, hd', ha', hb', hl]
    exact finish_ok rfl rfl h
  | knot d a =>
    refine reads_enc3_two (d := ⟨d.val, by omega⟩) (a := ⟨a.val, by omega⟩) (by decide) rfl fun w hd ha hl => ?_
    obtain ⟨hd, hd'⟩ := f8_of_six hd
    obtain ⟨ha, ha'⟩ := f8_of_six ha
    simp only [decodeVc, hd, ha, hd', ha', hl]
    exact finish_ok rfl rfl h
  | kpopc d a | kfirst d a =>
    refine reads_enc3_two (a := ⟨a.val, by omega⟩) (by decide) rfl fun w hd ha hl => ?_
    obtain ⟨ha, ha'⟩ := f8_of_six ha
    simp only [decodeVc, hd, ha, ha', hl]
    exact finish_ok rfl rfl h
  | vcvt m d a v ts t k =>
    have hv := v.toNat_lt
    have hs := ts.code_lt
    refine reads_encV (by cases m <;> decide) (by omega) rfl fun w hd ha hb ht hk => ?_
    unfold fld at hb
    have hv : bit w 11 = v := bit_iff.mpr (by omega)
    have hs : ETy.ofCode (fld w 6 4) = ts := (ETy.ofCode_iff w 6).mpr (by omega)
    cases m <;>
    · simp only [RMode.code, Nat.reduceAdd, decodeVc, RMode.ofCode, Option.map_some, hd, ha, hv, hs, ht, hk]
      exact finish_ok (by unfold fld; omega) rfl h
  | vqnt m d a n y t k =>
    refine reads_encV (by cases m <;> decide) (by omega) rfl fun w hd ha hb ht hk => ?_
    unfold fld at hb
    have hn : Fin.ofNat 4 (w / 2 ^ 10) = n := finOfNat_iff.mpr (by omega)
    have hy : Fin.ofNat 4 (w / 2 ^ 8) = y := finOfNat_iff.mpr (by omega)
    cases m <;>
    · simp only [RMode.code, Nat.reduceAdd, decodeVc, RMode.ofCode, Option.map_some, hd, ha, hn, hy, ht, hk]
      exact finish_ok (by unfold fld; omega) rfl h
  | vdqnt d a n c t k =>
    have hc := c.code_lt
    refine reads_encV (by decide) (by omega) rfl fun w hd ha hb ht hk => ?_
    unfold fld at hb
    have hn : Fin.ofNat 4 (w / 2 ^ 10) = n := finOfNat_iff.mpr (by omega)
    have hc : ETy.ofCode (fld w 6 4) = c := (ETy.ofCode_iff w 6).mpr (by omega)
    simp only [decodeVc, hd, ha, hn, hc, ht, hk]
    exact finish_ok rfl rfl h
  | vadd d a b t | vsub d a b t | vmul d a b t | vmin d a b t | vmax d a b t | vabs d a t | vneg d a t | vclamp d a b t =>
    exact decodeVc_reads_shared (arithTypeIn_va h) h
  | vred d a o t | vscan d a o t | vcmp c d a b t =>
    obtain ⟨ht, ho⟩ := Bool.and_eq_true_iff.mp h
    exact decodeVc_reads_shared (Bool.and_eq_true_iff.mpr ⟨arithTypeIn_va ht, ho⟩) h
  | vfma | vdot => exact Bool.noConfusion h
  | _ => exact decodeVc_reads_shared h h

/-! ### The maps of F, X and C (R109 to R112) -/

theorem decodeF_reads {i : Instr} (h : wfIn .f i = true) : Reads decodeF i := by
  cases i with
  | fexp2 d a t k | flog2 d a t k | frcp d a t k | frsq d a t k | ftanh d a t k | fsig d a t k | fsin d a t k | fcos d a t k =>
    refine reads_encV (by decide) (by decide) rfl fun w hd ha hb ht hk => ?_
    simp only [decodeF, hd, ha, ht, hk]
    exact finish_ok hb rfl h
  | _ => exact Bool.noConfusion h

theorem decodeX_reads {i : Instr} (h : wfIn .x i = true) : Reads decodeX i := by
  cases i with
  | mswap => exact ⟨_, rfl, by decide, rfl⟩
  | mcfg a b =>
    refine reads_encX (by decide) (by decide) (by decide) rfl fun w hacc ha hb hl => ?_
    simp only [decodeX, hacc, ha, hb, hl]
    exact finish_ok rfl rfl h
  | mldw a b n =>
    refine reads_encX (by decide) (by decide) (by omega) rfl fun w hacc ha hb hl => ?_
    unfold fld at hl
    have hn : bandF w = n := bvOfNat_iff.mpr (by omega)
    simp only [decodeX, hacc, ha, hb, hn]
    exact finish_ok (by unfold fld; omega) rfl h
  | mzero c n =>
    refine reads_encX (a := 0) (b := 0) (by decide) c.isLt (by omega) rfl fun w hacc ha hb hl => ?_
    unfold fld at hl
    have hc : accF w = c := Fin.ext hacc
    have hn : bandF w = n := bvOfNat_iff.mpr (by omega)
    have ha : w / 2 ^ 14 % 64 = 0 := finOfNat_iff.mp ha
    have hb : w / 2 ^ 8 % 64 = 0 := finOfNat_iff.mp hb
    simp only [decodeX, hc, hn]
    exact finish_ok (by unfold fld; omega) rfl h
  | mmul c a b u n | mvec c a b u n =>
    have hu := u.toNat_lt
    refine reads_encX (by decide) c.isLt (by omega) rfl fun w hacc ha hb hl => ?_
    unfold fld at hl
    have hc : accF w = c := Fin.ext hacc
    have hu : bit w 7 = u := bit_iff.mpr (by omega)
    have hn : bandF w = n := bvOfNat_iff.mpr (by omega)
    simp only [decodeX, hc, ha, hb, hu, hn]
    exact finish_ok (by unfold fld; omega) rfl h
  | mdrn c a b u n | maccd c a b u n =>
    have hu := u.toNat_lt
    refine reads_encX (by decide) c.isLt (by omega) rfl fun w hacc ha hb hl => ?_
    unfold fld at hl
    have hc : accF w = c := Fin.ext hacc
    have hu : bit w 6 = u := bit_iff.mpr (by omega)
    have hn : bandF w = n := bvOfNat_iff.mpr (by omega)
    simp only [decodeX, hc, ha, hb, hu, hn]
    exact finish_ok (by unfold fld; omega) rfl h
  | _ => exact Bool.noConfusion h

theorem decodeC_reads {i : Instr} (h : wfIn .c i = true) : Reads decodeC i := by
  cases i with
  | xfer a c ch =>
    refine reads_imm (op := 0x01) (a := 0) (lo := c.val * 2 ^ 3 + ch.val) (by decide) (by omega) (by rw [← Nat.add_assoc]; rfl)
      fun w hd ha hl => ?_
    have ha : w / 2 ^ 12 % 64 = 0 := finOfNat_iff.mp ha
    unfold fld at hl
    have hc : f8 w 3 = c := finOfNat_iff.mpr (by omega)
    have hch : f8 w 0 = ch := finOfNat_iff.mpr (by omega)
    simp only [decodeC, hd, hc, hch]
    exact finish_ok (by unfold fld; omega) rfl h
  | xwait a ch | xptr a ch =>
    refine reads_imm (a := 0) (by decide) (by omega) rfl fun w hd ha hl => ?_
    have ha : w / 2 ^ 12 % 64 = 0 := finOfNat_iff.mp ha
    unfold fld at hl
    have hch : f8 w 0 = ch := finOfNat_iff.mpr (by omega)
    simp only [decodeC, hd, hch]
    exact finish_ok (by unfold fld; omega) rfl h
  | gthr v b w =>
    have hw := w.code_lt
    refine reads_imm (by decide) (by omega) rfl fun v hd ha hl => ?_
    unfold fld at hl
    have hw : Width.ofCode (fld v 4 2) = w := (Width.ofCode_iff v 4).mpr (by omega)
    simp only [decodeC, hd, ha, hw]
    exact finish_ok (by unfold fld; omega) rfl h
  | gpop a b | cpop a b =>
    refine reads_enc3_two (by decide) rfl fun w hd ha hl => ?_
    simp only [decodeC, hd, ha]
    exact finish_ok hl rfl h
  | coll a c =>
    refine reads_imm (a := 0) (by decide) (by omega) rfl fun w hd ha hl => ?_
    have ha : w / 2 ^ 12 % 64 = 0 := finOfNat_iff.mp ha
    unfold fld at hl
    have hc : f8 w 3 = c := finOfNat_iff.mpr (by omega)
    simp only [decodeC, hd, hc]
    exact finish_ok (by unfold fld; omega) rfl h
  | ladd a b p c =>
    refine reads_enc3_add (by decide) p.isLt (by omega) rfl fun w hd ha hb hl => ?_
    unfold fld at hl
    have hc : f8 w 3 = c := finOfNat_iff.mpr (by omega)
    simp only [decodeC, hd, ha, r6_of_fld hb, hc]
    exact finish_ok (by unfold fld; omega) rfl h
  | linit a b c =>
    refine reads_imm (by decide) (by omega) rfl fun w hd ha hl => ?_
    unfold fld at hl
    have hc : f8 w 3 = c := finOfNat_iff.mpr (by omega)
    simp only [decodeC, hd, ha, hc]
    exact finish_ok (by unfold fld; omega) rfl h
  | lraw a b n =>
    refine reads_enc3 (by decide) rfl fun w hd ha hb hl => ?_
    simp only [decodeC, hd, ha, hb]
    exact finish_ok hl rfl h
  | amog a b o u c ch =>
    have ho := o.code_lt
    have hu := u.toNat_lt
    refine reads_imm (op := 0x0B) (lo := o.code * 2 ^ 7 + (u.toNat * 2 ^ 6 + (c.val * 2 ^ 3 + ch.val))) (by decide) (by omega)
      (by simp only [← Nat.add_assoc]; rfl) fun w hd ha hl => ?_
    unfold fld at hl
    have ho : AmogOp.ofCode (fld w 7 2) = some o := AmogOp.ofCode_iff.mpr (by unfold fld; omega)
    have hu : bit w 6 = u := bit_iff.mpr (by omega)
    have hc : f8 w 3 = c := finOfNat_iff.mpr (by omega)
    have hch : f8 w 0 = ch := finOfNat_iff.mpr (by omega)
    simp only [decodeC, hd, ha, ho, Option.map_some, hu, hc, hch]
    exact finish_ok (by unfold fld; omega) rfl h
  | pfh a b o =>
    have ho := o.code_lt
    refine reads_imm (by decide) (by omega) rfl fun w hd ha hl => ?_
    unfold fld at hl
    have ho : PfhKind.ofCode (fld w 0 2) = some o := PfhKind.ofCode_iff.mpr (by unfold fld; omega)
    simp only [decodeC, hd, ha, ho, Option.map_some]
    exact finish_ok (by unfold fld; omega) rfl h
  | sync l m =>
    refine reads_op (op := 0x0D) (x := l.val * 2 ^ 10 + m.toNat) (by decide) (by omega) (by rw [← Nat.add_assoc]; rfl) fun w hl => ?_
    unfold fld at hl
    have hn : Fin.ofNat 4 (w / 2 ^ 10) = l := finOfNat_iff.mpr (by omega)
    have hm : mask8 w = m := bvOfNat_iff.mpr (by omega)
    simp only [decodeC, hn, hm]
    exact finish_ok (by unfold fld; omega) rfl h
  | fence m =>
    refine reads_op (by decide) (by omega) rfl fun w hl => ?_
    unfold fld at hl
    have hm : mask8 w = m := bvOfNat_iff.mpr (by omega)
    simp only [decodeC, hm]
    exact finish_ok (by unfold fld; omega) rfl h
  | drain o m =>
    have ho := o.code_lt
    refine reads_op (op := 0x0F) (x := o.code * 2 ^ 8 + m.toNat) (by decide) (by omega) (by rw [← Nat.add_assoc]; rfl) fun w hl => ?_
    unfold fld at hl
    have ho : Scope.ofCode (fld w 8 3) = some o := Scope.ofCode_iff.mpr (by unfold fld; omega)
    have hm : mask8 w = m := bvOfNat_iff.mpr (by omega)
    simp only [decodeC, ho, Option.map_some, hm]
    exact finish_ok (by unfold fld; omega) rfl h
  | _ => exact Bool.noConfusion h

theorem decodeWord_reads {sl : Slot} {i : Instr} (h : wfIn sl i = true) :
    ∃ w, encodeWord? i = some w ∧ w < 2 ^ 32 ∧ decodeWord sl w = .ok i := by
  cases sl with
  | sa => exact decodeControl_reads h
  | sb => exact decodeScalar_reads (fun _ _ _ => rfl) h h
  | va => exact decodeVab_reads h h
  | vb => exact decodeVab_reads (by cases i <;> exact h) h
  | vc => exact decodeVc_reads h
  | f => exact decodeF_reads h
  | ma => exact decodeMa_reads h
  | mb => exact decodeScratch_reads (fun _ _ _ => rfl) h h
  | x => exact decodeX_reads h
  | c => exact decodeC_reads h
end Sys2Proof

/-! SUPPORT. A word that a map reads is the encoding of what it reads, so decode and encode are inverse (R81, R95 to R112). -/

namespace Sys2Proof

theorem ETy.code_ofCode_mod (n : Nat) : (ETy.ofCode (n % 2 ^ 4)).code = n % 2 ^ 4 := ETy.code_ofCode (Nat.mod_lt _ (by decide))
theorem Width.code_ofCode_mod (n : Nat) : (Width.ofCode (n % 2 ^ 2)).code = n % 2 ^ 2 := Width.code_ofCode (Nat.mod_lt _ (by decide))

/-! ### A word that a map reads is the encoding of what it reads -/

/-- A row of a map: a word whose RZ fields are zero is the encoding of the instruction that its fields give. -/
theorem encode_of_row {s : Slot} {rz w : Nat} {j i : Instr} (h : finish s rz (some j) = .ok i)
    (he : rz = 0 → encodeWord? j = some w) : wfIn s i = true ∧ encodeWord? i = some w := by
  obtain ⟨hrz, hj, hwf⟩ := ok_of_finish h
  cases hj
  exact ⟨hwf, he hrz⟩

/-- A row whose limits leave out some codes. -/
theorem encode_of_codeRow {α : Type} {s : Slot} {rz w : Nat} {i : Instr} {o : Option α} {f : α → Instr}
    (h : finish s rz (o.map f) = .ok i) (he : ∀ c, rz = 0 → o = some c → encodeWord? (f c) = some w) :
    wfIn s i = true ∧ encodeWord? i = some w := by
  obtain ⟨hrz, hj, hwf⟩ := ok_of_finish h
  obtain ⟨c, hc, rfl⟩ := Option.map_eq_some_iff.mp hj
  exact ⟨hwf, he c hrz hc⟩

theorem add_tail {e x y w : Nat} (h : e + y = w) (hx : x = y) : e + x = w := hx ▸ h

theorem encV_first {op d d' a b w : Nat} {t : ETy} {k : KSel} (h : encV op d a b t k = w) (hd : d' = d) : encV op d' a b t k = w :=
  hd ▸ h

theorem encV_third {op d a b b' w : Nat} {t : ETy} {k : KSel} (h : encV op d a b t k = w) (hb : b' = b) : encV op d a b' t k = w :=
  hb ▸ h

theorem encX_ctl {op acc a b c c' w : Nat} (h : encX op acc a b c = w) (hc : c' = c) : encX op acc a b c' = w := hc ▸ h

section
variable {s : Slot} {op w : Nat} {i : Instr} (hw : w < 2 ^ 32) (ho : fld w 24 8 = op)
include hw ho

theorem decodeScalar_encodes (h : decodeScalar s op w = .ok i) : wfIn s i = true ∧ encodeWord? i = some w := by
  unfold decodeScalar at h
  split at h
  case h_1 | h_2 | h_3 | h_7 | h_8 | h_9 => exact encode_of_row h fun hz => congrArg some (by have hf := enc3_fields hw ho; rwa [hz] at hf)
  case h_16 | h_17 | h_18 => exact encode_of_row h fun hz => congrArg some (by have hf := imm_fields hw ho; rwa [hz] at hf)
  case h_4 | h_5 | h_6 | h_14 | h_15 =>
    refine encode_of_row h fun hz => congrArg some (add_tail (enc3_fields hw ho) ?_)
    rw [bit_toNat]
    unfold fld at *
    omega
  case h_10 | h_11 | h_12 | h_13 =>
    refine encode_of_row h fun hz => congrArg some ?_
    rw [srcF_field, srcF_i]
    refine add_tail (enc3_fields hw ho) ?_
    unfold fld at *
    omega
  case h_19 =>
    refine encode_of_codeRow h fun c hz hc => congrArg some ?_
    have hc := Cond.ofCode_iff.mp hc
    simp only [enc3, srcF_field, srcF_i, f8, r12, finOfNat_val, fld] at *
    omega
  case h_20 =>
    refine encode_of_row h fun hz => congrArg some ((Nat.add_assoc _ _ _).trans (add_tail (enc3_fields hw ho) ?_))
    simp only [bit_toNat, f8, finOfNat_val, fld] at *
    omega
  case h_21 | h_22 | h_23 | h_24 =>
    refine encode_of_row h fun hz => congrArg some (add_tail (imm_fields hw ho) ?_)
    simp only [imm12, BitVec.toNat_ofNat, fld, Nat.pow_zero, Nat.div_one]
  case h_25 | h_26 | h_27 | h_28 =>
    refine encode_of_row h fun hz => congrArg some ((Nat.add_assoc _ _ _).trans (add_tail (op_fields hw ho) ?_))
    simp only [r18, finOfNat_val, BitVec.toNat_ofNat, fld]
    omega
  case h_29 => cases h

theorem decodeControl_encodes (h : decodeControl op w = .ok i) : wfIn .sa i = true ∧ encodeWord? i = some w := by
  unfold decodeControl at h
  split at h
  case h_1 | h_2 =>
    refine encode_of_row h fun hz => congrArg some ?_
    rw [Nat.add_assoc, Nat.add_assoc]
    refine add_tail (op_fields hw ho) ?_
    simp only [f8, disp20, finOfNat_val, bit_toNat, BitVec.toNat_ofNat, fld]
    omega
  case h_3 | h_4 | h_8 | h_13 | h_14 =>
    refine encode_of_row h fun hz => congrArg some (add_tail (op_fields hw ho) ?_)
    simp only [disp20, imm12, BitVec.toNat_ofNat, fld] at *
    omega
  case h_5 | h_6 =>
    refine encode_of_row h fun hz => congrArg some ?_
    simp only [enc3, r12, finOfNat_val, fld] at *
    omega
  case h_7 =>
    refine encode_of_row h fun hz => congrArg some ((Nat.add_assoc _ _ _).trans (add_tail (op_fields hw ho) ?_))
    simp only [disp20, bit_toNat, BitVec.toNat_ofNat, fld] at *
    omega
  case h_9 | h_12 | h_15 => exact encode_of_row h fun hz => congrArg some (by have hf := op_fields hw ho; rwa [hz] at hf)
  case h_10 =>
    refine encode_of_row h fun hz => congrArg some ?_
    simp only [enc3, imm12, r18, finOfNat_val, BitVec.toNat_ofNat, fld] at *
    omega
  case h_11 =>
    refine encode_of_row h fun hz => ?_
    unfold mtcOf
    split_ifs <;>
    · refine congrArg some ?_
      simp only [enc3, fld, r12, finOfNat_val, BitVec.toNat_ofNat] at *
      omega
  case h_16 => exact decodeScalar_encodes hw ho h

theorem decodeScratch_encodes (h : decodeScratch s op w = .ok i) : wfIn s i = true ∧ encodeWord? i = some w := by
  unfold decodeScratch at h
  split at h
  case h_1 | h_2 | h_3 | h_4 | h_5 | h_6 | h_7 | h_12 | h_17 | h_18 | h_19 | h_20 | h_25 =>
    refine encode_of_row h fun hz => congrArg some (add_tail (imm_fields hw ho) ?_)
    simp only [imm12, BitVec.toNat_ofNat, fld, Nat.pow_zero, Nat.div_one]
  case h_26 => cases h
  all_goals exact encode_of_row h fun hz => congrArg some (encS_fields hw ho)

theorem decodeMa_encodes (h : decodeMa op w = .ok i) : wfIn .ma i = true ∧ encodeWord? i = some w := by
  have ha := encA_fields hw ho
  unfold decodeMa at h
  split at h
  case h_1 => exact encode_of_row h fun hz => congrArg some (encV_fields hw ho)
  case h_3 | h_4 => exact encode_of_row h fun hz => congrArg some (by rwa [hz] at ha)
  case h_10 => exact decodeScratch_encodes hw ho h
  all_goals
    refine encode_of_row h fun hz => congrArg some ?_
    have hu : bit w 4 = false := bit_iff.mpr (by unfold fld at hz; rw [Bool.toNat_false]; omega)
    have hl : fld w 3 1 = 0 := by unfold fld at *; omega
    rwa [hu, hl] at ha

theorem decodeVecShared_encodes (h : decodeVecShared s op w = .ok i) : wfIn s i = true ∧ encodeWord? i = some w := by
  unfold decodeVecShared at h
  split at h
  case h_6 | h_7 | h_19 | h_20 => exact encode_of_row h fun hz => congrArg some (hz ▸ encV_fields hw ho)
  case h_16 | h_17 =>
    refine encode_of_codeRow h fun c hz hc => congrArg some (encV_third (encV_fields hw ho) ?_)
    have hc := RedOp.ofCode_iff.mp hc
    unfold fld at *
    omega
  case h_23 =>
    refine encode_of_row h fun hz => congrArg some (encV_third (encV_fields hw ho) ?_)
    simp only [f8, finOfNat_val, fld] at *
    omega
  case h_31 => cases h
  case h_24 | h_25 | h_26 | h_27 | h_28 | h_29 | h_30 =>
    refine encode_of_row h fun hz => congrArg some (encV_first (encV_fields hw ho) ?_)
    simp only [f8, r18, finOfNat_val, fld] at *
    omega
  all_goals exact encode_of_row h fun hz => congrArg some (encV_fields hw ho)

theorem decodeVab_encodes (h : decodeVab s op w = .ok i) : wfIn s i = true ∧ encodeWord? i = some w := by
  unfold decodeVab at h
  split at h
  case h_3 => exact decodeVecShared_encodes hw ho h
  all_goals exact encode_of_row h fun hz => congrArg some (encV_fields hw ho)

theorem decodeVc_encodes (h : decodeVc op w = .ok i) : wfIn .vc i = true ∧ encodeWord? i = some w := by
  unfold decodeVc at h
  split at h
  case h_12 | h_13 | h_14 =>
    refine encode_of_row h fun hz => congrArg some ?_
    simp only [Nat.add_eq_zero_iff] at hz
    obtain ⟨⟨⟨hd, ha⟩, hb⟩, hl⟩ := hz
    have hf := enc3_fields hw ho
    rw [hl] at hf
    rwa [f8_eq_six hd, f8_eq_six ha, f8_eq_six hb]
  case h_15 =>
    refine encode_of_row h fun hz => congrArg some ?_
    simp only [Nat.add_eq_zero_iff] at hz
    obtain ⟨⟨hd, ha⟩, hl⟩ := hz
    have hf := imm_fields hw ho
    rw [hl] at hf
    rwa [f8_eq_six hd, f8_eq_six ha]
  case h_16 | h_17 =>
    refine encode_of_row h fun hz => congrArg some ?_
    obtain ⟨ha, hl⟩ := Nat.add_eq_zero_iff.mp hz
    have hf := imm_fields hw ho
    rw [hl] at hf
    rwa [f8_eq_six ha]
  case h_18 => exact decodeVecShared_encodes hw ho h
  all_goals
    refine encode_of_row h fun hz => congrArg some (encV_third (encV_fields hw ho) ?_)
    simp only [bit_toNat, ETy.code_ofCode_mod, finOfNat_val, fld] at *
    omega

theorem decodeF_encodes (h : decodeF op w = .ok i) : wfIn .f i = true ∧ encodeWord? i = some w := by
  unfold decodeF at h
  split at h
  case h_9 => cases h
  all_goals exact encode_of_row h fun hz => congrArg some (hz ▸ encV_fields hw ho)

theorem decodeX_encodes (h : decodeX op w = .ok i) : wfIn .x i = true ∧ encodeWord? i = some w := by
  unfold decodeX at h
  split at h
  case h_1 =>
    refine encode_of_row h fun hz => congrArg some ?_
    obtain ⟨ha, hl⟩ := Nat.add_eq_zero_iff.mp hz
    have hf := encX_fields hw ho
    rwa [ha, hl] at hf
  case h_2 =>
    refine encode_of_row h fun hz => congrArg some ?_
    simp only [Nat.add_eq_zero_iff] at hz
    obtain ⟨⟨ha, h6⟩, h0⟩ := hz
    have hf := encX_fields hw ho
    rw [ha] at hf
    refine encX_ctl hf ?_
    simp only [bandF, BitVec.toNat_ofNat, fld] at h6 h0 ⊢
    omega
  case h_3 => exact encode_of_row h fun hz => congrArg some (by have hf := op_fields hw ho; rwa [hz] at hf)
  case h_4 | h_5 | h_6 | h_7 =>
    refine encode_of_row h fun hz => congrArg some (encX_ctl (encX_fields hw ho) ?_)
    simp only [bandF, BitVec.toNat_ofNat, bit_toNat, fld] at hz ⊢
    omega
  case h_8 =>
    refine encode_of_row h fun hz => congrArg some ?_
    simp only [Nat.add_eq_zero_iff, encX, fld, accF, bandF, finOfNat_val, BitVec.toNat_ofNat] at *
    omega
  case h_9 => cases h

theorem decodeC_encodes (h : decodeC op w = .ok i) : wfIn .c i = true ∧ encodeWord? i = some w := by
  unfold decodeC at h
  split at h
  case h_11 =>
    refine encode_of_codeRow h fun c hz hc => congrArg some ?_
    have hc := AmogOp.ofCode_iff.mp hc
    simp only [enc3, fld, r18, r12, f8, finOfNat_val, bit_toNat] at *
    omega
  case h_12 =>
    refine encode_of_codeRow h fun c hz hc => congrArg some ?_
    have hc := PfhKind.ofCode_iff.mp hc
    simp only [enc3, fld, r18, r12, finOfNat_val] at *
    omega
  case h_15 =>
    refine encode_of_codeRow h fun c hz hc => congrArg some ?_
    have hc := Scope.ofCode_iff.mp hc
    simp only [fld, mask8, BitVec.toNat_ofNat] at *
    omega
  case h_16 => cases h
  all_goals
    refine encode_of_row h fun hz => congrArg some ?_
    simp only [Nat.add_eq_zero_iff, enc3, Width.code_ofCode_mod, fld, r18, r12, r6, f8, mask8, finOfNat_val, BitVec.toNat_ofNat] at *
    omega

end

theorem decodeWord_encodes {sl : Slot} {w : Nat} {i : Instr} (hw : w < 2 ^ 32) (h : decodeWord sl w = .ok i) :
    wfIn sl i = true ∧ encodeWord? i = some w := by
  cases sl with
  | sa => exact decodeControl_encodes hw rfl h
  | sb => exact decodeScalar_encodes hw rfl h
  | va | vb => exact decodeVab_encodes hw rfl h
  | vc => exact decodeVc_encodes hw rfl h
  | f => exact decodeF_encodes hw rfl h
  | ma => exact decodeMa_encodes hw rfl h
  | mb => exact decodeScratch_encodes hw rfl h
  | x => exact decodeX_encodes hw rfl h
  | c => exact decodeC_encodes hw rfl h

/-- Settles O52: each map reads the encoding of what it admits, and what it reads is encoded by the word. -/
theorem wordsRoundTrip : Obligations.WordsRoundTrip :=
  ⟨fun _ _ h => decodeWord_reads h, fun _ _ _ hw h => decodeWord_encodes hw h⟩

/-- Settles O51: the decoder evaluates to the instruction or the refusal of each word. -/
theorem decodedWords : Obligations.DecodedWords := by
  refine ⟨rfl, rfl, rfl, rfl, rfl, rfl, rfl, rfl, rfl, rfl, rfl, rfl, rfl, fun sl => ?_, rfl, rfl, rfl, rfl, rfl, rfl⟩
  cases sl <;> rfl

end Sys2Proof

/-! SUPPORT. Bundles (R72 to R76, R94): bytes of a value, the check byte, the header's fields, and the slot words in order. -/

namespace Sys2Proof

/-! ### Little-endian values (R5) -/

@[simp] theorem length_leBytes (n v : Nat) : (leBytes n v).length = n := by
  induction n generalizing v with
  | zero => rfl
  | succ n ih => simp [leBytes, ih]

theorem leNat_append (xs ys : List Byte) : leNat (xs ++ ys) = leNat xs + 256 ^ xs.length * leNat ys := by
  induction xs with
  | nil => simp [leNat]
  | cons x xs ih => simp only [List.cons_append, leNat, ih, List.length_cons]; ring

theorem leNat_leBytes {n v : Nat} (h : v < 256 ^ n) : leNat (leBytes n v) = v := by
  induction n generalizing v with
  | zero => simp only [pow_zero] at h; simp only [leBytes, leNat]; omega
  | succ n ih =>
    have h' : v / 256 < 256 ^ n := by rw [pow_succ] at h; omega
    simp only [leBytes, leNat, ih h', BitVec.toNat_ofNat]
    omega

/-! ### The check byte (R76) -/

/-- The check byte passes over the byte in place 7 and takes in every other. -/
theorem chkOf_snoc (bs : List Byte) (x : Byte) :
    chkOf (bs ++ [x]) = if bs.length = 7 then chkOf bs else chkOf bs ^^^ x := by
  unfold chkOf
  rcases (by omega : bs.length < 7 ∨ bs.length = 7 ∨ 8 ≤ bs.length) with h | h | h
  · rw [if_neg (by omega), List.take_of_length_le (by simp; omega), List.drop_of_length_le (by simp; omega),
      List.take_of_length_le (by omega), List.drop_of_length_le (by omega)]
    simp
  · rw [if_pos h, List.take_append_of_le_length (by omega), List.drop_of_length_le (by simp; omega),
      List.drop_of_length_le (by omega)]
  · rw [if_neg (by omega), List.take_append_of_le_length (by omega), List.drop_append_of_le_length h, ← List.append_assoc]
    simp

theorem chkOf_take (bs : List Byte) {n : Nat} (h : n ≤ bs.length) :
    chkOf (bs.take n) = (List.range n).foldl (fun acc j => if j = 7 then acc else acc ^^^ bs.getD j 0#8) 0x5A#8 := by
  induction n with
  | zero => rfl
  | succ n ih =>
    have hn : n < bs.length := h
    rw [List.range_succ, List.foldl_append, ← ih (by omega), List.take_succ_eq_append_getElem hn, chkOf_snoc]
    rw [List.foldl_cons, List.foldl_nil, List.getD_eq_getElem _ _ hn, List.length_take, Nat.min_eq_left hn.le]

theorem chkOf_skip (pre body : List Byte) (x y : Byte) (h : pre.length = 7) :
    chkOf (pre ++ [x] ++ body) = chkOf (pre ++ [y] ++ body) := by
  have hdrop : ∀ z : Byte, (pre ++ [z] ++ body).drop 8 = body := fun z => List.drop_left' (by simp [h])
  have htake : ∀ z : Byte, (pre ++ [z] ++ body).take 7 = pre := fun z => by
    rw [List.append_assoc]
    exact List.take_left' h
  simp only [chkOf, hdrop, htake]

/-- The top byte of the header's value is the byte in place 7. -/
theorem header_topByte {bs : List Byte} (h : 8 ≤ bs.length) : BitVec.ofNat 8 (leNat (bs.take 8) / 2 ^ 56) = bs.getD 7 0#8 := by
  have h7 : bs.take 8 = bs.take 7 ++ [bs[7]] := List.take_succ_eq_append_getElem h
  have hlt : ∀ xs : List Byte, leNat xs < 256 ^ xs.length := by
    intro xs
    induction xs with
    | nil => simp [leNat]
    | cons x xs ih => have := x.isLt; simp only [leNat, List.length_cons, pow_succ]; omega
  have hl := hlt (bs.take 7)
  have hb := bs[7].isLt
  rw [List.length_take, Nat.min_eq_left (by omega)] at hl
  rw [bvOfNat_iff, h7, leNat_append, List.length_take, Nat.min_eq_left (by omega), List.getD_eq_getElem _ _ h]
  simp only [leNat]
  omega

/-! ### The slot words in order (R97) -/

theorem decodeSlots_code {ss : List Slot} {bs : List Byte} {e : Nat × Nat} (h : decodeSlots ss bs = .error e) : 0x010 ≤ e.1 := by
  induction ss generalizing bs with
  | nil => cases h
  | cons s ss ih =>
    unfold decodeSlots at h
    split at h
    · rename_i d _; cases h; cases d <;> simp [DecErr.base] <;> omega
    · split at h
      · rename_i hd; cases h; exact ih hd
      · cases h

/-- The value of the slot word in place `j`. -/
def wordAt (bs : List Byte) (j : Nat) : Nat := leNat ((bs.drop (4 * j)).take 4)

theorem wordAt_drop (bs : List Byte) (j : Nat) : wordAt (bs.drop 4) j = wordAt bs (j + 1) := by
  unfold wordAt
  rw [List.drop_drop]
  congr 3
  omega

theorem decodeSlots_firstError {ss : List Slot} {bs : List Byte} {j : Nat} {sl : Slot} {e : DecErr}
    (hj : ss[j]? = some sl) (he : decodeWord sl (wordAt bs j) = .error e)
    (hok : ∀ m < j, ∀ sl', ss[m]? = some sl' → ∃ i, decodeWord sl' (wordAt bs m) = .ok i) :
    decodeSlots ss bs = .error (e.base + sl.num, sl.num) := by
  induction ss generalizing bs j with
  | nil => simp at hj
  | cons s ss ih =>
    cases j with
    | zero =>
      obtain rfl : s = sl := by simpa using hj
      have he : decodeWord s (leNat (bs.take 4)) = .error e := he
      simp [decodeSlots, he]
    | succ j =>
      obtain ⟨i, hi⟩ := hok 0 (by omega) s rfl
      have hi : decodeWord s (leNat (bs.take 4)) = .ok i := hi
      have hrest := ih (bs := bs.drop 4) (by simpa using hj) (by rwa [wordAt_drop]) fun m hm sl' h' => by
        rw [wordAt_drop]
        exact hok (m + 1) (by omega) sl' (by simpa using h')
      simp [decodeSlots, hi, hrest]

theorem decodeSlots_all {ss : List Slot} {bs : List Byte}
    (hok : ∀ j sl, ss[j]? = some sl → ∃ i, decodeWord sl (wordAt bs j) = .ok i) :
    ∃ ws, decodeSlots ss bs = .ok ws ∧ ws.map (·.1) = ss ∧
      ∀ j sl i, ws[j]? = some (sl, i) → decodeWord sl (wordAt bs j) = .ok i := by
  induction ss generalizing bs with
  | nil => exact ⟨[], rfl, rfl, by simp⟩
  | cons s ss ih =>
    obtain ⟨i, hi⟩ := hok 0 s rfl
    have hi' : decodeWord s (leNat (bs.take 4)) = .ok i := hi
    obtain ⟨ws, hws, hmap, hat⟩ := ih (bs := bs.drop 4) fun j sl h => by
      rw [wordAt_drop]
      exact hok (j + 1) sl (by simpa using h)
    refine ⟨(s, i) :: ws, by simp [decodeSlots, hi', hws], by simp [hmap], fun j sl i' h => ?_⟩
    cases j with
    | zero => obtain ⟨rfl, rfl⟩ : s = sl ∧ i = i' := by simpa using h
              exact hi
    | succ j => rw [← wordAt_drop]; exact hat j sl i' (by simpa using h)

/-- Words admitted by their slots decode from their encodings, whatever follows. -/
theorem decodeSlots_encoded (ws : List (Slot × Instr)) (rest : List Byte) (hwf : ∀ p ∈ ws, wfIn p.1 p.2 = true) :
    decodeSlots (ws.map (·.1)) (((ws.map (fun p => encodeWord p.2)).map (leBytes 4)).flatten ++ rest) = .ok ws := by
  induction ws with
  | nil => rfl
  | cons p ws ih =>
    obtain ⟨s, i⟩ := p
    obtain ⟨w, he, hlt, hd⟩ := decodeWord_reads (hwf (s, i) List.mem_cons_self)
    have hw : encodeWord i = w := by simp [encodeWord, he]
    have hrest := ih fun p hp => hwf p (List.mem_cons_of_mem _ hp)
    simp only [List.map_cons, List.flatten_cons, List.append_assoc, decodeSlots, hw]
    rw [List.take_append_of_le_length (by simp), List.take_of_length_le (by simp), leNat_leBytes (by simpa using hlt), hd,
      List.drop_append_of_le_length (by simp), List.drop_of_length_le (by simp), List.nil_append, hrest]

/-! ### The header (R75) -/

theorem presOf_eq {ws : List (Slot × Instr)} {pres : BitVec 10} (h : ws.map (·.1) = presSlots pres) : presOf ws = pres.toNat := by
  have hmap : presOf ws = ((presSlots pres).map (fun s => 2 ^ s.num)).sum := by
    rw [← h, List.map_map]
    rfl
  have hbit : ∀ k, (if pres.getLsbD k then 2 ^ k else 0) = pres.toNat / 2 ^ k % 2 * 2 ^ k := by
    intro k
    rw [← BitVec.testBit_toNat, Nat.testBit_eq_decide_div_mod_eq]
    rcases Nat.mod_two_eq_zero_or_one (pres.toNat / 2 ^ k) with h | h <;> simp [h]
  have hsum : ∀ ss : List Slot, ((ss.filter (fun s => pres.getLsbD s.num)).map (fun s => 2 ^ s.num)).sum
      = (ss.map (fun s => pres.toNat / 2 ^ s.num % 2 * 2 ^ s.num)).sum := by
    intro ss
    induction ss with
    | nil => rfl
    | cons s ss ih =>
      rw [List.map_cons, List.sum_cons, ← hbit, ← ih, List.filter_cons]
      split <;> simp
  have hlt := pres.isLt
  rw [hmap, presSlots, hsum]
  simp only [Slot.all, Slot.num, List.map_cons, List.map_nil, List.sum_cons, List.sum_nil]
  omega

theorem headerVal_lt {h : Header} {pres : Nat} (hp : pres < 2 ^ 10) : headerVal h pres < 256 ^ 7 := by
  have := h.f.toNat_lt; have := h.b.toNat_lt; have := h.k.toNat_lt; have := h.d.toNat_lt; have := h.cmask.isLt
  simp only [headerVal]
  omega

/-- The header's fields, its reserved bits and its check byte, read from its value. -/
theorem headerOf_headerVal {h : Header} {v c : Nat} (hv : v = headerVal h h.pres.toNat + 2 ^ 56 * c)
    (hstamp : h.stamp < 2 ^ 14) (hprof : h.prof < 4) : headerOf v = h ∧ fld v 10 14 = 0 ∧ v / 2 ^ 56 = c := by
  have := h.f.toNat_lt; have := h.b.toNat_lt; have := h.k.toNat_lt; have := h.d.toNat_lt
  have := h.cmask.isLt; have := h.pres.isLt
  obtain ⟨pres, f, b, k, d, cmask, stamp, prof⟩ := h
  simp only [headerVal] at *
  refine ⟨?_, by unfold fld; omega, by omega⟩
  simp only [headerOf, Header.mk.injEq, bvOfNat_iff, bit_iff, fld]
  omega

/-! ### The order of the checks (R94) -/

theorem decodeBundle_checks {avail : List Byte} (h8 : 8 ≤ avail.length)
    (hlen : bundleLen (headerOf (leNat (avail.take 8))).pres ≤ avail.length) :
    decodeBundle avail =
      if chkOf (avail.take (bundleLen (headerOf (leNat (avail.take 8))).pres)) ≠ avail.getD 7 0#8 then .error (0x001, 10)
      else if fld (leNat (avail.take 8)) 10 14 ≠ 0 then .error (0x002, 10)
      else if 4 ≤ (headerOf (leNat (avail.take 8))).prof then .error (0x004, 10)
      else (decodeSlots (presSlots (headerOf (leNat (avail.take 8))).pres) (avail.drop 8)).map
        (Bundle.mk (headerOf (leNat (avail.take 8)))) := by
  unfold decodeBundle
  rw [if_neg (by omega)]
  simp only [if_neg (by omega : ¬avail.length < bundleLen (headerOf (leNat (avail.take 8))).pres), header_topByte h8]
  cases decodeSlots (presSlots (headerOf (leNat (avail.take 8))).pres) (avail.drop 8) <;> rfl

theorem decodeBundle_short {avail : List Byte}
    (h : avail.length < 8 ∨ avail.length < bundleLen (headerOf (leNat (avail.take 8))).pres) :
    decodeBundle avail = .error (0x005, 10) := by
  unfold decodeBundle
  split
  · rfl
  · exact if_pos (h.resolve_left ‹_›)

/-- Settles O53: the checks after CHK have other codes. -/
theorem checkByteIsChecked : Obligations.CheckByteIsChecked := by
  intro avail h8 len hlen chk
  have hchk : chkOf (avail.take len) = chk := chkOf_take avail hlen
  rw [decodeBundle_checks h8 hlen, hchk]
  refine ⟨fun hne => if_pos (Ne.symm hne), fun heq => ?_⟩
  rw [if_neg (not_not.mpr heq.symm)]
  split
  · simp
  · split
    · simp
    · generalize hd : decodeSlots _ _ = r
      cases r with
      | error e =>
        have hcode := decodeSlots_code hd
        rintro ⟨⟩
        simp at hcode
      | ok ws => simp [Except.map]

theorem length_words (ws : List Nat) : ((ws.map (leBytes 4)).flatten).length = 4 * ws.length := by
  induction ws with
  | nil => rfl
  | cons w ws ih => simp only [List.map_cons, List.flatten_cons, List.length_append, length_leBytes, ih, List.length_cons]; omega

theorem decodeBundle_encode {b : Bundle} (rest : List Byte) (hs : b.words.map (·.1) = presSlots b.hdr.pres)
    (hwf : ∀ p ∈ b.words, wfIn p.1 p.2 = true) (hstamp : b.hdr.stamp < 2 ^ 14) (hprof : b.hdr.prof < 4) :
    decodeBundle (encode b ++ rest) = .ok b := by
  obtain ⟨hdr, words⟩ := b
  simp only at *
  let hv := headerVal hdr hdr.pres.toNat
  let body := ((words.map (fun p => encodeWord p.2)).map (leBytes 4)).flatten
  let chk := chkOf (leBytes 7 hv ++ [0#8] ++ body)
  have henc : encode ⟨hdr, words⟩ ++ rest = (leBytes 7 hv ++ [chk]) ++ (body ++ rest) := by
    simp [encode, packBundle, presOf_eq hs, hv, body, chk]
  have hbody : body.length = 4 * (presSlots hdr.pres).length := by
    rw [← hs, List.length_map]
    simpa [body] using length_words (words.map (fun p => encodeWord p.2))
  have hpre : (leBytes 7 hv ++ [chk]).length = 8 := by simp
  have hval : leNat ((encode ⟨hdr, words⟩ ++ rest).take 8) = hv + 2 ^ 56 * chk.toNat := by
    rw [henc, List.take_append_of_le_length hpre.ge, List.take_of_length_le hpre.le, leNat_append,
      leNat_leBytes (headerVal_lt hdr.pres.isLt), length_leBytes]
    simp only [leNat, hv]
    omega
  obtain ⟨hhdr, hrz, -⟩ := headerOf_headerVal hval hstamp hprof
  have hlen : bundleLen hdr.pres = (leBytes 7 hv ++ [chk] ++ body).length := by rw [List.length_append, hpre, hbody]; rfl
  have htake : (encode ⟨hdr, words⟩ ++ rest).take (bundleLen hdr.pres) = leBytes 7 hv ++ [chk] ++ body := by
    rw [henc, ← List.append_assoc, hlen, List.take_left']
    rfl
  have hdrop : (encode ⟨hdr, words⟩ ++ rest).drop 8 = body ++ rest := by rw [henc, ← hpre, List.drop_left]
  have hall : (encode ⟨hdr, words⟩ ++ rest).length = 8 + (body ++ rest).length := by rw [henc, List.length_append, hpre]
  have h7 : (encode ⟨hdr, words⟩ ++ rest).getD 7 0#8 = chk := by
    rw [henc, List.append_assoc, List.getD_append_right _ _ _ _ (by simp)]
    simp
  have hsl : decodeSlots (presSlots hdr.pres) (body ++ rest) = .ok words := hs ▸ decodeSlots_encoded words rest hwf
  rw [decodeBundle_checks (by omega) (by rw [hhdr, hlen, henc]; simp), hhdr, htake, h7,
    chkOf_skip (leBytes 7 hv) body chk 0#8 (by simp), if_neg (by simp [chk]), if_neg (by simp [hrz]), if_neg (by omega), hdrop, hsl]
  rfl

/-- Settles O54: the encoding read back field by field, and the checks one after another. -/
theorem bundlesDecode : Obligations.BundlesDecode := by
  refine ⟨fun b rest hs hwf hstamp hprof => decodeBundle_encode rest hs hwf hstamp hprof, fun avail => ?_⟩
  intro h hdr len slots word
  have hword : ∀ j, word j = wordAt (avail.drop 8) j := fun j => by simp [word, wordAt, List.drop_drop]
  refine ⟨decodeBundle_short, fun h8 hlen hchk => ?_⟩
  have heq := decodeBundle_checks h8 hlen
  rw [if_neg (by simp only [not_not]; exact hchk.symm)] at heq
  refine ⟨fun hrz => heq.trans (if_pos hrz), fun hrz => ?_⟩
  rw [if_neg (not_not.mpr (show fld h 10 14 = 0 from hrz))] at heq
  refine ⟨fun hp => heq.trans (if_pos hp), fun hp => ?_⟩
  rw [if_neg (not_le.mpr hp)] at heq
  simp only [hword]
  refine ⟨fun j sl e hj he hok => ?_, fun hok => ?_⟩
  · rw [heq, decodeSlots_firstError hj he hok]
    rfl
  · obtain ⟨ws, hws, hmap, hat⟩ := decodeSlots_all hok
    exact ⟨ws, by rw [heq, hws]; rfl, hmap, hat⟩

end Sys2Proof

/-! SUPPORT. Branches (R93): what a control word that chooses the next address does to its context. -/

namespace Sys2Proof.Machine

theorem State.advance_eq (s : State) (taken : Option PAddr) (annuls : Bool) :
    s.advance taken annuls = s.turned (s.cx.advance s.issue.pc s.issue.len taken annuls) := rfl

@[simp] theorem State.cx_turned (s : State) (x : Ctx) : (s.turned x).cx = x := State.cx_setCx s x

@[simp] theorem State.turned_setCx (s : State) (x y : Ctx) : (s.setCx x).turned y = s.turned y := by
  simp only [State.turned, State.setCx_setCx]
  rfl

/-- A branch after an undo entry and its writes: one turn of the context. -/
theorem State.advance_sent (s : State) (key : UKey) (ws : List PendWrite) (taken : Option PAddr) (annuls : Bool) :
    (s.sent key ws).advance taken annuls =
      s.turned (Ctx.advance { s.cx.logged key with inFlight := (s.cx.logged key).inFlight ++ ws } s.issue.pc s.issue.len taken annuls) := by
  rw [State.advance_eq, State.sent, State.turned_setCx, State.cx_setCx]
  rfl

theorem Ctx.logged_inFlight (x : Ctx) (key : UKey) : (x.logged key).inFlight = x.inFlight := by
  unfold Ctx.logged
  split <;> rfl

/-- The same with an undo entry alone. -/
theorem State.advance_needUndo {s : State} {key : UKey} (h : s.cx.undoFits key = true) (taken : Option PAddr) (annuls : Bool) :
    (s.needUndo key).advance taken annuls = s.turned (Ctx.advance (s.cx.logged key) s.issue.pc s.issue.len taken annuls) := by
  rw [State.needUndo_eq h, State.advance_eq]
  split
  · rename_i hk
    rw [Ctx.logged, if_pos hk]
  · rw [State.turned_setCx, State.cx_setCx]
    rfl

theorem Ctx.advance_annul (x : Ctx) (pc : PAddr) (len : Nat) (taken : Option PAddr) (annuls : Bool) :
    (x.advance pc len taken annuls).annul = if annuls then 2 else x.annul := by
  unfold Ctx.advance Ctx.nextAddr
  cases taken <;> simp only <;> split <;> rfl

theorem branchCond_eq (s : State) (q : QReg) (qn : Bool) : s.branchCond q qn = (s.rq q ^^ qn) := by
  unfold State.branchCond
  cases s.rq q <;> cases qn <;> rfl

theorem exec_br (q : QReg) (qn : Bool) (disp : BitVec 20) (s : State) :
    exec (.br q qn disp) s = .next (s.advance (if s.branchCond q qn then some (branchTarget s.issue.pc disp) else none) false) := rfl

theorem exec_brn (q : QReg) (qn : Bool) (disp : BitVec 20) (s : State) :
    exec (.brn q qn disp) s =
      .next (if s.branchCond q qn then s.advance (some (branchTarget s.issue.pc disp)) false else s.advance none true) := rfl

theorem exec_jumpReg (a : SReg) (s : State) : ∀ i ∈ [Instr.jmpr a, .ret a], exec i s = .next (s.jumpReg (s.rs a)) := by
  intro i hi
  simp only [List.mem_cons, List.not_mem_nil, or_false] at hi
  obtain rfl | rfl := hi <;> rfl

theorem exec_call (disp : BitVec 20) (s : State) :
    exec (.call disp) s = .next ((s.writeS 1 63 s.callLink).advance (some (branchTarget s.issue.pc disp)) false) := rfl

theorem needUndo_issue {s : State} {key : UKey} (h : s.cx.undoFits key = true) : (s.needUndo key).issue = s.issue := by
  rw [State.needUndo_eq h]
  split <;> rfl

theorem exec_loop (c1 : Bool) (disp : BitVec 20) (s : State) : exec (.loop c1 disp) s =
    .next (if s.cx.crNat (loopNum c1) = 0 then (s.needUndo (.cr (loopNum c1))).advance none false
      else ((s.needUndo (.cr (loopNum c1))).pend 1 (.cr (loopNum c1)) (ones 64) (s.cx.crNat (loopNum c1) - 1)).advance
        (if s.cx.crNat (loopNum c1) - 1 ≠ 0 then some (branchTarget (s.needUndo (.cr (loopNum c1))).issue.pc disp) else none)
          false) := rfl

theorem storedLen_at {x : Ctx} {pa off stop : Nat} (h : x.locate pa = .at' off stop) :
    x.storedLen pa = bundleLen (BitVec.ofNat 10 (readLE x.imem off 8)) := by
  unfold Ctx.storedLen
  rw [h]

end Sys2Proof.Machine

namespace Sys2Proof

open Machine

theorem pendingBranch_counts (x : Ctx) (pc pc1 pc2 tgt : PAddr) (len len1 len2 : Nat) (h : x.pend = []) :
    let a := x.advance pc len (some tgt) false
    let b := a.advance pc1 len1 none false
    let c := b.advance pc2 len2 none false
    a.pc = pc + BitVec.ofNat 32 len ∧ b.pc = pc1 + BitVec.ofNat 32 len1 ∧ c.pc = tgt ∧ c.pend = [] ∧ c.annul = x.annul := by
  simp [Ctx.advance, Ctx.nextAddr, h]

theorem branches_turn (s : State) (q : QReg) (qn : Bool) (disp : BitVec 20) :
    let tgt := s.issue.pc + disp.signExtend 32 * 4#32
    let go := fun (taken : Option PAddr) (annuls : Bool) => s.turned (s.cx.advance s.issue.pc s.issue.len taken annuls)
    ((s.rq q ^^ qn) = true → exec (.br q qn disp) s = .next (go (some tgt) false) ∧
      exec (.brn q qn disp) s = .next (go (some tgt) false)) ∧
    ((s.rq q ^^ qn) = false → exec (.br q qn disp) s = .next (go none false) ∧
      exec (.brn q qn disp) s = .next (go none true) ∧ (go none true).cx.annul = 2) ∧
    exec (.jmp disp) s = .next (go (some tgt) false) := by
  intro tgt go
  rw [exec_br, exec_brn, branchCond_eq]
  refine ⟨fun h => ?_, fun h => ?_, rfl⟩
  · rw [if_pos h, if_pos h]
    exact ⟨rfl, rfl⟩
  · rw [if_neg (by simp [h]), if_neg (by simp [h])]
    exact ⟨rfl, rfl, (congrArg Ctx.annul (State.cx_turned s _)).trans (Ctx.advance_annul ..)⟩

theorem jumpReg_checks (s : State) (a : SReg) (hr : s.issue.raised = none) :
    let v := s.rs a
    (v.toNat % 4 = 0 → v.toNat < 2 ^ 32 → ∀ i ∈ [Instr.jmpr a, .ret a],
      exec i s = .next (s.turned (s.cx.advance s.issue.pc s.issue.len (some (BitVec.ofNat 32 v.toNat)) false))) ∧
    (v.toNat % 4 ≠ 0 → ∀ i ∈ [Instr.jmpr a, .ret a], exec i s = .next (s.raises 0x003 0)) ∧
    (v.toNat % 4 = 0 → 2 ^ 32 ≤ v.toNat → ∀ i ∈ [Instr.jmpr a, .ret a], exec i s = .next (s.raises 0x289 v.toNat)) := by
  intro v
  refine ⟨fun h4 hlt i hi => ?_, fun h4 i hi => ?_, fun h4 hge i hi => ?_⟩ <;> rw [exec_jumpReg a s i hi] <;> unfold State.jumpReg
  · rw [if_neg (not_not.mpr h4), if_neg (not_le.mpr hlt)]
    rfl
  · rw [if_pos h4, State.raise_eq hr]
  · rw [if_neg (not_not.mpr h4), if_pos hge, State.raise_eq hr]

theorem call_links (s : State) (disp : BitVec 20) (hu : s.cx.undoFits (.s 63) = true) :
    ∃ t, exec (.call disp) s = .next t ∧ t = s.turned t.cx ∧
      t.cx = Ctx.advance { s.cx.logged (.s 63) with
        inFlight := s.cx.inFlight ++ [s.write 1 (.s 63) (ones 64) s.callLink.toNat] } s.issue.pc s.issue.len
          (some (s.issue.pc + disp.signExtend 32 * 4#32)) false := by
  have hw : s.writeS 1 63 s.callLink = s.sent (.s 63) [s.write 1 (.s 63) (ones 64) s.callLink.toNat] :=
    (State.writeS_eq (d := 63) (by simpa [State.scalarFits] using hu) 1 s.callLink).trans rfl
  rw [exec_call, hw, State.advance_sent, Ctx.logged_inFlight]
  exact ⟨_, rfl, by rw [State.cx_turned], State.cx_turned _ _⟩

theorem callLink_eq {s : State} {off off' stop stop' : Nat}
    (h1 : s.cx.locate (s.issue.pc.toNat + s.issue.len) = .at' off stop)
    (h2 : s.cx.locate (s.issue.pc.toNat + s.issue.len + bundleLen (BitVec.ofNat 10 (readLE s.cx.imem off 8))) = .at' off' stop') :
    s.callLink.toNat = (s.issue.pc.toNat + s.issue.len + bundleLen (BitVec.ofNat 10 (readLE s.cx.imem off 8))
      + bundleLen (BitVec.ofNat 10 (readLE s.cx.imem off' 8))) % 2 ^ 64 := by
  simp only [State.callLink, storedLen_at h1, storedLen_at h2, BitVec.toNat_ofNat]

theorem loop_counts (s : State) (c1 : Bool) (disp : BitVec 20) :
    let num := if c1 then 0x021 else 0x020
    let n := if c1 then s.cx.loopc1.toNat else s.cx.loopc0.toNat
    s.cx.undoFits (.cr num) = true →
    ∃ t, exec (.loop c1 disp) s = .next t ∧ t = s.turned t.cx ∧
      t.cx = Ctx.advance { s.cx.logged (.cr num) with
        inFlight := s.cx.inFlight ++ (if n = 0 then [] else [s.write 1 (.cr num) (ones 64) (n - 1)]) } s.issue.pc s.issue.len
          (if 1 < n then some (s.issue.pc + disp.signExtend 32 * 4#32) else none) false := by
  intro num n hu
  have hn : s.cx.crNat (loopNum c1) = n := by cases c1 <;> rfl
  rw [exec_loop, hn, show loopNum c1 = num from rfl]
  by_cases h0 : n = 0
  · rw [if_pos h0, if_pos h0, if_neg (by omega), List.append_nil, ← Ctx.logged_inFlight s.cx (.cr num)]
    exact ⟨_, rfl, by rw [State.advance_needUndo hu, State.cx_turned], by rw [State.advance_needUndo hu, State.cx_turned]⟩
  · have hgo : (if n - 1 ≠ 0 then some (branchTarget s.issue.pc disp) else none)
        = if 1 < n then some (s.issue.pc + disp.signExtend 32 * 4#32) else none :=
      if_congr (by omega) rfl rfl
    rw [if_neg h0, if_neg h0, needUndo_issue hu, State.needUndo_pend hu, State.advance_sent, Ctx.logged_inFlight]
    exact ⟨_, rfl, by rw [State.cx_turned], by rw [State.cx_turned, hgo]; rfl⟩

/-- Settles O5: each control word is one turn of its context. -/
theorem controlTransfers : Obligations.ControlTransfers :=
  ⟨pendingBranch_counts, branches_turn, jumpReg_checks, call_links, fun _ _ _ _ _ h1 h2 => callLink_eq h1 h2, loop_counts⟩

end Sys2Proof

/-! SUPPORT. What slot words leave unchanged (R42, R83 to R88). Two views of a state hold what must stay: `rest`, what a register
word leaves, and `elsewhere`, what any slot word leaves, with this tile's scratchpad when `sp` is set. Each operation of a word has
one equation for the view; a word's own equation is put together from those. -/

namespace Sys2Proof.Machine

/-! ### The two views -/

/-- A context without its undo log and what is in flight. -/
def Ctx.bare (x : Ctx) : Ctx := { x with undo := [], inFlight := [] }

/-- A state without its contexts and the fault that its bundle raises. -/
def State.bare (s : State) : State := { s with ctxs := [], issue := { s.issue with raised := none } }

/-- A context with the undo log and what is in flight of another. -/
def Ctx.filled (y x : Ctx) : Ctx := { x with undo := y.undo, inFlight := y.inFlight }

/-- A state with the contexts and the fault of another. -/
def State.filled (u s : State) : State := { s with ctxs := u.ctxs, issue := { s.issue with raised := u.issue.raised } }

/-- All but the undo log and what is in flight of the context in hand, and the fault that the bundle raises. -/
def State.rest (s : State) : State × (Nat → Ctx) :=
  (s.bare, fun c => if c = s.issue.ctx then (s.ctx c).bare else s.ctx c)

/-- The memories, the clock, the other contexts and the other tiles. -/
def State.elsewhere (sp : Bool) (s : State) : Memory × Memory × Nat × Nat × (Nat → Option Ctx) × (Nat → Option Tile) × Option Memory :=
  (s.dev, s.hostMem, s.cycle, s.issue.ctx, fun c => if c = s.issue.ctx then none else some (s.ctx c),
    fun u => if u = tileOf s.issue.ctx then none else some (s.tile u), if sp then some s.tl.sp else none)

theorem State.of_rest {s t : State} (h : t.rest = s.rest) :
    t = { s with ctxs := t.ctxs, issue := { s.issue with raised := t.issue.raised } } ∧
      t.cx = { s.cx with undo := t.cx.undo, inFlight := t.cx.inFlight } ∧ ∀ c, c ≠ s.issue.ctx → t.ctx c = s.ctx c := by
  have h1 : t.bare = s.bare := congrArg Prod.fst h
  have h2 := fun c => congrFun (congrArg Prod.snd h) c
  have hc : t.bare.issue.ctx = s.bare.issue.ctx := by rw [h1]
  change t.issue.ctx = s.issue.ctx at hc
  have ht := congrArg t.filled h1
  refine ⟨ht, ?_, fun c hne => ?_⟩
  · have hx : t.cx.bare = s.cx.bare := by simpa [State.rest, State.cx, hc] using h2 s.issue.ctx
    have hf := congrArg t.cx.filled hx
    exact hf
  · simpa [State.rest, hc, hne] using h2 c

theorem State.of_elsewhere {s t : State} {sp : Bool} (h : t.elsewhere sp = s.elsewhere sp) :
    t.dev = s.dev ∧ t.hostMem = s.hostMem ∧ t.cycle = s.cycle ∧ (∀ c, c ≠ s.issue.ctx → t.ctx c = s.ctx c) ∧
      (∀ u, u ≠ tileOf s.issue.ctx → t.tile u = s.tile u) ∧ (sp = true → t.tl.sp = s.tl.sp) := by
  simp only [State.elsewhere, Prod.mk.injEq] at h
  obtain ⟨hdev, hhost, hcycle, hctx, hcs, hts, hsp⟩ := h
  rw [hctx] at hcs hts
  refine ⟨hdev, hhost, hcycle, fun c hne => ?_, fun u hne => ?_, fun hb => ?_⟩
  · simpa [hne] using congrFun hcs c
  · simpa [hne] using congrFun hts u
  · simpa [hb] using hsp

/-- What leaves the rest leaves what is elsewhere. -/
theorem State.elsewhere_of_rest {s t : State} (h : t.rest = s.rest) (sp : Bool) : t.elsewhere sp = s.elsewhere sp := by
  obtain ⟨ht, -, hcs⟩ := State.of_rest h
  have hc : t.issue.ctx = s.issue.ctx := by rw [ht]
  have htiles : t.tiles = s.tiles := by rw [ht]
  have htile : ∀ u, t.tile u = s.tile u := fun u => congrArg (mgetD · u Tile.reset) htiles
  simp only [State.elsewhere, Prod.mk.injEq, hc, State.tl, htile, true_and, and_true]
  have hcs' : (fun c => if c = s.issue.ctx then none else some (t.ctx c)) = fun c => if c = s.issue.ctx then none else some (s.ctx c) :=
    funext fun c => by
      split
      · rfl
      · rw [hcs c ‹_›]
  exact ⟨by rw [ht], by rw [ht], by rw [ht], hcs'⟩

/-! ### What leaves the rest -/

@[simp] theorem State.rest_ite (c : Prop) [Decidable c] (a b : State) : (if c then a else b).rest = if c then a.rest else b.rest :=
  apply_ite State.rest c a b

@[simp] theorem State.rest_foldl {α : Type} (f : State → α → State) (xs : List α) (s : State) (hf : ∀ s x, (f s x).rest = s.rest) :
    (xs.foldl f s).rest = s.rest :=
  List.foldlRecOn (motive := fun t => t.rest = s.rest) xs f rfl fun t ht x _ => (hf t x).trans ht

theorem State.rest_setCx {s : State} {x : Ctx} (hx : x.bare = s.cx.bare) : (s.setCx x).rest = s.rest := by
  refine Prod.ext rfl (funext fun c => ?_)
  by_cases hc : c = s.issue.ctx
  · subst hc
    have hin : (s.setCx x).ctx s.issue.ctx = x := State.cx_setCx s x
    have hi : (s.setCx x).issue = s.issue := rfl
    simpa [State.rest, hin, hi, State.cx] using hx
  · have hout : (s.setCx x).ctx c = s.ctx c := State.ctx_setCtx_ne s x hc
    simp [State.rest, hc, hout]

@[simp] theorem State.rest_raise (s : State) (code ea : Nat) : (s.raise code ea).rest = s.rest := by
  unfold State.raise
  split <;> rfl

@[simp] theorem State.rest_needUndo (s : State) (key : UKey) : (s.needUndo key).rest = s.rest := by
  have hlog : (s.setCx { s.cx with undo := s.cx.undo ++ [⟨key, none⟩] }).rest = s.rest := State.rest_setCx rfl
  simp [State.needUndo, hlog]

@[simp] theorem State.rest_pend (s : State) (lat : Nat) (d : Dst) (mask val : Nat) : (s.pend lat d mask val).rest = s.rest :=
  State.rest_setCx rfl

@[simp] theorem State.rest_writeS (s : State) (lat : Nat) (r : SReg) (v : Word) : (s.writeS lat r v).rest = s.rest := by
  simp [State.writeS]

@[simp] theorem State.rest_writeQ (s : State) (lat : Nat) (r : QReg) (b : Bool) : (s.writeQ lat r b).rest = s.rest := by
  simp [State.writeQ]

@[simp] theorem State.rest_writeV (s : State) (lat : Nat) (r : VReg) (c mask v : Nat) : (s.writeV lat r c mask v).rest = s.rest :=
  State.rest_pend s _ _ _ _

@[simp] theorem State.rest_writeK (s : State) (lat : Nat) (r : KReg) (c mask v : Nat) : (s.writeK lat r c mask v).rest = s.rest := by
  simp [State.writeK]

@[simp] theorem State.rest_writeFlags (s : State) (lat : Nat) (f : Flags) : (s.writeFlags lat f).rest = s.rest := by
  simp [State.writeFlags]

@[simp] theorem State.rest_writeWhole (s : State) (v : VReg) (img : Nat → Nat) : (s.writeWhole v img).rest = s.rest := by
  simp [State.writeWhole]

@[simp] theorem State.rest_writeImage (s : State) (lat : Nat) (d : VReg) (c : Nat) (im : Image) :
    (s.writeImage lat d c im).rest = s.rest := by simp [State.writeImage]

@[simp] theorem State.rest_vecImages (s : State) (lat : Nat) (d : VReg) (img : Nat → Image) : (s.vecImages lat d img).rest = s.rest := by
  unfold State.vecImages
  split <;> simp

@[simp] theorem State.rest_vecLoop (s : State) (lat : Nat) (d : VReg) (t : ETy) (k : KSel) (f : Nat → Nat → Nat × Flags) :
    (s.vecLoop lat d t k f).rest = s.rest := by simp [State.vecLoop]

@[simp] theorem State.rest_vecPure (s : State) (lat : Nat) (d : VReg) (t : ETy) (k : KSel) (f : Nat → Nat → Nat) :
    (s.vecPure lat d t k f).rest = s.rest := by simp [State.vecPure]

@[simp] theorem State.rest_maskLoop (s : State) (lat : Nat) (d : KReg) (t : ETy) (k : KSel) (f : Nat → Nat → Bool × Flags) :
    (s.maskLoop lat d t k f).rest = s.rest := by
  unfold State.maskLoop
  split <;> simp

@[simp] theorem State.rest_maskWord (s : State) (d : KReg) (f : Nat → Nat) : (s.maskWord d f).rest = s.rest := by
  unfold State.maskWord
  split <;> simp

@[simp] theorem State.rest_arith2 (s : State) (d a b : VReg) (t : ETy) (k : KSel) (lf li : Nat)
    (gf : XVal → XVal → XVal × Flags) (gi : Int → Int → Int) : (s.arith2 d a b t k lf li gf gi).rest = s.rest := by
  simp [State.arith2]

@[simp] theorem State.rest_arith1 (s : State) (d a : VReg) (t : ETy) (k : KSel) (gf : XVal → XVal) (gi : Int → Int) :
    (s.arith1 d a t k gf gi).rest = s.rest := by simp [State.arith1]

@[simp] theorem State.rest_logic2 (s : State) (d a b : VReg) (t : ETy) (k : KSel) (g : Nat → Nat → Nat) :
    (s.logic2 d a b t k g).rest = s.rest := by simp [State.logic2]

@[simp] theorem State.rest_special (s : State) (op : Nat) (d a : VReg) (t : ETy) (k : KSel) : (s.special op d a t k).rest = s.rest := by
  simp [State.special]

@[simp] theorem State.rest_writeCr (s : State) (num : Nat) (v : Word) : (s.writeCr num v).rest = s.rest := by
  unfold State.writeCr
  simp only [State.rest_ite, State.rest_raise, State.rest_pend]
  cases (Dst.cr num).key <;> simp

theorem State.rest_localCheck {s : State} {k : State → State} (hk : (k s).rest = s.rest) (rs : List (Int × Nat)) (off : Option Int)
    (both : Bool) (bank ecc : List (Nat × Nat) → Bool) : (s.localCheck rs off both bank ecc k).rest = s.rest := by
  unfold State.localCheck
  split
  · simp
  · split <;> simp [hk]

/-- A load into every enabled cluster of a vector register. -/
theorem State.rest_vecLoad (s : State) (cs : List Nat) (d : VReg) (lat : Nat) (img : Nat → Nat) :
    (cs.foldl (fun s' c => s'.writeV lat d c (ones 2048) (img c)) (s.needUndo (.v d.val))).rest = s.rest := by
  simp

/-! ### Register words -/

/-- An outcome leaves a view of the state: its next state, if there is one, has it as it was. -/
def Leaves {α : Type} (f : State → α) (s : State) (r : Res) : Prop := ∀ t, r = .next t → f t = f s

theorem leaves_next {α : Type} {f : State → α} {s t : State} (h : f t = f s) : Leaves f s (.next t) := by
  rintro _ ⟨⟩
  exact h

/-- A register word leaves the rest. -/
theorem wordMeaning_leavesRest {i : Instr} (hr : registerWord i = true) (s : State) : Leaves State.rest s (wordMeaning i s) := by
  cases i with
  | add | addi | and | andi | or | ori | xor | xori | sub | clz | ctz | popc | div | rem | mul | mulh | min | max | shl | shr
  | sra | rotl | sel | limm | xptr => exact leaves_next (State.rest_writeS _ _ _ _)
  | cmp => exact leaves_next (State.rest_writeQ _ _ _ _)
  | mfc =>
    refine leaves_next ?_
    split <;> simp
  | mtc | mtcEvent | mtcDmr | mtcAshape => exact leaves_next (State.rest_writeCr _ _ _)
  | ld => exact leaves_next (State.rest_localCheck (State.rest_writeS _ _ _ _) _ _ _ _ _)
  | vld | vldb | vlds =>
    refine leaves_next ?_
    split
    · rfl
    · exact State.rest_localCheck (State.rest_vecLoad _ _ _ _ _) _ _ _ _ _
  | vadd | vsub | vmul | vmin | vmax => exact leaves_next (State.rest_arith2 _ _ _ _ _ _ _ _ _ _)
  | vabs | vneg => exact leaves_next (State.rest_arith1 _ _ _ _ _ _ _)
  | vfma | vclamp | vdot => exact leaves_next (State.rest_vecLoop _ _ _ _ _ _)
  | vand | vor | vxor | vshl | vshr | vsra => exact leaves_next (State.rest_logic2 _ _ _ _ _ _ _)
  | vsel | vred | vscan | vcvt | vqnt | vdqnt => exact leaves_next (State.rest_vecImages _ _ _ _)
  | vperm | vsplat | vmov | vxch => exact leaves_next (State.rest_vecPure _ _ _ _ _ _)
  | vget | vput => exact leaves_next (by simp)
  | vcmp => exact leaves_next (State.rest_maskLoop _ _ _ _ _ _)
  | kand | kor | kxor | knot => exact leaves_next (State.rest_maskWord _ _ _)
  | kpopc | kfirst =>
    refine leaves_next ?_
    split <;> simp
  | fexp2 | flog2 | frcp | frsq | ftanh | fsig | fsin | fcos => exact leaves_next (State.rest_special _ _ _ _ _ _)
  | _ => cases hr

/-! ### What is elsewhere -/

section
variable (sp : Bool) (s : State)

@[simp] theorem State.elsewhere_ite (c : Prop) [Decidable c] (a b : State) :
    (if c then a else b).elsewhere sp = if c then a.elsewhere sp else b.elsewhere sp := apply_ite (State.elsewhere sp) c a b

@[simp] theorem State.elsewhere_foldl {α : Type} (f : State → α → State) (xs : List α)
    (hf : ∀ s x, (f s x).elsewhere sp = s.elsewhere sp) : (xs.foldl f s).elsewhere sp = s.elsewhere sp :=
  List.foldlRecOn (motive := fun t => t.elsewhere sp = s.elsewhere sp) xs f rfl fun t ht x _ => (hf t x).trans ht

@[simp] theorem State.elsewhere_setCx (x : Ctx) : (s.setCx x).elsewhere sp = s.elsewhere sp := by
  have hcs : (fun c => if c = s.issue.ctx then none else some ((s.setCx x).ctx c))
      = fun c => if c = s.issue.ctx then none else some (s.ctx c) := funext fun c => by
    split
    · rfl
    · exact congrArg some (State.ctx_setCtx_ne s x ‹_›)
  have hi : (s.setCx x).issue = s.issue := rfl
  simp only [State.elsewhere, hi, hcs]
  rfl

/-- This tile changes, and its scratchpad not where it counts. -/
theorem State.elsewhere_setTl {y : Tile} (hy : sp = true → y.sp = s.tl.sp) : (s.setTl y).elsewhere sp = s.elsewhere sp := by
  have hts : (fun u => if u = tileOf s.issue.ctx then none else some ((s.setTl y).tile u))
      = fun u => if u = tileOf s.issue.ctx then none else some (s.tile u) := funext fun u => by
    split
    · rfl
    · exact congrArg some (mgetD_mput_ne _ _ _ ‹_›)
  have hi : (s.setTl y).issue = s.issue := rfl
  have hsp : (if sp then some y.sp else none) = if sp then some s.tl.sp else none := by
    split
    · rw [hy ‹_›]
    · rfl
  simp only [State.elsewhere, hi, hts, State.tl_setTl, hsp]
  rfl

@[simp] theorem State.elsewhere_setTl_sp {y : Tile} (hy : y.sp = s.tl.sp) : (s.setTl y).elsewhere sp = s.elsewhere sp :=
  State.elsewhere_setTl sp s fun _ => hy

@[simp] theorem State.elsewhere_raise (code ea : Nat) : (s.raise code ea).elsewhere sp = s.elsewhere sp :=
  State.elsewhere_of_rest (State.rest_raise s code ea) sp
@[simp] theorem State.elsewhere_needUndo (key : UKey) : (s.needUndo key).elsewhere sp = s.elsewhere sp :=
  State.elsewhere_of_rest (State.rest_needUndo s key) sp
@[simp] theorem State.elsewhere_pend (lat : Nat) (d : Dst) (mask val : Nat) : (s.pend lat d mask val).elsewhere sp = s.elsewhere sp :=
  State.elsewhere_of_rest (State.rest_pend s lat d mask val) sp
@[simp] theorem State.elsewhere_writeS (lat : Nat) (r : SReg) (v : Word) : (s.writeS lat r v).elsewhere sp = s.elsewhere sp :=
  State.elsewhere_of_rest (State.rest_writeS s lat r v) sp
@[simp] theorem State.elsewhere_writeFlags (lat : Nat) (f : Flags) : (s.writeFlags lat f).elsewhere sp = s.elsewhere sp :=
  State.elsewhere_of_rest (State.rest_writeFlags s lat f) sp
@[simp] theorem State.elsewhere_writeWhole (v : VReg) (img : Nat → Nat) : (s.writeWhole v img).elsewhere sp = s.elsewhere sp :=
  State.elsewhere_of_rest (State.rest_writeWhole s v img) sp

@[simp] theorem State.elsewhere_raisePop (code : Nat) : (s.raisePop code).elsewhere sp = s.elsewhere sp := by
  unfold State.raisePop
  split <;> rfl

@[simp] theorem State.elsewhere_needUndoNow (key : UKey) (val : Nat) : (s.needUndoNow key val).elsewhere sp = s.elsewhere sp := by
  simp [State.needUndoNow]

theorem State.elsewhere_advanced : State.elsewhere sp { s with issue := { s.issue with advanced := true } } = s.elsewhere sp := rfl

@[simp] theorem State.elsewhere_advance (taken : Option PAddr) (annuls : Bool) : (s.advance taken annuls).elsewhere sp = s.elsewhere sp :=
  State.elsewhere_setCx sp s _

@[simp] theorem State.elsewhere_jumpReg (v : Word) : (s.jumpReg v).elsewhere sp = s.elsewhere sp := by simp [State.jumpReg]

@[simp] theorem State.elsewhere_recordFailure (l : Nat) (f : Failure) : (s.recordFailure l f).elsewhere sp = s.elsewhere sp := (rfl)

theorem State.elsewhere_freeOwner : (s.freeOwner s.issue.ctx).elsewhere sp = s.elsewhere sp := by
  unfold State.freeOwner
  simp only
  split
  · exact State.elsewhere_setTl_sp sp s rfl
  · rfl

theorem State.elsewhere_failTask (reason code w2 w3 : Nat) :
    (s.failTask s.issue.ctx reason code w2 w3).elsewhere sp = s.elsewhere sp :=
  (State.elsewhere_freeOwner sp _).trans (State.elsewhere_setCx sp (s.recordFailure _ _) _)

/-- Delivery to the context in hand. -/
theorem State.elsewhere_deliver (cause ea es : Nat) (epc : PAddr) :
    (s.deliver s.issue.ctx cause ea es epc).elsewhere sp = s.elsewhere sp := by
  obtain ⟨-, h⟩ | ⟨-, -, h⟩ | ⟨-, -, h⟩ := State.deliver_cases s s.issue.ctx cause ea es epc
  · rw [h, State.elsewhere_failTask]
  · rw [h, State.elsewhere_failTask]
  · rw [h]
    exact State.elsewhere_setCx sp s _

@[simp] theorem State.elsewhere_pushed (f : Nat → Ctx → Ctx) : (s.pushed f).elsewhere sp = s.elsewhere sp :=
  State.elsewhere_setCx sp s _
@[simp] theorem State.elsewhere_enterCopy (mk : Nat → CopyRec) : (s.enterCopy mk).elsewhere sp = s.elsewhere sp :=
  State.elsewhere_pushed sp s _
@[simp] theorem State.elsewhere_xStart (op : MatOp) : (s.xStart op).elsewhere sp = s.elsewhere sp := State.elsewhere_setCx sp s _

@[simp] theorem State.elsewhere_xStream (acc : ATile) (op : MatOp) : (s.xStream acc op).elsewhere sp = s.elsewhere sp := by
  simp [State.xStream]

@[simp] theorem State.elsewhere_reserve (bank : Nat) : (s.reserve bank).elsewhere sp = s.elsewhere sp := by simp [State.reserve]

@[simp] theorem State.elsewhere_startDrain (phys rsel : Nat) : (s.startDrain phys rsel).elsewhere sp = s.elsewhere sp :=
  (State.elsewhere_xStart sp _ _).trans (State.elsewhere_setTl_sp sp s rfl)

@[simp] theorem State.elsewhere_askLine (fn : Nat) (ln : Nat × Bool) : (s.askLine fn ln).elsewhere sp = s.elsewhere sp := (rfl)

@[simp] theorem State.elsewhere_enqueueAs (c : Nat) (seq : Option Nat) (cls : Nat) (us : List Nat) :
    (s.enqueueAs c seq cls us).elsewhere sp = s.elsewhere sp := by
  unfold State.enqueueAs
  split <;> rfl

theorem State.elsewhere_hints (hs : List Hint) : State.elsewhere sp { s with hints := hs } = s.elsewhere sp := rfl

@[simp] theorem State.elsewhere_hint (kind : PfhKind) (ps : List Part) : (s.hint kind ps).elsewhere sp = s.elsewhere sp := by
  simp only [State.hint]
  split
  · simp
  · refine (State.elsewhere_hints sp _ _).trans ?_
    simp

end

/-! ### A word's checks: what follows runs on the same state, or a fault is raised -/

section
variable {sp : Bool} {s : State} {k : State → State} (hk : (k s).elsewhere sp = s.elsewhere sp)
include hk

theorem State.elsewhere_check (bad : Bool) (code ea : Nat) : (s.check bad code ea k).elsewhere sp = s.elsewhere sp := by
  simp [State.check, hk]

theorem State.elsewhere_gatePush : (s.gatePush k).elsewhere sp = s.elsewhere sp := by simp [State.gatePush, hk]

theorem State.elsewhere_gateRows (addrs : List Nat) : (s.gateRows addrs k).elsewhere sp = s.elsewhere sp := by
  simp [State.gateRows, hk]

theorem State.elsewhere_localCheck (rs : List (Int × Nat)) (off : Option Int) (both : Bool) (bank ecc : List (Nat × Nat) → Bool) :
    (s.localCheck rs off both bank ecc k).elsewhere sp = s.elsewhere sp := by
  unfold State.localCheck
  split
  · simp
  · split <;> simp [hk]

theorem State.elsewhere_xOwn : (s.xOwn k).elsewhere sp = s.elsewhere sp := State.elsewhere_check hk _ _ _

theorem State.elsewhere_xAcc (acc : ATile) : (s.xAcc acc k).elsewhere sp = s.elsewhere sp :=
  State.elsewhere_xOwn (State.elsewhere_check hk _ _ _)

theorem State.elsewhere_xReads (sa : Nat) (rs : List (Int × Nat)) (op : MatOp) :
    (s.xReads sa rs op k).elsewhere sp = s.elsewhere sp := by
  refine State.elsewhere_check ?_ _ _ _
  split
  · simp
  · split <;> simp [hk]

theorem State.elsewhere_checkParts (fs : List PartFault) : (s.checkParts fs k).elsewhere sp = s.elsewhere sp := by
  unfold State.checkParts
  split <;> simp [hk]

theorem State.elsewhere_checkSp (rs : List (Int × Nat)) : (s.checkSp rs k).elsewhere sp = s.elsewhere sp := by
  unfold State.checkSp
  split <;> simp [hk]

end

theorem State.elsewhere_xPair {sp : Bool} {s : State} {k : Nat → Nat → State → State}
    (hk : ∀ a w, (k a w s).elsewhere sp = s.elsewhere sp) (bands : BitVec 4) : (s.xPair bands k).elsewhere sp = s.elsewhere sp := by
  unfold State.xPair
  split
  · simp
  · exact State.elsewhere_check (hk _ _) _ _ _

@[simp] theorem State.elsewhere_enterCells (sp : Bool) (s : State) (colour : Nat) (op : CellOp) :
    (s.enterCells colour op).elsewhere sp = s.elsewhere sp := State.elsewhere_gatePush (State.elsewhere_pushed sp s _)

/-! ### Stores to this tile's scratchpad -/

@[simp] theorem State.elsewhere_storeBytes (s : State) (bs : List (Nat × Byte)) :
    (s.storeBytes bs).elsewhere false = s.elsewhere false := by
  refine State.elsewhere_gateRows ?_ _
  exact (State.elsewhere_setTl false _ (fun h => nomatch h)).trans (State.elsewhere_setCx false s _)

@[simp] theorem State.elsewhere_gateTouch (sp : Bool) (s : State) (a : Nat) : (s.gateTouch a).elsewhere sp = s.elsewhere sp :=
  State.elsewhere_gateRows (by simp) _

@[simp] theorem State.elsewhere_atomic (s : State) (op : AOp) (d a b : SReg) (w u : Bool) :
    (s.atomic op d a b w u).elsewhere false = s.elsewhere false := by
  refine State.elsewhere_localCheck ?_ _ _ _ _ _
  simp only [State.elsewhere_reserve, State.elsewhere_writeS]
  split <;> simp

@[simp] theorem State.elsewhere_vst (s : State) (k : Nat) (d : VReg) (b : SReg) (off : BitVec 9) :
    (s.vst k d b off).elsewhere false = s.elsewhere false := by
  unfold State.vst
  split
  · rfl
  · exact State.elsewhere_localCheck (State.elsewhere_storeBytes s _) _ _ _ _ _

/-! ### Slot words -/

section
variable (sp : Bool) (s : State)

theorem execTrap_leaves (n : BitVec 12) : Leaves (State.elsewhere sp) s (execTrap n s) := leaves_next (by
  have ha := State.elsewhere_advance sp s none false
  have hd := State.elsewhere_deliver sp (s.advance none false) (0x380 + n.toNat) 0 (s.advance none false).issue.slot.num
    (s.advance none false).cx.pc
  split
  · exact (State.elsewhere_setCx sp _ _).trans (hd.trans ha)
  · exact hd.trans ha)

theorem execEret_leaves : Leaves (State.elsewhere sp) s (execEret s) := leaves_next (by
  split
  · simp
  · split
    · simp
    · split
      · simp
      · exact State.elsewhere_setCx sp s _)

theorem execEndTask_leaves (status : BitVec 12) : Leaves (State.elsewhere sp) s (execEndTask status s) := leaves_next (by
  refine (State.elsewhere_advanced sp _).trans ((State.elsewhere_setCx sp _ _).trans ?_)
  split <;> rfl)

theorem execMldw_leaves (a b : SReg) (bands : BitVec 4) : Leaves (State.elsewhere sp) s (execMldw a b bands s) := leaves_next (by
  refine State.elsewhere_xOwn ?_
  refine State.elsewhere_xPair (fun _ w => ?_) _
  refine State.elsewhere_check ?_ _ _ _
  refine State.elsewhere_check ?_ _ _ _
  refine State.elsewhere_xReads ?_ _ _ _
  simp)

theorem execMmul_leaves (acc : ATile) (a b : SReg) (aip : Bool) (bands : BitVec 4) :
    Leaves (State.elsewhere sp) s (execMmul acc a b aip bands s) := leaves_next (by
  refine State.elsewhere_xAcc ?_ _
  refine State.elsewhere_xPair (fun fa w => ?_) _
  refine State.elsewhere_check ?_ _ _ _
  refine State.elsewhere_check ?_ _ _ _
  refine State.elsewhere_check ?_ _ _ _
  refine State.elsewhere_xReads ?_ _ _ _
  simp)

theorem execMvec_leaves (acc : ATile) (a b : SReg) (aip : Bool) (bands : BitVec 4) :
    Leaves (State.elsewhere sp) s (execMvec acc a b aip bands s) := leaves_next (by
  refine State.elsewhere_xAcc ?_ _
  refine State.elsewhere_xPair (fun fa w => ?_) _
  refine State.elsewhere_check ?_ _ _ _
  refine State.elsewhere_check ?_ _ _ _
  refine State.elsewhere_xReads ?_ _ _ _
  simp)

theorem execMzero_leaves (acc : ATile) (quarters : BitVec 4) : Leaves (State.elsewhere sp) s (execMzero acc quarters s) :=
  leaves_next (State.elsewhere_xAcc (by simp) _)

theorem execMdrn_leaves (acc : ATile) (a b : SReg) (clamp : Bool) (quarters : BitVec 4) :
    Leaves (State.elsewhere sp) s (execMdrn acc a b clamp quarters s) := leaves_next (by
  refine State.elsewhere_xAcc (State.elsewhere_check (State.elsewhere_check ?_ _ _ _) _ _ _) _
  simp only
  split
  · simp only [State.elsewhere_writeFlags, State.elsewhere_startDrain]
    rw [State.elsewhere_foldl sp _ _ _ fun s i => State.elsewhere_foldl sp s _ _ fun s c => State.elsewhere_pend sp s _ _ _ _,
      State.elsewhere_foldl sp _ _ _ fun s i => State.elsewhere_needUndo sp s _]
  · refine State.elsewhere_checkSp ?_ _
    refine State.elsewhere_gatePush ?_
    simp only [State.elsewhere_writeFlags, State.elsewhere_startDrain, State.elsewhere_pushed])

theorem execMaccd_leaves (acc : ATile) (a b : SReg) (clamp : Bool) (quarters : BitVec 4) :
    Leaves (State.elsewhere sp) s (execMaccd acc a b clamp quarters s) := leaves_next (by
  refine State.elsewhere_xAcc (State.elsewhere_check (State.elsewhere_check ?_ _ _ _) _ _ _) _
  simp only
  split
  · refine State.elsewhere_check ?_ _ _ _
    refine State.elsewhere_checkSp ?_ _
    refine State.elsewhere_gatePush ?_
    simp only [State.elsewhere_startDrain, State.elsewhere_pushed]
  · refine State.elsewhere_check ?_ _ _ _
    refine State.elsewhere_checkParts ?_ _
    refine State.elsewhere_gatePush ?_
    simp only [State.elsewhere_startDrain, State.elsewhere_pushed])

theorem execXfer_leaves (a : SReg) (col : Colour) (ch : Chan) : Leaves (State.elsewhere sp) s (execXfer a col ch s) := leaves_next (by
  refine State.elsewhere_checkSp ?_ _
  refine State.elsewhere_check ?_ _ _ _
  refine State.elsewhere_check ?_ _ _ _
  refine State.elsewhere_check ?_ _ _ _
  refine State.elsewhere_check ?_ _ _ _
  refine State.elsewhere_check ?_ _ _ _
  split
  · simp
  · exact State.elsewhere_checkParts (State.elsewhere_gatePush (State.elsewhere_enterCopy sp s _)) _)

theorem execAmog_leaves (a k : SReg) (op : AmogOp) (w : Bool) (col : Colour) (ch : Chan) :
    Leaves (State.elsewhere sp) s (execAmog a k op w col ch s) := leaves_next (by
  refine State.elsewhere_checkParts ?_ _
  refine State.elsewhere_check ?_ _ _ _
  refine State.elsewhere_checkSp ?_ _
  refine State.elsewhere_check ?_ _ _ _
  exact State.elsewhere_gatePush (State.elsewhere_enterCopy sp s _))

theorem execGthr_leaves (v : VReg) (b : SReg) (w : Width) : Leaves (State.elsewhere sp) s (execGthr v b w s) := by
  unfold execGthr
  refine leaves_next (State.elsewhere_check (State.elsewhere_check ?_ _ _ _) _ _ _)
  refine (State.elsewhere_ite sp _ _ _).trans ?_
  split
  · split <;> simp
  · exact State.elsewhere_checkParts (State.elsewhere_pushed sp s _) _

theorem execLadd_leaves (v i : VReg) (p : SReg) (col : Colour) : Leaves (State.elsewhere sp) s (execLadd v i p col s) :=
  leaves_next (State.elsewhere_check (State.elsewhere_checkParts (by simp) _) _ _ _)

theorem execLinit_leaves (a n : SReg) (col : Colour) : Leaves (State.elsewhere sp) s (execLinit a n col s) := leaves_next (by
  split
  · rfl
  · exact State.elsewhere_check (State.elsewhere_checkParts (by simp) _) _ _ _)

theorem execLraw_leaves (a b n : SReg) : Leaves (State.elsewhere sp) s (execLraw a b n s) := leaves_next (by
  split
  · rfl
  · refine State.elsewhere_check (State.elsewhere_check ?_ _ _ _) _ _ _
    split
    · simp
    · exact State.elsewhere_checkParts (by simp) _)

theorem execColl_leaves (a : SReg) (col : Colour) : Leaves (State.elsewhere sp) s (execColl a col s) := leaves_next (by
  refine State.elsewhere_check ?_ _ _ _
  refine State.elsewhere_checkSp ?_ _
  refine State.elsewhere_check ?_ _ _ _
  refine State.elsewhere_check ?_ _ _ _
  refine State.elsewhere_check ?_ _ _ _
  refine State.elsewhere_check ?_ _ _ _
  simp)

theorem execGpop_leaves (v : VReg) (d : SReg) : Leaves (State.elsewhere sp) s (execGpop v d s) := leaves_next (by
  split
  · simp
  · split
    · simp
    · simp only [State.elsewhere_writeS, State.elsewhere_writeWhole, State.elsewhere_setCx])

theorem execCpop_leaves (v : VReg) (d : SReg) : Leaves (State.elsewhere sp) s (execCpop v d s) := leaves_next (by
  split
  · simp
  · split
    · simp
    · simp
    · simp only [State.elsewhere_writeS, State.elsewhere_writeWhole, State.elsewhere_setCx])

theorem execXwait_leaves (a : SReg) (ch : Chan) : Leaves (State.elsewhere sp) s (execXwait a ch s) := leaves_next (by
  split
  · simp
  · split <;> simp)

end

theorem execVsts_leaves (w : Width) (d : VReg) (b : SReg) (off : BitVec 9) (col : Colour) (s : State) :
    Leaves (State.elsewhere false) s (execVsts w d b off col s) := leaves_next (by
  split
  · rfl
  · exact State.elsewhere_localCheck (State.elsewhere_storeBytes s _) _ _ _ _ _)

/-- A slot word that is no register word leaves what is elsewhere, and this tile's scratchpad unless it stores. -/
theorem wordMeaning_leaves_of_not_register {i : Instr} (hr : registerWord i = false) (s : State) :
    Leaves (State.elsewhere !storingWord i) s (wordMeaning i s) := by
  cases i with
  | br | brn | jmp | call | loop => exact leaves_next (by simp)
  | jmpr | ret => exact leaves_next (State.elsewhere_jumpReg _ _ _)
  | trap => exact execTrap_leaves _ s _
  | eret => exact execEret_leaves _ s
  | pause | bkpt | sync => exact leaves_next (State.elsewhere_check (by simp) _ _ _)
  | endTask => exact execEndTask_leaves _ s _
  | yield =>
    refine leaves_next ?_
    split <;> rfl
  | fence | drain =>
    refine leaves_next ?_
    split
    · exact State.elsewhere_check (by simp) _ _ _
    · simp
  | st => exact leaves_next (State.elsewhere_localCheck (State.elsewhere_storeBytes s _) _ _ _ _ _)
  | vcsq =>
    refine leaves_next (State.elsewhere_localCheck ?_ _ _ _ _ _)
    exact (State.elsewhere_reserve false _ _).trans ((State.elsewhere_writeS false _ _ _ _).trans (State.elsewhere_storeBytes s _))
  | aadd | amin | amax | aand | aor | axor | aswap | acas => exact leaves_next (State.elsewhere_atomic s _ _ _ _ _ _)
  | vstK0 | vstK1 | vstK2 | vstK3 => exact leaves_next (State.elsewhere_vst s _ _ _ _)
  | vsts _ _ _ _ col => exact execVsts_leaves _ _ _ _ col s
  | mcfg | mswap =>
    refine leaves_next (State.elsewhere_xOwn (State.elsewhere_check (State.elsewhere_check ?_ _ _ _) _ _ _))
    simp
  | mldw => exact execMldw_leaves _ s _ _ _
  | mmul => exact execMmul_leaves _ s _ _ _ _ _
  | mvec => exact execMvec_leaves _ s _ _ _ _ _
  | mzero => exact execMzero_leaves _ s _ _
  | mdrn => exact execMdrn_leaves _ s _ _ _ _ _
  | maccd => exact execMaccd_leaves _ s _ _ _ _ _
  | xfer => exact execXfer_leaves _ s _ _ _
  | amog => exact execAmog_leaves _ s _ _ _ _ _ _
  | gthr v b w => exact execGthr_leaves _ s v b w
  | ladd => exact execLadd_leaves _ s _ _ _ _
  | linit => exact execLinit_leaves _ s _ _ _
  | lraw a b n => exact execLraw_leaves _ s a b n
  | coll => exact execColl_leaves _ s _ _
  | pfh => exact leaves_next (by simp)
  | gpop => exact execGpop_leaves _ s _ _
  | cpop => exact execCpop_leaves _ s _ _
  | xwait => exact execXwait_leaves _ s _ _
  | _ => first | exact leaves_next rfl | cases hr -- a step, which does nothing in a bundle; a register word

/-- A slot word leaves what is elsewhere, and this tile's scratchpad unless it stores. -/
theorem wordMeaning_leaves (i : Instr) (s : State) : Leaves (State.elsewhere !storingWord i) s (wordMeaning i s) := by
  cases hr : registerWord i with
  | true => exact fun t ht => State.elsewhere_of_rest (wordMeaning_leavesRest hr s t ht) _
  | false => exact wordMeaning_leaves_of_not_register hr s

/-- A register word has the meaning of a slot word, in whatever slot. -/
theorem exec_registerWord {i : Instr} (hr : registerWord i = true) (s : State) : exec i s = wordMeaning i s := by
  cases i <;> first | rfl | cases hr

end Sys2Proof.Machine

namespace Sys2Proof

open Machine

/-- Settles O58: a register word leaves `State.rest`, and every slot word `State.elsewhere`. -/
theorem slotWordFrames : Obligations.SlotWordFrames := by
  refine ⟨fun s t i hr ht => ?_, fun sl s t i hwf ht => ?_⟩
  · exact State.of_rest (wordMeaning_leavesRest hr s t (exec_registerWord hr s ▸ ht))
  · obtain ⟨hdev, hhost, hcycle, hcs, hts, hsp⟩ :=
      State.of_elsewhere (wordMeaning_leaves i s t (wordMeaning_eq_exec i sl s hwf ▸ ht))
    exact ⟨hdev, hhost, hcycle, hcs, hts, fun hst => hsp (by rw [hst]; rfl)⟩

end Sys2Proof

/-! SUPPORT. Register writes that land (R87, R88, R151, R279): what one write changes, and what several of one cycle leave. -/

namespace Sys2Proof.Machine

/-! ### One write in its register -/

/-! A write of a control register leaves the general registers, the place and the logs of the context. -/

section
variable (x : Ctx) (num v : Nat)

@[simp] theorem Ctx.setCr_s : (x.setCr num v).s = x.s := by
  unfold Ctx.setCr
  split <;> rfl

@[simp] theorem Ctx.setCr_q : (x.setCr num v).q = x.q := by
  unfold Ctx.setCr
  split <;> rfl

@[simp] theorem Ctx.setCr_v : (x.setCr num v).v = x.v := by
  unfold Ctx.setCr
  split <;> rfl

@[simp] theorem Ctx.setCr_k : (x.setCr num v).k = x.k := by
  unfold Ctx.setCr
  split <;> rfl

@[simp] theorem Ctx.setCr_pc : (x.setCr num v).pc = x.pc := by
  unfold Ctx.setCr
  split <;> rfl

@[simp] theorem Ctx.setCr_wait : (x.setCr num v).wait = x.wait := by
  unfold Ctx.setCr
  split <;> rfl

@[simp] theorem Ctx.setCr_undo : (x.setCr num v).undo = x.undo := by
  unfold Ctx.setCr
  split <;> rfl

@[simp] theorem Ctx.setCr_inFlight : (x.setCr num v).inFlight = x.inFlight := by
  unfold Ctx.setCr
  split <;> rfl

end

section
variable (x : Ctx) (d : Dst) (mask v : Nat)

@[simp] theorem Ctx.setDst_pc : (x.setDst d mask v).pc = x.pc := by cases d <;> simp [Ctx.setDst]
@[simp] theorem Ctx.setDst_wait : (x.setDst d mask v).wait = x.wait := by cases d <;> simp [Ctx.setDst]
@[simp] theorem Ctx.setDst_undo : (x.setDst d mask v).undo = x.undo := by cases d <;> simp [Ctx.setDst]
@[simp] theorem Ctx.setDst_inFlight : (x.setDst d mask v).inFlight = x.inFlight := by cases d <;> simp [Ctx.setDst]

end

theorem Ctx.setCr_vstat (x : Ctx) (num v : Nat) : (x.setCr num v).vstat = if num = 0x024 then BitVec.ofNat 5 v else x.vstat := by
  unfold Ctx.setCr
  split <;> simp_all

theorem testBit_blend (mask x v j : Nat) : (blend mask x v).testBit j = if mask.testBit j then v.testBit j else x.testBit j := by
  simp only [blend, Nat.testBit_or, Nat.testBit_and, Nat.testBit_xor]
  cases mask.testBit j <;> simp

theorem getLsbD_blend {w j : Nat} (hj : j < w) (mask v : Nat) (old : BitVec w) :
    (BitVec.ofNat w (blend mask old.toNat v)).getLsbD j = if mask.testBit j then v.testBit j else old.getLsbD j := by
  rw [BitVec.getLsbD_ofNat, testBit_blend, BitVec.testBit_toNat]
  simp only [hj, decide_true, Bool.true_and]

theorem getLsbD_setQ (q : BitVec 8) (m : Nat) (b : Bool) {n : Nat} (h : n < 8) :
    (setQ q m b).getLsbD n = if m = n then b else q.getLsbD n := by
  have hbit : (BitVec.ofNat 8 (2 ^ m)).getLsbD n = decide (m = n) := by
    rw [BitVec.getLsbD_ofNat, Nat.testBit_two_pow]
    simp only [h, decide_true, Bool.true_and]
  unfold setQ
  generalize BitVec.ofNat 8 (2 ^ m) = z at hbit
  cases b
  · simp only [Bool.false_eq_true, if_false, BitVec.getLsbD_and, BitVec.getLsbD_not, hbit, h]
    by_cases hm : m = n <;> simp [hm]
  · simp only [if_true, BitVec.getLsbD_or, hbit]
    by_cases hm : m = n <;> simp [hm]

section
variable (x : Ctx) (w : PendWrite)

theorem Ctx.land_rs_eq {n : Nat} (hn : 0 < n) : (x.land w).rs n = if w.dst = .s n then BitVec.ofNat 64 w.val else x.rs n := by
  unfold Ctx.land Ctx.setDst
  cases w.dst with
  | s m =>
    by_cases hm : m = n
    · simp [Ctx.rs, hm, hn.ne']
    · simp [Ctx.rs, hm, hn.ne', mgetD_mput_ne _ _ _ (Ne.symm hm)]
  | cr num => simp only [Ctx.rs, Ctx.setCr_s, reduceCtorEq, if_false]
  | _ => simp [Ctx.rs]

theorem Ctx.land_rq_eq {n : Nat} (hn : 0 < n) (h8 : n < 8) : (x.land w).rq n = if w.dst = .q n then w.val == 1 else x.rq n := by
  unfold Ctx.land Ctx.setDst
  cases w.dst with
  | q m => simp [Ctx.rq, beq_eq_false_iff_ne.mpr hn.ne', getLsbD_setQ _ _ _ h8]
  | cr num => simp only [Ctx.rq, Ctx.setCr_q, reduceCtorEq, if_false]
  | _ => simp [Ctx.rq]

theorem Ctx.land_rv_bit {n d j : Nat} (hd : d < 8) (hj : j < 2048) (hw : ∀ m c, w.dst = .v m c → c < 8) :
    ((x.land w).rv n d).getLsbD j =
      if w.dst = .v n d ∧ w.mask.testBit j = true then w.val.testBit j else (x.rv n d).getLsbD j := by
  unfold Ctx.land Ctx.setDst
  cases hdst : w.dst with
  | v m c =>
    have hc := hw m c hdst
    by_cases hk : m = n ∧ c = d
    · obtain ⟨rfl, rfl⟩ := hk
      simp only [Ctx.rv, mgetD_mput_self, getLsbD_blend hj, true_and]
    · have hne : 8 * n + d ≠ 8 * m + c := by omega
      simp [Ctx.rv, mgetD_mput_ne _ _ _ hne, hk]
  | cr num => simp only [Ctx.rv, Ctx.setCr_v, reduceCtorEq, false_and, if_false]
  | _ => simp [Ctx.rv]

theorem Ctx.land_rk_bit {n d j : Nat} (hn : 0 < n) (hd : d < 8) (hj : j < 256) (hw : ∀ m c, w.dst = .k m c → c < 8) :
    ((x.land w).rk n d).getLsbD j =
      if w.dst = .k n d ∧ w.mask.testBit j = true then w.val.testBit j else (x.rk n d).getLsbD j := by
  unfold Ctx.land Ctx.setDst
  cases hdst : w.dst with
  | k m c =>
    have hc := hw m c hdst
    by_cases hk : m = n ∧ c = d
    · obtain ⟨rfl, rfl⟩ := hk
      simp only [Ctx.rk, hn.ne', if_false, mgetD_mput_self, getLsbD_blend hj, true_and]
    · have hne : 8 * n + d ≠ 8 * m + c := by omega
      simp [Ctx.rk, mgetD_mput_ne _ _ _ hne, hk]
  | cr num => simp only [Ctx.rk, Ctx.setCr_k, reduceCtorEq, false_and, if_false]
  | _ => simp [Ctx.rk]

/-- VSTAT after a landing: a value is written, flags are ORed. -/
theorem Ctx.land_vstat : (x.land w).vstat =
    if w.dst = .cr 0x024 then BitVec.ofNat 5 w.val
    else if w.dst = .flags then x.vstat ||| BitVec.ofNat 5 w.val else x.vstat := by
  unfold Ctx.land Ctx.setDst
  cases w.dst with
  | cr num => simp [Ctx.setCr_vstat]
  | _ => simp

/-- A landing is the write in its register, after the undo log. -/
theorem Ctx.land_eq_setDst : x.land w = Ctx.setDst { x with undo := (x.land w).undo } w.dst w.mask w.val := by
  unfold Ctx.land
  rw [Ctx.setDst_undo]

@[simp] theorem Ctx.land_pc : (x.land w).pc = x.pc := Ctx.setDst_pc _ _ _ _
@[simp] theorem Ctx.land_wait : (x.land w).wait = x.wait := Ctx.setDst_wait _ _ _ _
@[simp] theorem Ctx.land_inFlight : (x.land w).inFlight = x.inFlight := Ctx.setDst_inFlight _ _ _ _

/-- An undo entry that awaits the write keeps the value it replaces. -/
theorem Ctx.land_undo {key : UKey} (hk : w.dst.key = some key) (hp : w.post = true) (hm : ⟨key, none⟩ ∈ x.undo) :
    ⟨key, some (x.keyVal key)⟩ ∈ (x.land w).undo := by
  have hin : hasKey x.undo key = true := List.any_eq_true.mpr ⟨_, hm, by simp⟩
  unfold Ctx.land
  rw [Ctx.setDst_undo]
  simp only [hk, hp, hin, if_true]
  exact List.mem_map.mpr ⟨_, hm, by simp⟩

end

/-! ### Several writes of one cycle -/

/-- The writes of a cycle in the order in which they land: flags and hints last (R151). -/
def landOrder (ws : List PendWrite) : List PendWrite := ws.filter (fun w => !w.dst.late) ++ ws.filter (fun w => w.dst.late)

theorem mem_landOrder {ws : List PendWrite} {w : PendWrite} : w ∈ landOrder ws ↔ w ∈ ws := by
  cases h : w.dst.late <;> simp [landOrder, h]

theorem landOrder_single (w : PendWrite) : landOrder [w] = [w] := by
  cases h : w.dst.late <;> simp [landOrder, h]

/-- What no flag and no hint meets stays in the order of sending. -/
theorem filter_landOrder {hit : PendWrite → Bool} (h : ∀ w, hit w = true → w.dst.late = false) (ws : List PendWrite) :
    (landOrder ws).filter hit = ws.filter hit := by
  have hlate : (ws.filter (fun w => w.dst.late)).filter hit = [] := by
    simp only [List.filter_eq_nil_iff, List.mem_filter, and_imp]
    intro w _ hl hw
    simp [h w hw] at hl
  have hearly : (ws.filter (fun w => !w.dst.late)).filter hit = ws.filter hit := by
    rw [List.filter_filter]
    refine List.filter_congr fun w _ => ?_
    cases hw : hit w with
    | false => rfl
    | true => simp [h w hw]
  rw [landOrder, List.filter_append, hlate, hearly, List.append_nil]

theorem Ctx.landAll_eq (x : Ctx) (now : Nat) : x.landAll now =
    (landOrder (x.inFlight.filter (fun w => decide (w.due ≤ now)))).foldl Ctx.land
      { x with inFlight := x.inFlight.filter (fun w => decide (now < w.due)) } := by
  simp [Ctx.landAll, landOrder, List.foldl_append]

/-- A view that each write either sets or leaves shows at the end what the last write that sets it has set. -/
theorem foldl_last {β : Type} {view : Ctx → β} {hit : PendWrite → Bool} {val : PendWrite → β} {ws : List PendWrite}
    (hstep : ∀ x, ∀ w ∈ ws, view (x.land w) = if hit w then val w else view x) (x : Ctx) :
    view (ws.foldl Ctx.land x) = ((ws.filter hit).getLast?.map val).getD (view x) := by
  induction ws using List.reverseRecOn with
  | nil => rfl
  | append_singleton ws w ih =>
    have ih := ih fun x w' hw' => hstep x w' (by simp [hw'])
    rw [List.foldl_append, List.foldl_cons, List.foldl_nil, hstep _ w (by simp), List.filter_append]
    cases hw : hit w with
    | true => simp [hw]
    | false => simpa [hw] using ih

/-- The same for all writes of a cycle, where flags and hints leave the view. -/
theorem Ctx.landAll_last {β : Type} {view : Ctx → β} {hit : PendWrite → Bool} {val : PendWrite → β} (x : Ctx) (now : Nat)
    (hfly : view { x with inFlight := x.inFlight.filter (fun w => decide (now < w.due)) } = view x)
    (hlate : ∀ w, hit w = true → w.dst.late = false)
    (hstep : ∀ x', ∀ w ∈ x.inFlight.filter (fun w => decide (w.due ≤ now)), view (x'.land w) = if hit w then val w else view x') :
    view (x.landAll now) =
      (((x.inFlight.filter (fun w => decide (w.due ≤ now))).filter hit).getLast?.map val).getD (view x) := by
  rw [Ctx.landAll_eq, foldl_last (fun x' w hw => hstep x' w (mem_landOrder.mp hw)), filter_landOrder hlate, hfly]

theorem Ctx.landAll_inFlight (x : Ctx) (now : Nat) : (x.landAll now).inFlight = x.inFlight.filter (fun w => decide (now < w.due)) := by
  rw [Ctx.landAll_eq]
  exact List.foldlRecOn (motive := fun y : Ctx => y.inFlight = _) _ Ctx.land rfl fun y hy w _ => (Ctx.land_inFlight y w).trans hy

/-- VSTAT after writes that are all flags or hints. -/
theorem Ctx.foldl_land_flags {ws : List PendWrite} (h : ∀ w ∈ ws, w.dst.late = true) (x : Ctx) :
    (ws.foldl Ctx.land x).vstat = x.vstat ||| flagsIn ws := by
  induction ws generalizing x with
  | nil => simp [flagsIn]
  | cons w ws ih =>
    have hcr : w.dst ≠ .cr 0x024 := fun he => by simpa [he, Dst.late] using h w (by simp)
    rw [List.foldl_cons, ih fun v hv => h v (by simp [hv]), Ctx.land_vstat, if_neg hcr]
    split <;> rename_i hf <;> simp [flagsIn, hf, BitVec.or_assoc]

theorem flagsIn_late (ws : List PendWrite) : flagsIn (ws.filter (fun w => w.dst.late)) = flagsIn ws := by
  induction ws with
  | nil => rfl
  | cons w ws ih =>
    rw [List.filter_cons]
    cases hl : w.dst.late with
    | true => simp only [flagsIn, if_true, List.foldr_cons] at ih ⊢; rw [ih]
    | false =>
      have hf : w.dst ≠ .flags := fun he => by simp [he, Dst.late] at hl
      simp only [flagsIn, Bool.false_eq_true, if_false, List.foldr_cons, hf] at ih ⊢
      rw [ih, BitVec.zero_or]

/-- VSTAT takes the last value written, then the flags (R151). -/
theorem Ctx.landAll_vstat (x : Ctx) (now : Nat) :
    (x.landAll now).vstat =
      ((((x.inFlight.filter (fun w => decide (w.due ≤ now))).filter (fun w => decide (w.dst = .cr 0x024))).getLast?.map
        (fun w => BitVec.ofNat 5 w.val)).getD x.vstat) ||| flagsIn (x.inFlight.filter (fun w => decide (w.due ≤ now))) := by
  generalize hdue : x.inFlight.filter (fun w => decide (w.due ≤ now)) = due
  have hstep : ∀ x' : Ctx, ∀ w ∈ due.filter (fun w => !w.dst.late),
      (x'.land w).vstat = if decide (w.dst = .cr 0x024) then BitVec.ofNat 5 w.val else x'.vstat := by
    intro x' w hw
    have hf : w.dst ≠ .flags := fun he => by simp [he, Dst.late] at hw
    simp [Ctx.land_vstat, hf]
  have hearly : ((due.filter (fun w => !w.dst.late)).filter (fun w => decide (w.dst = .cr 0x024)))
      = due.filter (fun w => decide (w.dst = .cr 0x024)) := by
    rw [List.filter_filter]
    refine List.filter_congr fun w _ => ?_
    by_cases hw : w.dst = .cr 0x024 <;> simp [hw, Dst.late]
  rw [Ctx.landAll_eq, hdue, landOrder, List.foldl_append, Ctx.foldl_land_flags (by simp), foldl_last (view := Ctx.vstat) hstep,
    flagsIn_late, hearly]

/-! ### The step -/

theorem exec_registerWriteLands (s : State) (c : Nat) :
    exec (.registerWriteLands c) s = .next (s.setCtx c ((s.ctx c).landAll s.cycle)) := rfl

/-- One write is due: it lands in its register alone. -/
theorem registerWriteLands_one (s : State) (c : Nat) (w : PendWrite) :
    let x := s.ctx c
    x.inFlight.filter (fun p => decide (p.due ≤ s.cycle)) = [w] → (∀ n d, w.dst = .v n d ∨ w.dst = .k n d → d < 8) →
    ∃ t, exec (.registerWriteLands c) s = .next t ∧
      let y := t.ctx c
      t = s.setCtx c y ∧ y.inFlight = x.inFlight.filter (fun p => decide (s.cycle < p.due)) ∧ y.pc = x.pc ∧ y.wait = x.wait ∧
      (∀ n, 0 < n → y.rs n = if w.dst = .s n then BitVec.ofNat 64 w.val else x.rs n) ∧
      (∀ n, 0 < n → n < 8 → y.rq n = if w.dst = .q n then w.val == 1 else x.rq n) ∧
      (∀ n d, d < 8 → ∀ j < 2048, (y.rv n d).getLsbD j =
        if w.dst = .v n d ∧ w.mask.testBit j = true then w.val.testBit j else (x.rv n d).getLsbD j) ∧
      (∀ n d, 0 < n → d < 8 → ∀ j < 256, (y.rk n d).getLsbD j =
        if w.dst = .k n d ∧ w.mask.testBit j = true then w.val.testBit j else (x.rk n d).getLsbD j) ∧
      (w.dst = .flags → y.vstat = x.vstat ||| BitVec.ofNat 5 w.val) ∧
      (∀ n, w.dst = .cr n → y = ({ x with undo := y.undo, inFlight := y.inFlight } : Ctx).setCr n w.val) ∧
      ∀ key, w.dst.key = some key → w.post = true → ⟨key, none⟩ ∈ x.undo → ⟨key, some (x.keyVal key)⟩ ∈ y.undo := by
  intro x hdue hd
  let z : Ctx := { x with inFlight := x.inFlight.filter (fun p => decide (s.cycle < p.due)) }
  have hland : x.landAll s.cycle = z.land w := by
    rw [Ctx.landAll_eq, hdue, landOrder_single, List.foldl_cons, List.foldl_nil]
  refine ⟨_, exec_registerWriteLands s c, ?_⟩
  simp only [State.ctx_setCtx]
  rw [hland]
  refine ⟨trivial, Ctx.land_inFlight z w, Ctx.land_pc z w, Ctx.land_wait z w, fun n hn => Ctx.land_rs_eq z w hn,
    fun n hn h8 => Ctx.land_rq_eq z w hn h8, fun n d h8 j hj => Ctx.land_rv_bit z w h8 hj fun m c h => hd m c (.inl h),
    fun n d hn h8 j hj => Ctx.land_rk_bit z w hn h8 hj fun m c h => hd m c (.inr h), fun hf => ?_, fun n hcr => ?_,
    fun key hk hp hm => ?_⟩
  · rw [Ctx.land_vstat, if_neg (by simp [hf]), if_pos hf]
  · rw [Ctx.land_inFlight]
    conv_lhs => rw [Ctx.land_eq_setDst, hcr]
    rfl
  · have hkey : x.keyVal key = z.keyVal key := by cases key <;> rfl
    rw [hkey]
    exact Ctx.land_undo z w hk hp hm

/-- Several writes are due: the one sent last stands, per register and per bit. -/
theorem registerWriteLands_last (s : State) (c : Nat) :
    let x := s.ctx c
    let due := x.inFlight.filter (fun p => decide (p.due ≤ s.cycle))
    let last := fun (d : Dst) => (due.filter (fun p => decide (p.dst = d))).getLast?
    let lastBit := fun (d : Dst) (j : Nat) => (due.filter (fun p => decide (p.dst = d) && p.mask.testBit j)).getLast?
    (∀ w ∈ due, ∀ n d, w.dst = .v n d ∨ w.dst = .k n d → d < 8) →
    ∃ t, exec (.registerWriteLands c) s = .next t ∧
      let y := t.ctx c
      t = s.setCtx c y ∧ y.inFlight = x.inFlight.filter (fun p => decide (s.cycle < p.due)) ∧
      (∀ n, 0 < n → y.rs n = ((last (.s n)).map (fun w => BitVec.ofNat 64 w.val)).getD (x.rs n)) ∧
      (∀ n, 0 < n → n < 8 → y.rq n = ((last (.q n)).map (fun w => w.val == 1)).getD (x.rq n)) ∧
      (∀ n d, d < 8 → ∀ j < 2048, (y.rv n d).getLsbD j =
        ((lastBit (.v n d) j).map (fun w => w.val.testBit j)).getD ((x.rv n d).getLsbD j)) ∧
      (∀ n d, 0 < n → d < 8 → ∀ j < 256, (y.rk n d).getLsbD j =
        ((lastBit (.k n d) j).map (fun w => w.val.testBit j)).getD ((x.rk n d).getLsbD j)) ∧
      y.vstat = ((last (.cr 0x024)).map (fun w => BitVec.ofNat 5 w.val)).getD x.vstat ||| flagsIn due := by
  intro x due last lastBit hd
  refine ⟨_, exec_registerWriteLands s c, ?_⟩
  simp only [State.ctx_setCtx]
  refine ⟨trivial, Ctx.landAll_inFlight x s.cycle, fun n hn => ?_, fun n hn h8 => ?_, fun n d h8 j hj => ?_, fun n d hn h8 j hj => ?_,
    Ctx.landAll_vstat x s.cycle⟩
  · exact Ctx.landAll_last (view := fun y => y.rs n) x s.cycle rfl (fun w hw => by simp_all [Dst.late]) fun x' w _ => by
      simp [Ctx.land_rs_eq x' w hn]
  · exact Ctx.landAll_last (view := fun y => y.rq n) x s.cycle rfl (fun w hw => by simp_all [Dst.late]) fun x' w _ => by
      simp [Ctx.land_rq_eq x' w hn h8]
  · refine Ctx.landAll_last (view := fun y => (y.rv n d).getLsbD j) x s.cycle rfl (fun w hw => ?_) fun x' w hw => ?_
    · simp only [Bool.and_eq_true, decide_eq_true_eq] at hw
      simp [hw.1, Dst.late]
    · simp [Ctx.land_rv_bit x' w h8 hj fun m c h => hd w hw m c (.inl h)]
  · refine Ctx.landAll_last (view := fun y => (y.rk n d).getLsbD j) x s.cycle rfl (fun w hw => ?_) fun x' w hw => ?_
    · simp only [Bool.and_eq_true, decide_eq_true_eq] at hw
      simp [hw.1, Dst.late]
    · simp [Ctx.land_rk_bit x' w hn h8 hj fun m c h => hd w hw m c (.inr h)]

end Sys2Proof.Machine

/-! SUPPORT. The elements that a matrix operation leaves (R156 to R166): group sums, rows of elements, their bounds and flags. -/

namespace Sys2Proof.Machine

/-! ### Two's complement words (R10) -/

theorem sextN_emod (x : Nat) : sextN 32 x % 2 ^ 32 = x % 2 ^ 32 := by
  unfold sextN
  split <;> push_cast <;> omega

theorem truncI_lt (y : Int) : truncI 32 y < 2 ^ 32 := by
  unfold truncI
  push_cast
  omega

theorem truncI_congr {y z : Int} (h : y % 2 ^ 32 = z % 2 ^ 32) : truncI 32 y = truncI 32 z := by
  unfold truncI
  push_cast
  omega

theorem truncI_emod (y : Int) : (truncI 32 y : Int) % 2 ^ 32 = y % 2 ^ 32 := by
  unfold truncI
  push_cast
  omega

/-- A sum that wraps on its way wraps to the same word. -/
theorem truncI_sextN_add (y z : Int) : truncI 32 (sextN 32 (truncI 32 y) + z) = truncI 32 (y + z) := by
  have h := sextN_emod (truncI 32 y)
  rw [truncI_emod] at h
  exact truncI_congr (by omega)

/-! ### Groups -/

theorem groupsOf_fuel {α : Type} {g : Nat} (hg : 0 < g) {n m : Nat} {xs : List α} (hn : xs.length ≤ n) (hm : xs.length ≤ m) :
    groupsOf g n xs = groupsOf g m xs := by
  induction n generalizing m xs with
  | zero =>
    obtain rfl := List.length_eq_zero_iff.mp (Nat.le_zero.mp hn)
    cases m <;> rfl
  | succ n ih =>
    cases m with
    | zero =>
      obtain rfl := List.length_eq_zero_iff.mp (Nat.le_zero.mp hm)
      rfl
    | succ m =>
      have hd := List.length_drop (i := g) (l := xs)
      simp only [groupsOf]
      rw [ih (m := m) (by omega) (by omega)]

/-- The first group and the groups of what follows. -/
theorem groupsOf_cons {α : Type} {g : Nat} (hg : 0 < g) {xs : List α} (h : xs ≠ []) :
    groupsOf g xs.length xs = xs.take g :: groupsOf g (xs.drop g).length (xs.drop g) := by
  cases xs with
  | nil => exact absurd rfl h
  | cons x xs =>
    rw [List.length_cons, groupsOf, if_neg (by simp)]
    congr 1
    exact groupsOf_fuel hg (by simp only [List.length_drop, List.length_cons]; omega) le_rfl

theorem groupsOf_single {α : Type} {g : Nat} (hg : 0 < g) {xs : List α} (h : xs ≠ []) (hl : xs.length ≤ g) :
    groupsOf g xs.length xs = [xs] := by
  rw [groupsOf_cons hg h, List.take_of_length_le hl, List.drop_of_length_le hl]
  rfl

/-- A list may be split where a group ends. -/
theorem groupsOf_append {α : Type} {g : Nat} (hg : 0 < g) {j : Nat} {xs : List α} (ys : List α) (h : xs.length = g * j) :
    groupsOf g (xs ++ ys).length (xs ++ ys) = groupsOf g xs.length xs ++ groupsOf g ys.length ys := by
  induction j generalizing xs with
  | zero =>
    obtain rfl := List.length_eq_zero_iff.mp (by simpa using h)
    rfl
  | succ j ih =>
    have hl : g ≤ xs.length := by rw [h]; exact Nat.le_mul_of_pos_right g (Nat.succ_pos j)
    have hne : xs ≠ [] := List.ne_nil_of_length_pos (by omega)
    rw [groupsOf_cons hg hne, groupsOf_cons hg (by simp [hne]), List.take_append_of_le_length hl, List.drop_append_of_le_length hl,
      ih (by rw [List.length_drop, h, Nat.mul_succ]; omega)]
    rfl

/-! ### One element -/

/-- The products of an element's activations and weights (R157). -/
def products (a : List XVal) (w : List (Option XVal)) : List (XVal × Flags) := (a.zip w).map (fun p => mprod p.1 p.2)

/-- The integer product of a position under profile 3; a pruned one adds nothing. -/
def intProduct (p : XVal × Option XVal) : Int := (p.2.map (fun w => xint p.1 * xint w)).getD 0

/-- A group added into an element (R160). -/
def addGroup (prof acc : Nat) (ps : List (XVal × Flags)) : Nat × Flags :=
  if prof = 2 then addTree acc ps else addExact acc (exactGroup ps)

/-- The elements of a group. -/
def groupSize (prof : Nat) : Nat := if prof = 0 then 32 else 128

theorem groupSize_pos (prof : Nat) : 0 < groupSize prof := by unfold groupSize; split <;> decide

/-- Group after group is added, and their flags are gathered. -/
def addGroups (prof : Nat) (gs : List (List (XVal × Flags))) (a : Nat × Flags) : Nat × Flags :=
  gs.foldl (fun a ps => ((addGroup prof a.1 ps).1, a.2 ||| (addGroup prof a.1 ps).2)) a

theorem foldl_eq_sum {α : Type} {f : Int → α → Int} {g : α → Int} (h : ∀ t p, f t p = t + g p) (xs : List α) (t : Int) :
    xs.foldl f t = t + (xs.map g).sum := by
  induction xs generalizing t with
  | nil => simp
  | cons x xs ih => rw [List.foldl_cons, h, ih, List.map_cons, List.sum_cons, add_assoc]

theorem outElem_int (acc : Nat) (a : List XVal) (w : List (Option XVal)) :
    outElem 3 acc a w = (truncI 32 (sextN 32 acc + ((a.zip w).map intProduct).sum), 0#5) := by
  unfold outElem
  rw [if_pos rfl, foldl_eq_sum (g := intProduct), zero_add]
  rintro t ⟨x, _ | y⟩ <;> simp [intProduct]

theorem outElem_float {prof : Nat} (h : prof ≠ 3) (acc : Nat) (a : List XVal) (w : List (Option XVal)) :
    outElem prof acc a w =
      let r := addGroups prof (groupsOf (groupSize prof) (products a w).length (products a w)) (acc, 0#5)
      (r.1, r.2 &&& fAcc) := by
  unfold outElem
  rw [if_neg h]
  rfl

theorem addGroups_fst (prof : Nat) (gs : List (List (XVal × Flags))) (a : Nat × Flags) :
    (addGroups prof gs a).1 = gs.foldl (fun acc ps => (addGroup prof acc ps).1) a.1 := by
  induction gs generalizing a with
  | nil => rfl
  | cons ps gs ih => exact ih _

/-- A float element is its groups added in order. -/
theorem outElem_float_fst {prof : Nat} (h : prof ≠ 3) (acc : Nat) (a : List XVal) (w : List (Option XVal)) :
    (outElem prof acc a w).1 =
      (groupsOf (groupSize prof) (products a w).length (products a w)).foldl (fun acc ps => (addGroup prof acc ps).1) acc := by
  rw [outElem_float h]
  exact addGroups_fst _ _ _

theorem outElem_oneGroup {prof : Nat} (h : prof ≠ 3) (acc : Nat) {a : List XVal} {w : List (Option XVal)} (hne : products a w ≠ [])
    (hl : (products a w).length ≤ groupSize prof) : (outElem prof acc a w).1 = (addGroup prof acc (products a w)).1 := by
  rw [outElem_float_fst h, groupsOf_single (groupSize_pos prof) hne hl]
  rfl

/-! ### Elements stay within 32 bits -/

theorem infBits_lt (n : Bool) : infBits F32 n < 2 ^ 32 := by cases n <;> decide

theorem roundArith_lt (x : XVal) : (roundArith F32 x).1 < 2 ^ 32 := by
  unfold roundArith
  cases x with
  | nan b => exact (by decide : canonNan F32 < 2 ^ 32)
  | inf n => exact infBits_lt n
  | fin n m e =>
    dsimp only
    split
    · cases n <;> decide
    · split
      · exact infBits_lt n
      · rename_i hmax
        have hn := n.toNat_lt
        have hm : maxMag F32 < 2 ^ 31 := by decide
        simp only [withSign, F32] at hm hmax ⊢
        omega

theorem addGroup_lt {prof acc : Nat} (h : acc < 2 ^ 32) (ps : List (XVal × Flags)) : (addGroup prof acc ps).1 < 2 ^ 32 := by
  unfold addGroup
  split
  · exact roundArith_lt _
  · unfold addExact
    split
    · exact roundArith_lt _
    · exact h

theorem outElem_lt {prof acc : Nat} (h : acc < 2 ^ 32) (a : List XVal) (w : List (Option XVal)) : (outElem prof acc a w).1 < 2 ^ 32 := by
  by_cases hp : prof = 3
  · subst hp
    rw [outElem_int]
    exact truncI_lt _
  · rw [outElem_float_fst hp]
    exact List.foldlRecOn (motive := fun acc => acc < 2 ^ 32) _ _ h fun acc hacc ps _ => addGroup_lt hacc ps

/-! ### Flags (R163) -/

theorem or_fAcc {f g : Flags} (hf : f &&& fAcc = f) (hg : g &&& fAcc = g) : (f ||| g) &&& fAcc = f ||| g := by
  have h : (f ||| g) &&& fAcc = (f &&& fAcc) ||| (g &&& fAcc) := by
    ext i
    simp [Bool.and_or_distrib_right]
  rw [h, hf, hg]

theorem outElem_fAcc (prof acc : Nat) (a : List XVal) (w : List (Option XVal)) :
    (outElem prof acc a w).2 &&& fAcc = (outElem prof acc a w).2 := by
  by_cases hp : prof = 3
  · subst hp
    rw [outElem_int]
    exact BitVec.zero_and
  · simp [outElem_float hp, BitVec.and_assoc]

/-! ### Rows -/

theorem elem_lt (v i : Nat) : elem v 32 i < 2 ^ 32 := Nat.mod_lt _ (by decide)

theorem elem_head {a : Nat} (h : a < 2 ^ 32) (r : Nat) : elem (a + 2 ^ 32 * r) 32 0 = a := by
  unfold elem bits
  omega

theorem elem_tail {a : Nat} (h : a < 2 ^ 32) (r n : Nat) : elem (a + 2 ^ 32 * r) 32 (n + 1) = elem r 32 n := by
  have hr : (a + 2 ^ 32 * r) / 2 ^ 32 = r := by omega
  unfold elem bits
  rw [(by omega : 32 * (n + 1) = 32 + 32 * n), Nat.pow_add, ← Nat.div_div_eq_div_mul, hr]

/-- Elements packed from the lowest bit up, with their flags. -/
def packRow {α : Type} (f : α → Nat × Flags) (xs : List α) : Nat × Flags :=
  xs.foldr (fun x acc => ((f x).1 + 2 ^ 32 * acc.1, (f x).2 ||| acc.2)) (0, 0#5)

theorem elem_packRow {α : Type} {f : α → Nat × Flags} (hf : ∀ x, (f x).1 < 2 ^ 32) {xs : List α} {n : Nat} {x : α}
    (h : xs[n]? = some x) : elem (packRow f xs).1 32 n = (f x).1 := by
  induction xs generalizing n with
  | nil => simp at h
  | cons y ys ih =>
    cases n with
    | zero =>
      obtain rfl : y = x := by simpa using h
      exact elem_head (hf y) _
    | succ n => exact (elem_tail (hf y) _ n).trans (ih (by simpa using h))

theorem packRow_fAcc {α : Type} {f : α → Nat × Flags} (hf : ∀ x, (f x).2 &&& fAcc = (f x).2) (xs : List α) :
    (packRow f xs).2 &&& fAcc = (packRow f xs).2 := by
  induction xs with
  | nil => exact BitVec.zero_and
  | cons x xs ih => exact or_fAcc (hf x) ih

section
variable (prof : Nat) (aip : Bool) (old : Nat) (act : List XVal)

/-- The element of a column, from the place of the column. -/
def rowElem (p : Nat × List (Option XVal)) : Nat × Flags := outElem prof (if aip then elem old 32 p.1 else 0) act p.2

theorem outRow_eq (cols : List (List (Option XVal))) :
    outRow prof aip old act cols = packRow (rowElem prof aip old act) ((List.range 128).zip cols) := rfl

theorem outRow_elem {cols : List (List (Option XVal))} (h : cols.length = 128) {n : Nat} (hn : n < 128) :
    elem (outRow prof aip old act cols).1 32 n =
      (outElem prof (if aip then elem old 32 n else 0) act (cols.getD n [])).1 % 2 ^ 32 := by
  have hlt : ∀ p, (rowElem prof aip old act p).1 < 2 ^ 32 := fun p => outElem_lt (by split; exact elem_lt _ _; decide) _ _
  have hat : ((List.range 128).zip cols)[n]? = some (n, cols.getD n []) := by
    simp [hn, h]
  rw [outRow_eq, elem_packRow hlt hat, ← Nat.mod_eq_of_lt (hlt (n, cols.getD n []))]
  rfl

theorem outRow_fAcc (cols : List (List (Option XVal))) :
    (outRow prof aip old act cols).2 &&& fAcc = (outRow prof aip old act cols).2 :=
  packRow_fAcc (fun _ => outElem_fAcc _ _ _ _) _

end

/-! ### The rows of an operation -/

section
variable (op : MatOp) (old : Nat → Nat)

/-- Row `i` of an MMUL. -/
def MatOp.mmulRow (i : Nat) : Nat × Flags :=
  outRow op.prof op.aip (old i)
    (arrayVals op.gotA op.fmtA (op.sa + i * rowPitch op.fmtA (mmulK op.plane.sparse op.bands)) (mmulK op.plane.sparse op.bands)
      (mmulK op.plane.sparse op.bands)) (op.plane.columns op.bands)

/-- The bands that an MVEC streams. -/
def MatOp.vecBands : List Band :=
  (List.range op.rows).map (fun j => bandFrom op.gotW op.gotR op.fmtW (op.sa + j * bandImage op.fmtW) 0 false)

/-- The columns of an MVEC. -/
def MatOp.vecColumns : List (List (Option XVal)) :=
  (List.range 128).map (fun n => (op.vecBands.flatMap (fun b => b.column op.fmtW false n)).take op.k)

/-- The row of an MVEC. -/
def MatOp.mvecRow : Nat × Flags :=
  outRow op.prof op.aip (old op.row) (arrayVals op.gotA op.fmtA op.sb op.k (32 * op.rows)) op.vecColumns

variable {op}

theorem MatOp.result_mmul (h : op.kind = .mmul) : op.result old =
    (((List.range op.rows).map (fun i => (i, op.mmulRow old i))).map (fun r => (r.1, r.2.1)),
      ((List.range op.rows).map (fun i => (i, op.mmulRow old i))).foldl (fun f r => f ||| r.2.2) 0#5) := by
  unfold MatOp.result
  rw [h]
  rfl

theorem MatOp.result_mvec (h : op.kind = .mvec) : op.result old = ([(op.row, (op.mvecRow old).1)], (op.mvecRow old).2) := by
  unfold MatOp.result
  rw [h]
  rfl

theorem MatOp.result_mzero (h : op.kind = .mzero) : op.result old = ((quarterRows (BitVec.ofNat 4 op.k)).map (fun r => (r, 0)), 0#5) := by
  unfold MatOp.result
  rw [h]

theorem MatOp.result_empty (h : op.kind = .mldw ∨ op.kind = .drain) : op.result old = ([], 0#5) := by
  unfold MatOp.result
  obtain h | h := h <;> rw [h]

theorem MatOp.mmulRow_elem (i : Nat) {n : Nat} (hn : n < 128) :
    elem (op.mmulRow old i).1 32 n =
      (outElem op.prof (if op.aip then elem (old i) 32 n else 0)
        (arrayVals op.gotA op.fmtA (op.sa + i * rowPitch op.fmtA (mmulK op.plane.sparse op.bands)) (mmulK op.plane.sparse op.bands)
          (mmulK op.plane.sparse op.bands)) ((op.plane.columns op.bands).getD n [])).1 % 2 ^ 32 :=
  outRow_elem _ _ _ _ (by simp [Plane.columns]) hn

theorem MatOp.mvecRow_elem {n : Nat} (hn : n < 128) :
    elem (op.mvecRow old).1 32 n =
      (outElem op.prof (if op.aip then elem (old op.row) 32 n else 0) (arrayVals op.gotA op.fmtA op.sb op.k (32 * op.rows))
        ((op.vecBands.flatMap (fun b => b.column op.fmtW false n)).take op.k)).1 % 2 ^ 32 := by
  have hcol : op.vecColumns.getD n [] = (op.vecBands.flatMap (fun b => b.column op.fmtW false n)).take op.k := by
    simp [MatOp.vecColumns, hn]
  rw [← hcol]
  exact outRow_elem _ _ _ _ (by simp [MatOp.vecColumns]) hn

theorem MatOp.result_fAcc : (op.result old).2 &&& fAcc = (op.result old).2 := by
  cases hk : op.kind with
  | mmul =>
    rw [MatOp.result_mmul old hk]
    refine List.foldlRecOn (motive := fun f : Flags => f &&& fAcc = f) _ _ BitVec.zero_and fun f hf r hr => or_fAcc hf ?_
    obtain ⟨i, -, rfl⟩ := List.mem_map.mp hr
    exact outRow_fAcc _ _ _ _ _
  | mvec =>
    rw [MatOp.result_mvec old hk]
    exact outRow_fAcc _ _ _ _ _
  | mzero =>
    rw [MatOp.result_mzero old hk]
    exact BitVec.zero_and
  | mldw | drain =>
    rw [MatOp.result_empty old (by simp [hk])]
    exact BitVec.zero_and

end

/-! ### Chains, and pruned weights -/

theorem products_append {a a' : List XVal} {w w' : List (Option XVal)} (h : a.length = w.length) :
    products (a ++ a') (w ++ w') = products a w ++ products a' w' := by
  rw [products, List.zip_append h, List.map_append]
  rfl

/-- A chain may be split where a group ends (R161). -/
theorem outElem_append {prof acc j : Nat} {a a' : List XVal} {w w' : List (Option XVal)} (ha : a.length = groupSize prof * j)
    (hw : w.length = a.length) :
    (outElem prof acc (a ++ a') (w ++ w')).1 = (outElem prof (outElem prof acc a w).1 a' w').1 := by
  by_cases hp : prof = 3
  · subst hp
    rw [outElem_int, outElem_int, outElem_int, List.zip_append hw.symm, List.map_append, List.sum_append]
    simp only [truncI_sextN_add, add_assoc]
  · have hlen : (products a w).length = groupSize prof * j := by simp [products, hw, ha]
    rw [outElem_float_fst hp, outElem_float_fst hp, outElem_float_fst hp, products_append hw.symm,
      groupsOf_append (groupSize_pos prof) _ hlen, List.foldl_append]

/-- Two lists of pairs that differ in one place, where a function does not tell them apart. -/
theorem map_zip_set {α β γ : Type} {f : α × β → γ} {x : α} {y z : β} (hf : f (x, y) = f (x, z)) {i : Nat} {a : List α}
    {w : List β} (ha : a[i]? = some x) (hw : w[i]? = some y) : (a.zip (w.set i z)).map f = (a.zip w).map f := by
  induction a generalizing i w with
  | nil => rfl
  | cons u a ih =>
    cases w with
    | nil => rfl
    | cons v w =>
      cases i with
      | zero =>
        obtain rfl : u = x := by simpa using ha
        obtain rfl : v = y := by simpa using hw
        simp [hf]
      | succ i => simpa using ih (by simpa using ha) (by simpa using hw)

/-- A pruned weight counts as zero under a finite activation (R166). -/
theorem outElem_pruned (prof acc : Nat) {i m : Nat} {n : Bool} {e : Int} {a : List XVal} {w : List (Option XVal)}
    (ha : a[i]? = some (.fin n m e)) (hw : w[i]? = some none) :
    outElem prof acc a w = outElem prof acc a (w.set i (some XVal.zero)) := by
  have hints : (a.zip (w.set i (some XVal.zero))).map intProduct = (a.zip w).map intProduct :=
    map_zip_set (by simp [intProduct, xint, XVal.zero]) ha hw
  have hprods : products a (w.set i (some XVal.zero)) = products a w :=
    map_zip_set (y := none) (z := some XVal.zero) (f := fun p => mprod p.1 p.2) rfl ha hw
  by_cases hp : prof = 3
  · subst hp
    rw [outElem_int, outElem_int, hints]
  · rw [outElem_float hp, outElem_float hp, hprods]

/-! ### One group -/

theorem products_some (a w : List XVal) : products a (w.map some) = (a.zip w).map (fun p => xmul p.1 p.2) := by
  rw [products, List.zip_map_right, List.map_map]
  rfl

theorem exactGroup_fst (ps : List (XVal × Flags)) : (exactGroup ps).1 = (ps.map (·.1)).foldl SumAcc.add .start := by
  unfold exactGroup
  rw [List.foldl_map]
  exact (List.foldl_hom Prod.fst (fun _ _ => rfl)).symm

section
variable (s : SumAcc) {ps : List XVal}

/-- Finite addends change the sum alone. -/
theorem SumAcc.foldl_finite (h : ∀ p ∈ ps, ∃ n m e, p = .fin n m e) :
    ps.foldl SumAcc.add s = { s with sum := ps.foldl (fun s p => (xadd s p).1) s.sum } := by
  induction ps generalizing s with
  | nil => rfl
  | cons p ps ih =>
    obtain ⟨n, m, e, rfl⟩ := h p (by simp)
    rw [List.foldl_cons, ih _ fun q hq => h q (by simp [hq])]
    rfl

/-- A mark that each turn of a loop sets for some elements, and never clears. -/
theorem foldl_any {σ α : Type} {f : σ → α → σ} {hit : σ → Bool} {p : α → Bool} (h : ∀ s x, hit (f s x) = (hit s || p x))
    (xs : List α) (s : σ) : hit (xs.foldl f s) = (hit s || xs.any p) := by
  induction xs generalizing s with
  | nil => simp
  | cons x xs ih => rw [List.foldl_cons, ih, h, List.any_cons, Bool.or_assoc]

theorem SumAcc.foldl_nan (ps : List XVal) : (ps.foldl SumAcc.add s).nan = (s.nan || ps.any XVal.isNan) :=
  foldl_any (hit := SumAcc.nan) (fun s x => by
    rcases x with b | b | _
    · simp [SumAcc.add, XVal.isNan]
    · cases b <;> simp [SumAcc.add, XVal.isNan]
    · simp [SumAcc.add, XVal.isNan]) ps s

theorem SumAcc.foldl_pinf (ps : List XVal) : (ps.foldl SumAcc.add s).pinf = (s.pinf || ps.any (· == .inf false)) :=
  foldl_any (hit := SumAcc.pinf) (fun s x => by
    rcases x with b | b | _
    · simp [SumAcc.add]
    · cases b <;> simp [SumAcc.add]
    · simp [SumAcc.add]) ps s

theorem SumAcc.foldl_ninf (ps : List XVal) : (ps.foldl SumAcc.add s).ninf = (s.ninf || ps.any (· == .inf true)) :=
  foldl_any (hit := SumAcc.ninf) (fun s x => by
    rcases x with b | b | _
    · simp [SumAcc.add]
    · cases b <;> simp [SumAcc.add]
    · simp [SumAcc.add]) ps s

end

theorem xadd_nan (a : XVal) (b : Bool) : (xadd a (.nan b)).1 = .nan false := by cases a <;> rfl

/-- A sum that is not a number makes the element the canonical NaN (R162). -/
theorem addExact_nan {acc : Nat} {g : SumAcc × Flags} (h : g.1.nan = true ∨ g.1.pinf = true ∧ g.1.ninf = true) :
    (addExact acc g).1 = 0x7FC00000 := by
  have hv : g.1.value.1 = .nan false := by
    unfold SumAcc.value
    rw [if_pos (by simpa using h)]
  unfold addExact
  rw [if_pos (by obtain h | ⟨h, -⟩ := h <;> simp [h])]
  simp only [hv, xadd_nan]
  decide

/-- A finite group is added exact and rounded once (R160). -/
theorem addExact_finite {acc : Nat} {g : SumAcc × Flags} (hn : g.1.nan = false) (hp : g.1.pinf = false) (hm : g.1.ninf = false) :
    (addExact acc g).1 = if g.1.sum.isZero then acc else (roundArith F32 (xadd (decodeFloat F32 acc) g.1.sum).1).1 := by
  have hv : g.1.value.1 = g.1.sum := by simp [SumAcc.value, hn, hp, hm]
  unfold addExact
  cases hz : g.1.sum.isZero with
  | true => simp [hn, hp, hm]
  | false => simp [hv]

theorem addTree_fst (acc : Nat) (ps : List (XVal × Flags)) : (addTree acc ps).1 =
    (roundArith F32 (xadd (decodeFloat F32 acc) (decodeFloat F32 (treeSum F32 7
      ((ps.map (·.1)).map (fun p => (roundArith F32 p).1) ++ List.replicate (128 - ps.length) 0)).1)).1).1 := by
  simp [addTree, addRound, Function.comp_def]

/-- An element of one group, by profile (R157 to R162). -/
theorem outElem_group (prof acc : Nat) {a w : List XVal} (hl : a.length = w.length) (hne : a ≠ []) :
    let ps := (a.zip w).map (fun p => (xmul p.1 p.2).1)
    let res := (outElem prof acc a (w.map some)).1
    let sum := ps.foldl (fun s p => (xadd s p).1) (.fin true 0 0)
    (prof = 3 → res = truncI 32 (sextN 32 acc + ((a.zip w).map (fun p => xint p.1 * xint p.2)).sum)) ∧
    (prof ≤ 1 → a.length ≤ (if prof = 0 then 32 else 128) →
      ((∀ p ∈ ps, ∃ n m e, p = .fin n m e) →
        res = if sum.isZero then acc else (roundArith F32 (xadd (decodeFloat F32 acc) sum).1).1) ∧
      ((∃ p ∈ ps, p.isNan = true) → res = 0x7FC00000) ∧ (.inf false ∈ ps → .inf true ∈ ps → res = 0x7FC00000)) ∧
    (prof = 2 → a.length ≤ 128 →
      let ts := ps.map (fun p => (roundArith F32 p).1) ++ List.replicate (128 - a.length) 0
      res = (roundArith F32 (xadd (decodeFloat F32 acc) (decodeFloat F32 (treeSum F32 7 ts).1)).1).1) := by
  intro ps res sum
  have hlen : (products a (w.map some)).length = a.length := by simp [products, hl]
  have hpne : products a (w.map some) ≠ [] := List.ne_nil_of_length_pos (by rw [hlen]; exact List.length_pos_iff.mpr hne)
  have hps : (products a (w.map some)).map (·.1) = ps := by
    rw [products_some, List.map_map]
    rfl
  have hone : prof ≠ 3 → a.length ≤ groupSize prof → res = (addGroup prof acc (products a (w.map some))).1 := fun h3 hle =>
    outElem_oneGroup h3 acc hpne (hlen ▸ hle)
  refine ⟨fun h3 => ?_, fun h1 hle => ?_, fun h2 hle => ?_⟩
  · subst h3
    have hints : (a.zip (w.map some)).map intProduct = (a.zip w).map (fun p => xint p.1 * xint p.2) := by
      rw [List.zip_map_right, List.map_map]
      rfl
    simp only [res, outElem_int, hints]
  · rw [hone (by omega) hle, addGroup, if_neg (by omega)]
    have hg : (exactGroup (products a (w.map some))).1 = ps.foldl SumAcc.add .start := by rw [exactGroup_fst, hps]
    refine ⟨fun hfin => ?_, fun ⟨p, hp, hn⟩ => ?_, fun hpi hni => ?_⟩
    · have hsum := hg.trans (SumAcc.foldl_finite .start hfin)
      rw [addExact_finite (by rw [hsum]; rfl) (by rw [hsum]; rfl) (by rw [hsum]; rfl), hsum]
      rfl
    · refine addExact_nan (.inl ?_)
      rw [hg, SumAcc.foldl_nan, List.any_eq_true.mpr ⟨p, hp, hn⟩, Bool.or_true]
    · refine addExact_nan (.inr ⟨?_, ?_⟩)
      · rw [hg, SumAcc.foldl_pinf, List.any_eq_true.mpr ⟨_, hpi, by simp⟩, Bool.or_true]
      · rw [hg, SumAcc.foldl_ninf, List.any_eq_true.mpr ⟨_, hni, by simp⟩, Bool.or_true]
  · subst h2
    rw [hone (by decide) hle, addGroup, if_pos rfl, addTree_fst, hps, hlen]

/-! ### Results land (R90, R163, R238, R248) -/

theorem exec_matrixResultLands {s : State} {c : Nat} {op : MatOp} {rest : List MatOp}
    (h : (s.ctx c).dueOp s.cycle false = some (op, rest)) :
    let t := s.tile (tileOf c)
    let r := op.result (fun i => (mgetD t.acc (128 * op.acc + i) 0#4096).toNat)
    let x : Ctx := { s.ctx c with matOps := rest }
    exec (.matrixResultLands c) s = .next ((s.setTile (tileOf c)
      { t with acc := r.1.foldl (fun m p => mput m (128 * op.acc + p.1) (BitVec.ofNat 4096 p.2)) t.acc }).setCtx c
        (if r.2 = 0#5 then x else x.land ⟨s.cycle, op.post, .flags, 31, r.2.toNat⟩)) := by
  intro t r x
  change execMatrixResultLands c s = _
  unfold execMatrixResultLands
  simp only [h]
  rfl

theorem exec_mldwComplete {s : State} {c : Nat} {op : MatOp} {rest : List MatOp} (h : (s.ctx c).dueOp s.cycle true = some (op, rest)) :
    exec (.mldwComplete c) s = .next (s.setCtx c (Ctx.setPlane { s.ctx c with matOps := rest } op.planeId op.loaded)) := by
  change execMldwComplete c s = _
  unfold execMldwComplete
  simp only [h]

/-- The flags of a result in VSTAT. -/
theorem Ctx.land_result (x : Ctx) (now : Nat) (post : Bool) (f : Flags) :
    let y := if f = 0#5 then x else x.land ⟨now, post, .flags, 31, f.toNat⟩
    y.matOps = x.matOps ∧ y.s = x.s ∧ y.vstat = x.vstat ||| f := by
  intro y
  by_cases hf : f = 0#5
  · have hy : y = x := if_pos hf
    rw [hy, hf]
    exact ⟨rfl, rfl, BitVec.or_zero.symm⟩
  · have hy : y = x.land ⟨now, post, .flags, 31, f.toNat⟩ := if_neg hf
    rw [hy]
    refine ⟨rfl, rfl, ?_⟩
    rw [Ctx.land_vstat, if_neg (by simp), if_pos rfl, BitVec.ofNat_toNat, BitVec.setWidth_eq]

/-- Rows written in a tile of accumulators, each in its place. -/
theorem mgetD_foldl_rows {base : Nat} {rows : List (Nat × Nat)} (hn : (rows.map (·.1)).Nodup) (m : AMap (BitVec 4096)) :
    (∀ p ∈ rows, mgetD (rows.foldl (fun m p => mput m (base + p.1) (BitVec.ofNat 4096 p.2)) m) (base + p.1) 0#4096
      = BitVec.ofNat 4096 p.2) ∧
    ∀ k, (∀ p ∈ rows, k ≠ base + p.1) →
      mgetD (rows.foldl (fun m p => mput m (base + p.1) (BitVec.ofNat 4096 p.2)) m) k 0#4096 = mgetD m k 0#4096 := by
  refine ⟨fun p hp => ?_, fun k hk => ?_⟩
  · obtain ⟨u, -, -, h⟩ := foldl_at (I := fun _ => True) (g := fun m => mgetD m (base + p.1) 0#4096)
      (f := fun (m : AMap (BitVec 4096)) (p : Nat × Nat) => mput m (base + p.1) (BitVec.ofNat 4096 p.2)) hp hn (fun _ _ _ => trivial)
      (fun u q hq => mgetD_mput_ne _ _ _ (by omega)) (s := m) trivial
    exact h.trans (mgetD_mput_self _ _ _ _)
  · exact List.foldlRecOn (motive := fun m' => mgetD m' k 0#4096 = mgetD m k 0#4096) rows _ rfl fun m' hm p hp =>
      (mgetD_mput_ne _ _ _ (hk p hp)).trans hm

theorem matrixResultLands_lands {s : State} {c : Nat} {op : MatOp} {rest : List MatOp}
    (h : (s.ctx c).dueOp s.cycle false = some (op, rest)) :
    let x := s.ctx c
    let t0 := s.tile (tileOf c)
    let r := op.result (fun i => (mgetD t0.acc (128 * op.acc + i) 0#4096).toNat)
    (r.1.map (·.1)).Nodup →
    ∃ t, exec (.matrixResultLands c) s = .next t ∧ (t.ctx c).matOps = rest ∧ (t.ctx c).vstat = x.vstat ||| r.2 ∧
      (t.ctx c).s = x.s ∧ (t.tile (tileOf c)).sp = t0.sp ∧
      (∀ p ∈ r.1, mgetD (t.tile (tileOf c)).acc (128 * op.acc + p.1) 0#4096 = BitVec.ofNat 4096 p.2) ∧
      ∀ k, (∀ p ∈ r.1, k ≠ 128 * op.acc + p.1) → mgetD (t.tile (tileOf c)).acc k 0#4096 = mgetD t0.acc k 0#4096 := by
  intro x t0 r hn
  obtain ⟨hops, hs, hvstat⟩ := Ctx.land_result { x with matOps := rest } s.cycle op.post r.2
  obtain ⟨hrows, hother⟩ := mgetD_foldl_rows (base := 128 * op.acc) hn t0.acc
  refine ⟨_, exec_matrixResultLands h, ?_⟩
  have htile : ∀ (u : State) (y : Ctx), (u.setCtx c y).tile (tileOf c) = u.tile (tileOf c) := fun _ _ => rfl
  simp only [State.ctx_setCtx, htile, State.tile_setTile]
  exact ⟨hops, hvstat, hs, rfl, hrows, hother⟩

end Sys2Proof.Machine

namespace Sys2Proof

open Machine

/-- Settles O27: writes land one by one in `landOrder`; the elements of a result are `outElem` of their rows and columns. -/
theorem resultsLand : Obligations.ResultsLand := by
  refine ⟨registerWriteLands_one, registerWriteLands_last, ⟨fun op old => ?_, fun prof acc j a a' w w' _ _ ha hw => ?_, outElem_group,
    fun prof acc i m n e a w _ ha hw => outElem_pruned prof acc ha hw⟩, fun s c op rest => ⟨matrixResultLands_lands, fun h => ?_⟩⟩
  · refine ⟨fun hk => ?_, fun hk => ?_, fun hk p => ?_, MatOp.result_fAcc old⟩
    · rw [MatOp.result_mmul old hk]
      exact ⟨by simp, fun i hi => ⟨(op.mmulRow old i).1, by simp [hi], fun n hn => MatOp.mmulRow_elem old i hn⟩⟩
    · rw [MatOp.result_mvec old hk]
      exact ⟨(op.mvecRow old).1, rfl, fun n hn => MatOp.mvecRow_elem old hn⟩
    · rw [MatOp.result_mzero old hk]
      obtain ⟨i, v⟩ := p
      simp [eq_comm, and_comm]
  · exact outElem_append ha hw
  · rw [exec_mldwComplete h]
    unfold Ctx.setPlane
    rfl

end Sys2Proof

/-! SUPPORT. Tokens and the ports of the SLC (R190, R191): a refill, the request that a port chooses and what it pays. -/

namespace Sys2Proof.Machine

/-! ### Refills -/

theorem exec_tokenRefill_notOwed {s : State} {slice b : Nat} (h : (slice, b) ∉ s.refills) :
    exec (.tokenRefill slice b) s = .next s := by
  change execTokenRefill slice b s = _
  simp [execTokenRefill, h]

/-- A token that is owed: the bucket, else the pool, else nothing. -/
theorem exec_tokenRefill_owed {s : State} {slice b : Nat} (h : (slice, b) ∈ s.refills) :
    let k := 12 * slice + b
    let u := { s with refills := s.refills.erase (slice, b) }
    exec (.tokenRefill slice b) s = .next (
      if s.bucket k < s.bucketTop k then { u with tokens := mput s.tokens k (s.bucket k + 1) }
      else if s.poolOf slice < s.poolTop slice then { u with pool := mput s.pool slice (s.poolOf slice + 1) }
      else u) := by
  change execTokenRefill slice b s = _
  simp only [execTokenRefill, List.contains_iff_mem.mpr h]
  rfl

/-! ### The choice of a port -/

/-- What a plane and a class offer at a port: the oldest request that waits there, where its tokens are there. -/
def State.offer (s : State) (slice cls plane : Nat) : Option (Nat × Nat × Nat) :=
  match s.waiting slice plane cls with
  | some (_, q) => if s.canPay slice plane cls q.secs.length then some (plane, cls, q.secs.length) else none
  | none => none

theorem State.offer_eq {s : State} {slice cls plane : Nat} {e : Ticket × PortReq} (h : s.waiting slice plane cls = some e) :
    s.offer slice cls plane =
      if s.canPay slice plane cls e.2.secs.length then some (plane, cls, e.2.secs.length) else none := by
  unfold State.offer
  rw [h]

theorem State.offer_some {s : State} {slice cls plane : Nat} {r : Nat × Nat × Nat} (h : s.offer slice cls plane = some r) :
    ∃ e, s.waiting slice plane cls = some e ∧ s.canPay slice plane cls e.2.secs.length = true ∧
      r = (plane, cls, e.2.secs.length) := by
  cases hw : s.waiting slice plane cls with
  | none => simp [State.offer, hw] at h
  | some e =>
    rw [State.offer_eq hw, Option.ite_none_right_eq_some] at h
    exact ⟨e, rfl, h.1, (Option.some.inj h.2).symm⟩

theorem State.canPay_of_offer_none {s : State} {slice cls plane : Nat} (h : s.offer slice cls plane = none)
    {e : Ticket × PortReq} (hw : s.waiting slice plane cls = some e) : s.canPay slice plane cls e.2.secs.length = false := by
  rw [State.offer_eq hw, ite_eq_right_iff] at h
  exact Bool.eq_false_iff.mpr fun hc => Option.some_ne_none _ (h hc)

/-- The first of the numbers below `n` that a search finds. -/
theorem findSome?_range_some {β : Type} {f : Nat → Option β} {b : β} {n : Nat} (h : (List.range n).findSome? f = some b) :
    ∃ j < n, f j = some b ∧ ∀ i < j, f i = none := by
  induction n with
  | zero => simp at h
  | succ n ih =>
    rw [List.range_succ, List.findSome?_append, Option.or_eq_some_iff] at h
    rcases h with h | ⟨hn, h⟩
    · obtain ⟨j, hj, hf⟩ := ih h
      exact ⟨j, by omega, hf⟩
    · refine ⟨n, by omega, by simpa using h, fun i hi => ?_⟩
      exact List.findSome?_eq_none_iff.mp hn i (List.mem_range.mpr hi)

/-- The plane that stands at a place of the rotation of a class. -/
def State.turnPlane (s : State) (slice cls i : Nat) : Nat := (mgetD s.portTurn (3 * slice + cls) 3 + 1 + i) % 4

theorem State.turnPlane_surj (s : State) (slice cls : Nat) {p : Nat} (h : p < 4) : ∃ i < 4, s.turnPlane slice cls i = p := by
  unfold State.turnPlane
  generalize mgetD s.portTurn (3 * slice + cls) 3 = last
  exact ⟨(p + 3 * (last + 1)) % 4, by omega, by omega⟩

theorem State.turnPlane_inj {s : State} {slice cls i j : Nat} (hi : i < 4) (hj : j < 4)
    (h : s.turnPlane slice cls i = s.turnPlane slice cls j) : i = j := by
  unfold State.turnPlane at h
  omega

theorem State.portChoice_eq (s : State) (slice : Nat) : s.portChoice slice =
    if s.portUsed.contains slice then none
    else (List.range 3).findSome? (fun cls => (List.range 4).findSome? (fun i => s.offer slice cls (s.turnPlane slice cls i))) := by
  unfold State.portChoice State.portPlanes
  simp only [List.findSome?_map]
  rfl

/-- The chosen request is the first that is offered: class by class, and in a class the planes in rotation after the last one. -/
theorem State.portChoice_some {s : State} {slice plane cls n : Nat} (h : s.portChoice slice = some (plane, cls, n)) :
    slice ∉ s.portUsed ∧ cls < 3 ∧ s.offer slice cls plane = some (plane, cls, n) ∧ (∀ c < cls, ∀ p < 4, s.offer slice c p = none) ∧
      ∃ j < 4, plane = s.turnPlane slice cls j ∧ ∀ i < j, s.offer slice cls (s.turnPlane slice cls i) = none := by
  rw [State.portChoice_eq, Option.ite_none_left_eq_some] at h
  obtain ⟨hu, h⟩ := h
  obtain ⟨c, hc, h, hfirst⟩ := findSome?_range_some h
  obtain ⟨j, hj, h, hbefore⟩ := findSome?_range_some h
  obtain ⟨e, hw, hpay, he⟩ := State.offer_some h
  simp only [Prod.mk.injEq] at he
  obtain ⟨rfl, rfl, rfl⟩ := he
  refine ⟨by simpa using hu, hc, h, fun c' hc' p hp => ?_, j, hj, rfl, hbefore⟩
  obtain ⟨i, hi, rfl⟩ := s.turnPlane_surj slice c' hp
  exact List.findSome?_eq_none_iff.mp (hfirst c' hc') i (List.mem_range.mpr hi)

/-! ### What a request pays -/

theorem State.payToken_bucket {s : State} {slice k : Nat} (h : 0 < s.bucket k) :
    s.payToken slice k = { s with tokens := mput s.tokens k (s.bucket k - 1) } := if_pos h

theorem State.payToken_pool {s : State} {slice k : Nat} (h : s.bucket k ≤ 0) :
    s.payToken slice k = { s with pool := mput s.pool slice (s.poolOf slice - 1) } := if_neg (not_lt.mpr h)

/-- A standard or background request empties its bucket before the pool. -/
theorem State.payToken_repeat (s : State) (slice k n : Nat) :
    let t := (List.range n).foldl (fun (s : State) _ => s.payToken slice k) s
    t.bucket k = s.bucket k - min (s.bucket k).toNat n ∧ t.poolOf slice = s.poolOf slice - (n - (s.bucket k).toNat) := by
  induction n with
  | zero => simp
  | succ n ih =>
    obtain ⟨hb, hp⟩ := ih
    simp only [List.range_succ, List.foldl_append, List.foldl_cons, List.foldl_nil]
    generalize (List.range n).foldl (fun (s : State) _ => s.payToken slice k) s = t at hb hp ⊢
    rcases lt_or_ge 0 (t.bucket k) with h | h
    · have hb' : (t.payToken slice k).bucket k = t.bucket k - 1 := by
        rw [State.payToken_bucket h]
        exact mgetD_mput_self _ _ _ _
      have hp' : (t.payToken slice k).poolOf slice = t.poolOf slice := by rw [State.payToken_bucket h]; rfl
      rw [hb', hp']
      omega
    · have hb' : (t.payToken slice k).bucket k = t.bucket k := by rw [State.payToken_pool h]; rfl
      have hp' : (t.payToken slice k).poolOf slice = t.poolOf slice - 1 := by
        rw [State.payToken_pool h]
        exact mgetD_mput_self _ _ _ _
      rw [hb', hp']
      omega

theorem State.payRequest_interactive (s : State) (slice plane fn : Nat) :
    s.payRequest slice plane 0 1 fn = s.payInteractive slice plane fn := rfl

theorem State.payRequest_tokens (s : State) (slice plane : Nat) {cls : Nat} (n fn : Nat) (h : cls ≠ 0) :
    let k := 12 * slice + 3 * plane + cls
    let t := s.payRequest slice plane cls n fn
    t.bucket k = s.bucket k - min (s.bucket k).toNat n ∧ t.poolOf slice = s.poolOf slice - (n - (s.bucket k).toNat) := by
  simp only [State.payRequest, if_neg h]
  exact s.payToken_repeat slice _ n

/-! ### The request that is admitted -/

theorem State.hintUnit_only (s : State) (fn : Nat) (kind : PfhKind) (u : HintUnit) : ∃ q, s.hintUnit fn kind u = { s with slc := q } := by
  unfold State.hintUnit
  cases kind with
  | pf => dsimp only; split <;> exact ⟨_, rfl⟩
  | res =>
    dsimp only
    split
    · exact ⟨_, rfl⟩
    · split <;> exact ⟨_, rfl⟩
  | rel => exact ⟨_, rfl⟩

theorem State.hintAdmit_only (s : State) (c : Nat) (seq : Option Nat) (secs : List Nat) :
    ∃ q h, s.hintAdmit c seq secs = { s with slc := q, hints := h } := by
  unfold State.hintAdmit
  split
  · exact ⟨_, _, rfl⟩
  · rename_i h _
    have hfold : ∃ q, (h.units.filter (fun u => secs.contains u.sec)).foldl (fun (s : State) u => s.hintUnit h.fn h.kind u) s =
        { s with slc := q } :=
      List.foldlRecOn (motive := fun (t : State) => ∃ q, t = { s with slc := q }) _ _ ⟨_, rfl⟩ fun t ⟨q, ht⟩ u _ => by
        obtain ⟨q', hq⟩ := t.hintUnit_only h.fn h.kind u
        exact ⟨q', by rw [hq, ht]⟩
    obtain ⟨q, hq⟩ := hfold
    exact ⟨q, _, by rw [hq]⟩

theorem exec_slcRequestAdmit_notChosen {s : State} {slice plane cls n : Nat} (h : s.portChoice slice ≠ some (plane, cls, n)) :
    exec (.slcRequestAdmit slice plane cls n) s = .next s := by
  change execSlcRequestAdmit slice plane cls n s = _
  simp [execSlcRequestAdmit, h]

/-- The chosen request pays, and the port has had its turn. -/
theorem exec_slcRequestAdmit_chosen {s : State} {slice plane cls n : Nat} {e : Ticket × PortReq}
    (h : s.portChoice slice = some (plane, cls, n)) (hw : s.waiting slice plane cls = some e) :
    ∃ ts q hs, exec (.slcRequestAdmit slice plane cls n) s =
      .next { s.payRequest slice plane cls e.2.secs.length (s.payer e.1) with
        tickets := ts, portUsed := slice :: s.portUsed, portTurn := mput s.portTurn (3 * slice + cls) plane, slc := q, hints := hs } := by
  change ∃ ts q hs, execSlcRequestAdmit slice plane cls n s = _
  simp only [execSlcRequestAdmit, h, hw, ne_eq, not_true_eq_false, if_false]
  obtain ⟨q, hs, hq⟩ := State.hintAdmit_only
    { s.payRequest slice plane cls e.2.secs.length (s.payer e.1) with
      tickets := s.tickets.map (fun k => if k = e.1 then { k with reqs := k.reqs.erase e.2 } else k)
      portUsed := slice :: s.portUsed, portTurn := mput s.portTurn (3 * slice + cls) plane } e.1.ctx e.1.seq e.2.secs
  exact ⟨_, q, hs, congrArg _ hq⟩

/-- An interactive request pays one token: from the bucket, from the pool, as debt, or beyond the floor, where DEBT counts it. -/
theorem State.payInteractive_pays (s : State) (slice plane fn : Nat) :
    let k := 12 * slice + 3 * plane
    let tk := s.bucket k
    let pool := s.poolOf slice
    let t := s.payInteractive slice plane fn
    (0 < tk → t.tokens = mput s.tokens k (tk - 1) ∧ t.pool = s.pool) ∧
    (tk ≤ 0 → 0 < pool → t.tokens = s.tokens ∧ t.pool = mput s.pool slice (pool - 1)) ∧
    (tk ≤ 0 → pool = 0 → -4096 < tk → t.tokens = mput s.tokens k (tk - 1) ∧ t.pool = s.pool) ∧
    (tk ≤ -4096 → pool = 0 → t.tokens = s.tokens ∧ t.pool = s.pool ∧
      mgetD (t.tenant fn).counters 13 0 = min (2 ^ 32 - 1) (mgetD (s.tenant fn).counters 13 0 + 1)) := by
  intro k tk pool t
  refine ⟨fun h => ?_, fun h hp => ?_, fun h hp hf => ?_, fun h hp => ?_⟩
  · have ht : t = { s with tokens := mput s.tokens k (tk - 1) } := if_pos h
    rw [ht]
    exact ⟨rfl, rfl⟩
  · have ht : t = { s with pool := mput s.pool slice (pool - 1) } := (if_neg (not_lt.mpr h)).trans (if_pos hp)
    rw [ht]
    exact ⟨rfl, rfl⟩
  · have ht : t = { s with tokens := mput s.tokens k (tk - 1) } :=
      (if_neg (not_lt.mpr h)).trans ((if_neg (by omega)).trans (if_pos hf))
    rw [ht]
    exact ⟨rfl, rfl⟩
  · have ht : t = s.count fn ctrDebt 32 1 :=
      (if_neg (not_lt.mpr (h.trans (by decide)))).trans ((if_neg (by omega)).trans (if_neg (not_lt.mpr h)))
    rw [ht]
    refine ⟨rfl, rfl, ?_⟩
    simp [State.count, ctrDebt, ones]

end Sys2Proof.Machine

namespace Sys2Proof

open Machine

/-- Settles O50: the port's choice is the first offer in its order, and its payment is one token for each sector. -/
theorem tokensPay : Obligations.TokensPay := by
  intro s slice pool
  refine ⟨fun b => ⟨exec_tokenRefill_notOwed, fun h => ?_⟩,
    fun plane cls n => ⟨exec_slcRequestAdmit_notChosen, fun h => ?_⟩⟩
  · have he := exec_tokenRefill_owed h
    refine ⟨fun hb => ?_, fun hb hp => ?_, fun hb hp => ?_⟩
    · exact he.trans (congrArg _ (if_pos hb))
    · exact he.trans (congrArg _ ((if_neg (not_lt.mpr hb)).trans (if_pos hp)))
    · exact he.trans (congrArg _ ((if_neg (not_lt.mpr hb)).trans (if_neg (not_lt.mpr hp))))
  · obtain ⟨hused, hcls, hoffer, hclasses, j, hj, hplane, hplanes⟩ := State.portChoice_some h
    obtain ⟨e, hw, hpay, hn⟩ := State.offer_some hoffer
    obtain rfl : n = e.2.secs.length := congrArg (·.2.2) hn
    refine ⟨hused, hcls, hplane ▸ Nat.mod_lt _ (by decide), fun hc => by simpa [State.canPay, hc] using hpay,
      fun c hc p hp q hq => State.canPay_of_offer_none (hclasses c hc p hp) hq, fun i j' hij hj' ht q hq => ?_, fun e' hw' => ?_⟩
    · have hjj : j' = j := State.turnPlane_inj hj' hj (ht.trans hplane)
      exact State.canPay_of_offer_none (hplanes i (hjj ▸ hij)) hq
    · obtain rfl : e' = e := Option.some.inj (hw'.symm.trans hw)
      obtain ⟨ts, sl, hs, he⟩ := exec_slcRequestAdmit_chosen h hw
      refine ⟨rfl, _, he, List.mem_cons_self, mgetD_mput_self _ _ _ _, fun hc => ?_, fun hc hone => ?_⟩
      · obtain ⟨hb, hpool⟩ := s.payRequest_tokens slice plane e'.2.secs.length (s.payer e'.1) hc
        exact ⟨hb.symm, hpool⟩
      · subst hc
        rw [hone, State.payRequest_interactive]
        exact State.payInteractive_pays s slice plane (s.payer e'.1)

end Sys2Proof

/-! SUPPORT. Device memory that is about to be written (R25, R182): a claimed range keeps its bytes, and what is then written there
reads as written. -/

namespace Sys2Proof.Machine

/-! ### Ranges of bytes -/

/-- A number is read from the bytes of its range alone. -/
theorem readLE_congr {m m' : Memory} {a n : Nat} (h : ∀ b, a ≤ b → b < a + n → mread m b = mread m' b) :
    readLE m a n = readLE m' a n := by
  induction n generalizing a with
  | zero => rfl
  | succ n ih => rw [readLE, readLE, h a le_rfl (by omega), ih fun b h1 h2 => h b (by omega) (by omega)]

/-- A key whose entries a filter keeps is found as before. -/
theorem mfind_filter_keep {α : Type} (m : AMap α) {f : Nat × α → Bool} {k : Nat} (h : ∀ v, f (k, v) = true) :
    mfind (m.filter f) k = mfind m k := by
  induction m with
  | nil => rfl
  | cons p m ih =>
    obtain ⟨j, v⟩ := p
    rw [List.filter_cons]
    by_cases hj : j = k
    · subst hj
      rw [if_pos (h v)]
      simp [mfind]
    · split <;> simp only [mfind, hj, if_false, ih]

theorem mread_clearRange_out (m : Memory) {a n b : Nat} (h : b < a ∨ a + n ≤ b) : mread (clearRange m a n) b = mread m b :=
  congrArg (·.getD blank) (mfind_filter_keep m fun v => by simp; omega)

theorem window_cons (c : Host.Cell) (m : Memory) (a n : Nat) :
    window (c :: m) a n = if a ≤ c.1 ∧ c.1 < a + n then (c.1 - a, c.2) :: window m a n else window m a n := by
  simp only [window, List.filter_cons, Bool.and_eq_true, decide_eq_true_eq]
  split <;> rfl

/-- A range of a memory moved to 0 finds at `i` what the memory finds there. -/
theorem mfind_window (m : Memory) (a : Nat) {n i : Nat} (h : i < n) : mfind (window m a n) i = mfind m (a + i) := by
  induction m with
  | nil => rfl
  | cons c m ih =>
    rw [window_cons, mfind, ← ih]
    split
    · have he : c.1 - a = i ↔ c.1 = a + i := by omega
      simp only [mfind, he]
    · rw [if_neg (by omega)]

theorem mem_window {m : Memory} {a n : Nat} {c : Host.Cell} (h : c ∈ window m a n) : c.1 < n ∧ (a + c.1, c.2) ∈ m := by
  unfold window at h
  simp only [List.mem_map, List.mem_filter, Bool.and_eq_true, decide_eq_true_eq] at h
  obtain ⟨d, ⟨hd, h1, h2⟩, rfl⟩ := h
  exact ⟨by simp only; omega, by simpa only [Nat.add_sub_cancel' h1] using hd⟩

theorem mwf_window {m : Memory} (h : mwf m = true) (a n : Nat) : mwf (window m a n) = true := by
  induction m with
  | nil => rfl
  | cons c m ih =>
    obtain ⟨habove, hm⟩ := (mwf_cons c.1 c.2 m).mp h
    rw [window_cons]
    split
    · refine (mwf_cons _ _ _).mpr ⟨fun p hp => ?_, ih hm⟩
      have hlt : c.1 < a + p.1 := habove _ (mem_window hp).2
      omega
    · exact ih hm

/-- Cells written from an address on read as they are listed. -/
theorem mread_foldl_cells {l : Memory} (hl : mwf l = true) {d : Memory} (hd : Memory.wf d = true) (a i : Nat) :
    mread (l.foldl (fun d c => mwrite d (a + c.1) c.2) d) (a + i) = (mfind l i).getD (mread d (a + i)) := by
  induction l generalizing d with
  | nil => rfl
  | cons c l ih =>
    obtain ⟨ha, hl⟩ := (mwf_cons c.1 c.2 l).mp hl
    rw [List.foldl_cons, ih hl (wf_mwrite _ _ hd), mfind]
    split
    · rename_i hc
      subst hc
      rw [mfind_of_above ha, Option.getD_none, mread_mwrite_self _ _ hd, Option.getD_some]
    · rw [mread_mwrite_ne _ _ (by omega)]

/-- A range of one memory written over a range of another that was cleared. -/
theorem mread_moved {m d : Memory} (hm : Memory.wf m = true) (hd : Memory.wf d = true) (old new n b : Nat) :
    mread ((window m old n).foldl (fun d c => mwrite d (new + c.1) c.2) (clearRange d new n)) b =
      if new ≤ b ∧ b < new + n then mread m (old + (b - new)) else mread d b := by
  split
  · rename_i h
    obtain ⟨i, rfl⟩ := Nat.exists_eq_add_of_le h.1
    rw [mread_foldl_cells (mwf_window ((wf_iff m).mp hm).1 old n) (wf_clearRange _ _ hd), mread_clearRange _ h.1 h.2,
      mfind_window _ _ (by omega), Nat.add_sub_cancel_left]
    rfl
  · rename_i h
    have hout : ∀ c ∈ window m old n, b ≠ new + c.1 := fun c hc => by have := (mem_window hc).1; omega
    exact List.foldlRecOn (motive := fun d' => mread d' b = mread d b) _ _ (mread_clearRange_out _ (by omega))
      fun d' hd' c hc => (mread_mwrite_ne _ _ (hout c hc)).trans hd'

/-! ### A claimed range -/

theorem State.claim_only (s : State) (u : Nat) : ∃ d z, s.claim u = { s with dev := d, seals := z } := by
  unfold State.claim
  split <;> exact ⟨_, _, rfl⟩

theorem State.claimRange_only (s : State) (a n : Nat) : ∃ d z, s.claimRange a n = { s with dev := d, seals := z } := by
  unfold State.claimRange
  split
  · exact ⟨_, _, rfl⟩
  · exact List.foldlRecOn (motive := fun (t : State) => ∃ d z, t = { s with dev := d, seals := z }) _ _ ⟨_, _, rfl⟩
      fun t ⟨d, z, ht⟩ u _ => by
        obtain ⟨d', z', hu⟩ := t.claim_only u
        exact ⟨d', z', by rw [hu, ht]⟩

theorem State.wf_claimRange {s : State} (h : Memory.wf s.dev = true) (a n : Nat) : Memory.wf (s.claimRange a n).dev = true := by
  unfold State.claimRange
  split
  · exact h
  · exact List.foldlRecOn (motive := fun (t : State) => Memory.wf t.dev = true) _ _ h fun t ht u _ => t.wf_claim ht u

theorem State.devByte_claimRange {s : State} (h : Memory.wf s.dev = true) (a n b : Nat) :
    (s.claimRange a n).devByte b = s.devByte b := by
  unfold State.claimRange
  split
  · rfl
  · exact (List.foldlRecOn (motive := fun (t : State) => Memory.wf t.dev = true ∧ t.devByte b = s.devByte b) _ _ ⟨h, rfl⟩
      fun t ht u _ => ⟨t.wf_claim ht.1 u, (t.devByte_claim ht.1 u b).trans ht.2⟩).2

theorem State.foreign_claimRange (s : State) (a n v : Nat) :
    (s.claimRange a n).foreign v = if v ∈ sectorsOf a n then none else s.foreign v := by
  have hfold (us : List Nat) (t : State) : (us.foldl State.claim t).foreign v = if v ∈ us then none else t.foreign v := by
    induction us generalizing t with
    | nil => rfl
    | cons u us ih =>
      rw [List.foldl_cons, ih, t.foreign_claim]
      by_cases hu : v = u <;> simp [hu]
  unfold State.claimRange
  split
  · rename_i he
    have hn : s.foreign v = none := s.foreign_of_noSeal (by rw [List.isEmpty_iff.mp he]; rfl)
    simp [hn]
  · exact hfold _ s

/-- A range that is claimed and then written reads as written, and every byte outside it as before. -/
theorem State.devByte_written {s : State} (h : Memory.wf s.dev = true) {a n : Nat} {d : Memory}
    (hd : ∀ b, b < a ∨ a + n ≤ b → mread d b = mread (s.claimRange a n).dev b) (b : Nat) :
    ({ s.claimRange a n with dev := d } : State).devByte b = if a ≤ b ∧ b < a + n then mread d b else s.devByte b := by
  have hf : ∀ v, ({ s.claimRange a n with dev := d } : State).foreign v = (s.claimRange a n).foreign v := fun _ => rfl
  by_cases hs : b / 64 ∈ sectorsOf a n
  · have hnone : (s.claimRange a n).foreign (b / 64) = none := by rw [s.foreign_claimRange, if_pos hs]
    rw [State.devByte_of_own ((hf _).trans hnone)]
    split
    · rfl
    · rw [← State.devByte_claimRange h a n b, State.devByte_of_own hnone]
      exact hd b (by omega)
  · -- No byte of the sector is written, so that it reads as before, foreign or not.
    have hsame : ∀ c, c / 64 = b / 64 → mread d c = mread (s.claimRange a n).dev c := fun c hc => by
      rw [mem_sectorsOf] at hs
      exact hd c (by omega)
    rw [mem_sectorsOf] at hs
    rw [if_neg (by omega), ← State.devByte_claimRange h a n b]
    unfold State.devByte
    rw [hf, hsame b rfl]
    have hl : readLE d (b / 64 * 64) 64 = readLE (s.claimRange a n).dev (b / 64 * 64) 64 :=
      readLE_congr fun c h1 h2 => hsame c (by omega)
    rw [← hl]

/-- A number of device memory, byte by byte. -/
theorem State.devLE_congr {s t : State} (hs : Memory.wf s.dev = true) (ht : Memory.wf t.dev = true) {a n : Nat}
    (h : ∀ b, a ≤ b → b < a + n → t.devByte b = s.devByte b) : t.devLE a n = s.devLE a n :=
  readLE_congr fun b h1 h2 => by rw [t.mread_text ht h1 h2, s.mread_text hs h1 h2, h b h1 h2]

/-- A claimed range holds in memory what it reads as. -/
theorem State.readLE_claimRange {s : State} (h : Memory.wf s.dev = true) (a n : Nat) :
    readLE (s.claimRange a n).dev a n = s.devLE a n :=
  readLE_congr fun b h1 h2 => by
    rw [s.mread_text h h1 h2, ← State.devByte_claimRange h a n b, State.devByte_of_own]
    rw [s.foreign_claimRange, if_pos (mem_sectorsOf.mpr ⟨by omega, by omega, by omega⟩)]

end Sys2Proof.Machine

/-! SUPPORT. Migrations (R188, R213, R322): the packet, the marking of loaded entries, the move of the bytes and the commit. -/

namespace Sys2Proof.Machine

/-! ### Packets whose words are home -/

theorem State.withHome_home {s : State} {rs : List (Nat × Nat)} (h : s.isHome rs = true) (k : State → State) :
    s.withHome rs k = k s := if_pos h

/-- A packet of a type, with a good header and home whole, halts its queue or runs. -/
theorem State.runPacket_home {s : State} {fn q type : Nat} {p : Packet} (hp : s.packet fn q = some p)
    (hh : s.headerBad fn q p = none) (ht : p.type = type) (hhome : s.isHome [(p.at', 64 * p.len)] = true) (bad : Packet → Bool)
    (k : Packet → State → State) :
    s.runPacket fn q type bad k = if bad p then s.haltQueue fn q 10 p.tag else k p s := by
  simp [State.runPacket, hp, hh, ht, State.withHome_home hhome]

section
variable {s : State} {fn q : Nat} {p : Packet} (hp : s.packet fn q = some p) (hh : s.headerBad fn q p = none)
  (ht : p.type = 4) (hhome : s.isHome [(p.at', 64 * p.len)] = true)
include hp hh ht hhome

theorem exec_migrate_fieldBad (hb : s.migrateFieldBad fn p = true) :
    exec (.migrate fn q) s = .next (s.haltQueue fn q 10 p.tag) := by
  change execMigrate fn q s = _
  rw [execMigrate, State.runPacket_home hp hh ht hhome, if_pos hb]

theorem exec_migrate_busy (hb : s.migrateFieldBad fn p = false)
    (hbusy : s.migrations.any (fun m => m.fn == s.migrateOwner fn p) = true) : exec (.migrate fn q) s = .next s := by
  change execMigrate fn q s = _
  rw [execMigrate, State.runPacket_home hp hh ht hhome, if_neg (Bool.eq_false_iff.mp hb)]
  exact congrArg _ (if_pos hbusy)

/-- With no migration of its tenant under way, a packet is refused or enters its migration. -/
theorem exec_migrate_free (hb : s.migrateFieldBad fn p = false)
    (hfree : s.migrations.any (fun m => m.fn == s.migrateOwner fn p) = false) (hreads : s.isHome (s.migrateReads p) = true) :
    exec (.migrate fn q) s = .next (
      if s.migrateRefused fn p then (s.pop fn q p).record fn 2 10 p.tag 0 0 0 0
      else { s.pop fn q p with
        migrations := s.migrations ++
          [⟨s.migrateOwner fn p, 4 * fn + q, p.tag, s.pword p 1, s.pword p 2, bits p.w0 24 5, s.migrateList p, false, false⟩] }) := by
  change execMigrate fn q s = _
  rw [execMigrate, State.runPacket_home hp hh ht hhome, if_neg (Bool.eq_false_iff.mp hb)]
  exact congrArg _ ((if_neg (Bool.eq_false_iff.mp hfree)).trans (State.withHome_home hreads _))

end

/-! ### Loaded entries -/

theorem mfind_map {α β : Type} (m : AMap α) (f : α → β) (k : Nat) :
    mfind (m.map (fun p => (p.1, f p.2))) k = (mfind m k).map f := by
  induction m with
  | nil => rfl
  | cons p m ih =>
    simp only [List.map_cons, mfind, ih]
    split <;> rfl

/-- Every context changes, and one that no launch has loaded is that of reset. -/
theorem State.ctx_mapCtxs (s : State) {f : Ctx → Ctx} (hf : f Ctx.reset = Ctx.reset) (c : Nat) : (s.mapCtxs f).ctx c = f (s.ctx c) := by
  unfold State.ctx State.mapCtxs mgetD
  rw [mfind_map]
  cases mfind s.ctxs c with
  | none => exact hf.symm
  | some x => rfl

theorem State.window_mapEntries (s : State) (base lsize : Nat) (f : Nat → Nat) (c : Nat) :
    ((s.mapEntries base lsize f).ctx c).window = (s.ctx c).window.map (fun e =>
      if entAt e.2.toNat base lsize then (e.1, BitVec.ofNat 128 (f e.2.toNat)) else e) := by
  unfold State.mapEntries
  rw [State.ctx_mapCtxs s rfl]
  split
  · rfl
  · rename_i h
    rw [List.any_eq_true, not_exists] at h
    refine ((List.map_congr_left fun e he => ?_).trans (List.map_id' _)).symm
    exact if_neg fun hc => h e ⟨he, hc⟩

/-- One migration that has begun is marked at the end of its cycle. -/
theorem State.markMigrations_one {s : State} {m : Migration} (h : s.migrations.filter (fun m => !m.marked) = [m]) :
    s.markMigrations = { s.mapEntries m.old m.lsize (fun e => entSetState e 2) with
      migrations := s.migrations.map (fun m => { m with marked := true }) } := by
  have hm : m ∈ s.migrations ∧ (!m.marked) = true := List.mem_filter.mp (h ▸ List.mem_singleton_self m)
  have hall : ¬ s.migrations.all (·.marked) = true := fun ha => by
    have := List.all_eq_true.mp ha m hm.1
    simp [this] at hm
  unfold State.markMigrations
  rw [if_neg hall, h]
  rfl

/-- An entry of a page whose migration is marked is loaded in transit. -/
theorem State.loadedEntry_marked {s : State} {m : Migration} {e : Nat} (hm : m ∈ s.migrations) (hk : m.marked = true)
    (he : entAt e m.old m.lsize = true) : s.loadedEntry e = entSetState e 2 :=
  if_pos (List.any_eq_true.mpr ⟨m, hm, by simp [hk, he]⟩)

theorem State.mem_window_prepare {s : State} {l : Launch} {i e : Nat} (h : (i, e) ∈ usedEntries (s.tableImage l.wtabAddr))
    (n ry rx : Nat) : (i, BitVec.ofNat 128 (s.loadedEntry e)) ∈ (s.prepare n l ry rx).window :=
  List.mem_map_of_mem (f := fun (p : Nat × Nat) => (p.1, BitVec.ofNat 128 (s.loadedEntry p.2))) h

/-! ### The move -/

/-- The bytes of the page stand in the new frame, and no other byte changes. -/
theorem State.devByte_movePage {s : State} (h : Memory.wf s.dev = true) (old new n b : Nat) :
    (s.movePage old new n).devByte b = if new ≤ b ∧ b < new + n then s.devByte (old + (b - new)) else s.devByte b := by
  have hmoved := mread_moved (s.wf_text h old n) (s.wf_claimRange h new n) old new n
  have hw := State.devByte_written h (a := new) (n := n) (fun b hb => (hmoved b).trans (if_neg (by omega))) b
  rw [show (s.movePage old new n).devByte b = _ from hw]
  split
  · rename_i hb
    rw [hmoved, if_pos hb, s.mread_text h (by omega) (by omega)]
  · rfl

theorem State.movePage_ctxs (s : State) (old new n : Nat) : (s.movePage old new n).ctxs = s.ctxs := by
  obtain ⟨d, z, h⟩ := s.claimRange_only new n
  unfold State.movePage
  simp only [h]

theorem exec_migrationCopy {s : State} {fn : Nat} {m : Migration}
    (hm : s.migrations.find? (fun m => m.fn == fn && m.marked && !m.copied) = some m) (hu : s.unused m.old m.lsize = true)
    (ho : s.hostCopies m.old (pageBytes m.lsize) = []) (hn : s.hostCopies m.new (pageBytes m.lsize) = []) :
    exec (.migrationCopy fn) s = .next { s.movePage m.old m.new (pageBytes m.lsize) with
      migrations := s.migrations.map (fun q => if q = m then { m with copied := true } else q) } := by
  change execMigrationCopy fn s = _
  simp [execMigrationCopy, hm, hu, ho, hn]

/-! ### Sectors that the host gives back -/

theorem State.askBack_only (s : State) (p : Nat × Bool) : ∃ b h, s.askBack p = { s with backInv := b, hostOut := h } := by
  unfold State.askBack
  split
  · split <;> exact ⟨_, _, rfl⟩
  · exact ⟨_, _, rfl⟩

theorem State.askBack_asked (s : State) (p : Nat × Bool) : (mfind (s.askBack p).backInv p.1).isSome = true := by
  unfold State.askBack
  split
  · rename_i h
    split
    · simp [State.tell]
    · simp [h]
  · simp [State.tell]

theorem State.askBack_keeps (s : State) (p : Nat × Bool) {k : Nat} (h : (mfind s.backInv k).isSome = true) :
    (mfind (s.askBack p).backInv k).isSome = true := by
  by_cases hk : k = p.1
  · exact hk ▸ s.askBack_asked p
  · unfold State.askBack
    split
    · split
      · simpa [State.tell, mfind_mput_ne _ _ hk] using h
      · exact h
    · simpa [State.tell, mfind_mput_ne _ _ hk] using h

theorem State.askBack_all (s : State) (ps : List (Nat × Bool)) :
    (∃ b h, ps.foldl State.askBack s = { s with backInv := b, hostOut := h }) ∧
      ∀ p ∈ ps, (mfind (ps.foldl State.askBack s).backInv p.1).isSome = true := by
  refine ⟨?_, fun p hp => foldl_stays (P := fun (u : State) => (mfind u.backInv p.1).isSome = true) hp (fun u => u.askBack_asked p)
    (fun u q hu => u.askBack_keeps q hu) s⟩
  exact List.foldlRecOn (motive := fun (t : State) => ∃ b h, t = { s with backInv := b, hostOut := h }) _ _ ⟨_, _, rfl⟩
    fun t ⟨b, h, ht⟩ p _ => by
      obtain ⟨b', h', hp⟩ := t.askBack_only p
      exact ⟨b', h', by rw [hp, ht]⟩

/-! ### The commit -/

/-- A listed image entry is rewritten in device memory. -/
def State.rewriteEntry (f : Nat → Nat) (s : State) (a : Nat) : State :=
  { s.claimRange a 16 with dev := writeLE (s.claimRange a 16).dev a 16 (f (readLE (s.claimRange a 16).dev a 16)) }

theorem State.rewriteEntry_only (f : Nat → Nat) (s : State) (a : Nat) :
    ∃ d z, s.rewriteEntry f a = { s with dev := d, seals := z } := by
  obtain ⟨d, z, h⟩ := s.claimRange_only a 16
  exact ⟨_, z, by rw [State.rewriteEntry, h]⟩

theorem State.rewriteEntries_only (f : Nat → Nat) (s : State) (es : List Nat) :
    ∃ d z, es.foldl (State.rewriteEntry f) s = { s with dev := d, seals := z } :=
  List.foldlRecOn (motive := fun (t : State) => ∃ d z, t = { s with dev := d, seals := z }) _ _ ⟨_, _, rfl⟩
    fun t ⟨d, z, ht⟩ a _ => by
      obtain ⟨d', z', ha⟩ := t.rewriteEntry_only f a
      exact ⟨d', z', by rw [ha, ht]⟩

section
variable {s : State} (h : Memory.wf s.dev = true) (f : Nat → Nat)
include h

theorem State.wf_rewriteEntry (a : Nat) : Memory.wf (s.rewriteEntry f a).dev = true :=
  wf_writeLE _ _ _ (s.wf_claimRange h a 16)

theorem State.devByte_rewriteEntry (a b : Nat) : (s.rewriteEntry f a).devByte b =
    if a ≤ b ∧ b < a + 16 then mread (s.rewriteEntry f a).dev b else s.devByte b :=
  State.devByte_written h (fun b hb => mread_writeLE_out _ _ _ _ b hb) b

/-- Entries lie on multiples of 16 bytes, so that one of them is rewritten alone. -/
theorem State.devLE_rewriteEntry {a b : Nat} (ha : a % 16 = 0) (hb : b % 16 = 0) :
    (s.rewriteEntry f a).devLE b 16 = if b = a then f (s.devLE a 16) % 2 ^ 128 else s.devLE b 16 := by
  have hw := s.wf_rewriteEntry h f a
  split
  · rename_i hba
    subst hba
    calc (s.rewriteEntry f b).devLE b 16 = readLE (s.rewriteEntry f b).dev b 16 := readLE_congr fun c h1 h2 => by
          rw [State.mread_text hw h1 h2, State.devByte_rewriteEntry h, if_pos ⟨h1, h2⟩]
      _ = f (readLE (s.claimRange b 16).dev b 16) % 256 ^ 16 := readLE_writeLE _ _ _ _ (s.wf_claimRange h b 16)
      _ = f (s.devLE b 16) % 2 ^ 128 := by rw [State.readLE_claimRange h, show (256 : Nat) ^ 16 = 2 ^ 128 by norm_num]
  · exact State.devLE_congr h hw fun c h1 h2 => (State.devByte_rewriteEntry h f a c).trans (if_neg (by omega))

theorem State.devLE_rewriteEntries {es : List Nat} (hn : es.Nodup) (ha : ∀ a ∈ es, a % 16 = 0) {b : Nat} (hb : b % 16 = 0) :
    (es.foldl (State.rewriteEntry f) s).devLE b 16 = if b ∈ es then f (s.devLE b 16) % 2 ^ 128 else s.devLE b 16 := by
  induction es generalizing s with
  | nil => rfl
  | cons a es ih =>
    obtain ⟨hne, hn⟩ := List.nodup_cons.mp hn
    rw [List.foldl_cons, ih (s.wf_rewriteEntry h f a) hn (fun c hc => ha c (List.mem_cons_of_mem _ hc)),
      State.devLE_rewriteEntry h f (ha a List.mem_cons_self) hb]
    by_cases hba : b = a
    · subst hba
      simp [hne]
    · simp [hba]

end

/-- While the host holds something of the listed entries, it is asked for it. -/
theorem exec_migrationCommit_asks {s : State} {fn : Nat} {m : Migration}
    (hm : s.migrations.find? (fun m => m.fn == fn && m.copied) = some m) (hb : (s.entryNeed m.entries).snoops ≠ []) :
    exec (.migrationCommit fn) s = .next ((s.entryNeed m.entries).snoops.foldl State.askBack s) := by
  change execMigrationCommit fn s = _
  simp only [execMigrationCommit, hm, List.isEmpty_eq_false_iff.mpr hb]
  rfl

/-- An entry as the commit leaves it: in its new frame, and valid. -/
def entPlaced (new e : Nat) : Nat := entSetState (entSetFrame e new) 1

/-- The loaded entries that map the page and the listed image entries, all in their new frame. -/
def State.replaced (s : State) (m : Migration) : State :=
  m.entries.foldl (State.rewriteEntry (entPlaced m.new)) (s.mapEntries m.old m.lsize (entPlaced m.new))

theorem State.replaced_only (s : State) (m : Migration) :
    ∃ d z, s.replaced m = { s.mapEntries m.old m.lsize (entPlaced m.new) with dev := d, seals := z } :=
  State.rewriteEntries_only _ _ _

theorem exec_migrationCommit_done {s : State} {fn : Nat} {m : Migration}
    (hm : s.migrations.find? (fun m => m.fn == fn && m.copied) = some m) (hb : (s.entryNeed m.entries).snoops = []) :
    exec (.migrationCommit fn) s = .next
      ({ s.replaced m with migrations := (s.replaced m).migrations.filter (fun q => q != m) }.record (m.q / 4) 0 0 m.tag 0 0 0 0) := by
  change execMigrationCommit fn s = _
  simp only [execMigrationCommit, hm, hb]
  rfl

end Sys2Proof.Machine

namespace Sys2Proof

open Machine

/-- Settles O42: a packet goes one way of four, entries are mapped where they name the page, and the commit rewrites each listed one. -/
theorem migrationsMove : Obligations.MigrationsMove := by
  refine ⟨fun s fn q p hp hh ht hhome => ⟨fun hb => ?_, fun hb => ⟨fun hbusy => ?_, fun hfree hreads => ?_⟩⟩, fun s m hm => ?_,
    fun s n ry rx i e l m he hm hk ha => ?_, fun s fn m hm hu ho hn hw => ?_, fun s fn m hm => ⟨fun hb => ?_, fun hb => ?_⟩⟩
  · exact exec_migrate_fieldBad hp hh ht hhome hb
  · exact exec_migrate_busy hp hh ht hhome hb hbusy
  · have he := exec_migrate_free hp hh ht hhome hb hfree hreads
    refine ⟨fun hr => ?_, fun hr => ?_⟩
    · rwa [if_pos hr] at he
    · rw [if_neg (Bool.eq_false_iff.mp hr)] at he
      exact he
  · simp only [State.markMigrations_one hm]
    exact ⟨by simp, rfl, fun c => s.window_mapEntries m.old m.lsize (fun e => entSetState e 2) c⟩
  · rw [← State.loadedEntry_marked hm hk ha]
    exact State.mem_window_prepare he n ry rx
  · refine ⟨_, exec_migrationCopy hm hu ho hn, s.movePage_ctxs m.old m.new _, ?_, State.devByte_movePage hw m.old m.new _⟩
    exact List.mem_map.mpr ⟨m, List.mem_of_find?_eq_some hm, if_pos rfl⟩
  · obtain ⟨⟨b, o, ht⟩, hasked⟩ := s.askBack_all (s.entryNeed m.entries).snoops
    refine ⟨_, exec_migrationCommit_asks hm hb, ?_, ?_, ?_, hasked⟩ <;> rw [ht]
  · obtain ⟨d, z, ht⟩ := s.replaced_only m
    refine ⟨_, exec_migrationCommit_done hm hb, by rw [ht]; rfl, fun c => ?_, fun hw hn ha a hmem => ?_⟩
    · rw [ht]
      exact s.window_mapEntries m.old m.lsize _ c
    · have hdev := State.devLE_rewriteEntries (s := s.mapEntries m.old m.lsize (entPlaced m.new)) hw (entPlaced m.new) hn ha (ha a hmem)
      rw [if_pos hmem] at hdev
      exact hdev

end Sys2Proof

/-! SUPPORT. A copy record whose next row lies below zero (R229, R251): its fault stands at the wrapped address, so the record stops
far beyond the end of its stream, and what it moves there goes to addresses that none of its rows names. -/

namespace Sys2Proof.Machine

/-! ### A copy record that meets a fault -/

theorem exec_copyRecordPerform_stops {s : State} {c n e : Nat} {ch : Chan} {r : CopyRec} {f : Nat × Nat}
    (hr : (s.ctx c).headRec ch.val = some r) (hk : r.kind ≠ 4 ∧ r.kind ≠ 6) (hb : r.bad = none)
    (hfree : s.recBlocked c (s.ctx c) r = false) (hheld : (s.planNeed (s.ctx c) r).holds r.host.isAnswered = false)
    (ha : s.admitted c (some r.seq) (s.planNeed (s.ctx c) r) = true) (hstop : s.copyStop (s.ctx c) r = (e, some f))
    (htop : s.roomEnd (s.ctx c) r e = e) :
    exec (.copyRecordPerform c ch n) s = .next
      (((s.fillAll (s.ctx c).tenant (s.planNeed (s.ctx c) r)).moveRec c (s.ctx c) r e).failRec c r f.1 f.2) := by
  change execCopyRecordPerform c ch n s = _
  have hfault : (s.planNeed (s.ctx c) r).fault = none := rfl
  simp [execCopyRecordPerform, hr, hk, hb, hfree, State.withNeed, hfault, hheld, ha, hstop, htop]

theorem State.moveRec_plain {r : CopyRec} (hk : r.kind ≠ 5) (hc : r.conv = false) (hd : r.dloc ≠ .virt) (s : State) (c : Nat) (x : Ctx)
    (e : Nat) : s.moveRec c x r e = s.moveBytes c x r r.moved (e - r.moved) := by
  simp [State.moveRec, State.moveTo, hk, hc, hd]

theorem State.failRec_tile (s : State) (c : Nat) (r : CopyRec) (code ea t : Nat) : (s.failRec c r code ea).tile t = s.tile t := rfl

/-! ### Bytes moved from where nothing is mapped into the own scratchpad -/

theorem Ctx.pageOf_of_noWindow {x : Ctx} (h : x.window = []) (va : Nat) : x.pageOf va = none := by simp [Ctx.pageOf, h]

theorem State.srcByte_unmapped {x : Ctx} {r : CopyRec} (hx : x.window = []) (hs : r.sloc = .virt) (s : State) (a : Nat) :
    s.srcByte x r a = blank := by
  simp [State.srcByte, hs, State.vread, Ctx.pageOf_of_noWindow hx]

theorem State.mread_spSet {s : State} {t : Nat} (h : Memory.wf (s.tile t).sp = true) (a b : Nat) (v : Byte) :
    mread ((s.spSet t a v).tile t).sp b = if b = a then v else mread (s.tile t).sp b := by
  simp only [State.spSet, State.tile_setTile]
  split
  · next hb => rw [hb, mread_mwrite_self _ _ h]
  · next hb => exact mread_mwrite_ne _ _ hb

/-- A byte reads blank once it has been blank or the stream has come past its place. -/
theorem State.moveBytes_blank {c a n i : Nat} {x : Ctx} {r : CopyRec} (hx : x.window = []) (hs : r.sloc = .virt) (hd : r.dloc = .sp)
    {s : State} (hw : s.memOk = true) (ha : mread (s.tile (tileOf c)).sp a = blank ∨ ∃ j, i ≤ j ∧ j < i + n ∧ r.dstAt j = a) :
    mread ((s.moveBytes c x r i n).tile (tileOf c)).sp a = blank := by
  induction n generalizing s i with
  | zero => exact ha.resolve_right (by rintro ⟨j, hij, hji, -⟩; omega)
  | succ n ih =>
    rw [State.moveBytes, State.srcByte_unmapped hx hs, State.dstByte, hd]
    refine ih (State.memOk_spSet hw _ _ _) ?_
    simp only [State.mread_spSet (State.wf_sp hw _)]
    by_cases hi : a = r.dstAt i
    · exact .inl (if_pos hi)
    · rw [if_neg hi]
      refine ha.imp_right ?_
      rintro ⟨j, hij, hji, rfl⟩
      have hne : j ≠ i := fun h => hi (h ▸ rfl)
      exact ⟨j, by omega, by omega, rfl⟩

/-! ### The record -/

/-- Two rows of 8 bytes from the virtual space into the own scratchpad; the first has moved, the second lies 8 bytes below zero. -/
def belowZero : CopyRec :=
  { seq := 0, held := false, post := false, colour := 0, ch := 0, kind := 1, sloc := .virt, dloc := .sp, src := 0, dst := 64
    n0 := 8, n1 := 2, n2 := 1, ss1 := -8, ss2 := 0, ds1 := 8, ds2 := 0, conv := false, op := 0, wide := false, uns := false
    nores := false, opnd := 0, cmp := 0, snap := [], bad := none, moved := 8, counted := 8, host := .idle, pushed := 0 }

/-- The record at the head of its channel, in a tile whose scratchpad holds 1 at address 0. -/
def belowZeroState : State :=
  { State.reset with ctxs := [(0, { Ctx.reset with recs := [belowZero] })], tiles := [(0, { Tile.reset with sp := [(0, 1#8)] })] }

/-- The stream has 16 bytes; its stop is byte 8 and the whole of the wrapped address on. -/
theorem copyStop_belowZero : belowZero.stream = 16 ∧
    belowZeroState.copyStop (belowZeroState.ctx 0) belowZero = (2 ^ 64, some (0x180, 2 ^ 64 - 8)) := by decide +kernel

/-- The bytes beyond the stream go from address 0 of the scratchpad on. -/
theorem dstAt_belowZero : belowZero.dstAt 16 = 0 := by decide +kernel

theorem belowZero_loses {t : State} (ht : exec (.copyRecordPerform 0 0 0) belowZeroState = .next t) :
    mread (t.tile 0).sp 0 = blank := by
  have hexec := exec_copyRecordPerform_stops (s := belowZeroState) (c := 0) (n := 0) (e := 2 ^ 64) (ch := 0) (r := belowZero)
    (f := (0x180, 2 ^ 64 - 8)) (by decide +kernel) (by decide) rfl (by decide +kernel) (by decide +kernel) (by decide +kernel)
    copyStop_belowZero.2 (by decide +kernel)
  obtain rfl := Host.Outcome.next.inj (ht.symm.trans hexec)
  rw [State.failRec_tile, State.moveRec_plain (by decide) rfl (by decide)]
  exact State.moveBytes_blank (c := 0) rfl rfl rfl ((State.memOk_fillAll _ _ _).trans (by decide +kernel))
    (.inr ⟨16, by decide, by decide, dstAt_belowZero⟩)

end Sys2Proof.Machine

namespace Sys2Proof

open Machine

/-- Refutes O36: a row below zero puts the stop of its record beyond the stream, and the own scratchpad loses its byte at address 0,
to which no row of the record goes. -/
theorem not_copiesPerform : ¬ Obligations.CopiesPerform := by
  intro h
  obtain ⟨-, hmoves⟩ := h belowZeroState 0 0 belowZero (by decide +kernel) (.inl (by decide))
  obtain ⟨-, -, t, ht, -, -, -, -, hmem⟩ := hmoves 0 rfl (by decide +kernel) (by decide +kernel) (by decide +kernel)
  obtain ⟨-, hframe⟩ := (hmem (by decide +kernel)).1 (by decide) rfl (fun _ _ _ _ _ _ _ _ _ _ hsrc => by cases hsrc) nofun
  have hkept : mread (t.tile 0).sp 0 = 1#8 := hframe (2, 0) fun p q b _ hgoal => by
    have ha : ((64 : Nat) + p * 0 + q * 8 + b : Int).toNat = 0 := congrArg Prod.snd (Option.some.inj hgoal)
    omega
  exact absurd (hkept.symm.trans (belowZero_loses ht)) (by decide)

end Sys2Proof

/-! SUPPORT. A host read that waits for an entry of the filter, of a sector that the host has not given back in time (R319): as the cycle
ends the sector is given up and the read, tried again, takes an entry for it anew. -/

namespace Sys2Proof.Machine

/-- The host holds a sector in S that was asked back on cycle 0, the time limit has passed, and another read of the sector waits. -/
def lateSector : State :=
  { State.reset with cycle := Config.defaultTimeout, keys := [(1, 1)], frameKey := [(1, 1)], snoop := [(0x8000, false)]
                     backInv := [(0x8000, ⟨true, 0⟩)], hostReads := [(1, 0x200000, true)] }

theorem State.hostRead_takes {s : State} {fn addr : Nat} (hb : s.hostBar fn addr = none) (hf : s.filterFull (addr / 64) = false)
    (excl : Bool) : mfind (s.hostRead fn addr excl).snoop (addr / 64) = some excl := by
  simp [State.hostRead, hb, hf, State.tell]

/-- The cycle's end gives the sector up and tries the read again, which nothing bars and for which the filter has room. -/
theorem lateSector_tick : mfind lateSector.tick.snoop 0x8000 = some true := by
  have hserved : lateSector.tick.snoop = ({ lateSector.loseSector 0x8000 with hostReads := [] }.hostRead 1 0x200000 true).snoop := by
    decide +kernel
  rw [hserved]
  exact State.hostRead_takes (by decide +kernel) (by decide +kernel) true

end Sys2Proof.Machine

namespace Sys2Proof

open Machine

/-- Refutes O38: the end of a cycle gives a late sector up, and then lets a host read that waits for it take it again. -/
theorem not_hostAnswers : ¬ Obligations.HostAnswers := by
  rintro ⟨-, hlate, -⟩
  obtain ⟨hgone, -⟩ := hlate lateSector 0x8000 ⟨true, 0⟩ rfl (by decide) (by decide) rfl rfl
  exact Option.some_ne_none _ (lateSector_tick.symm.trans hgone)

end Sys2Proof

/-! SUPPORT. Larder cells (R216 to R219, R224): what each field of a cell gets from one addition, and the converting read. -/

namespace Sys2Proof.Machine

/-! ### One addition (R218), by the kind of its addend -/

/-- A cell whose next addition is counted and not yet performed. -/
def Cell.counted (k : Cell) : Cell :=
  { k with count := if k.count = 2 ^ 24 - 1 then k.count else k.count + 1, gx := k.gx || decide (k.count = 2 ^ 24 - 1) }

theorem Cell.counted_def (k : Cell) :
    (if k.count = 2 ^ 24 - 1 then { k with gx := true } else { k with count := k.count + 1 }) = k.counted := by
  by_cases h : k.count = 2 ^ 24 - 1
  · rw [if_pos h, Cell.counted, if_pos h, decide_eq_true h, Bool.or_true]
  · rw [if_neg h, Cell.counted, if_neg h, decide_eq_false h, Bool.or_false]

theorem Cell.add_nan (k : Cell) (n : Bool) (a : Int) : k.add (.nan n) a = { k.counted with nan := true } := by
  rw [← Cell.counted_def]
  rfl

theorem Cell.add_inf (k : Cell) (n : Bool) (a : Int) :
    k.add (.inf n) a = if n then { k.counted with ninf := true } else { k.counted with pinf := true } := by
  rw [← Cell.counted_def]
  rfl

theorem Cell.add_fin (k : Cell) (n : Bool) (m : Nat) (e a : Int) : k.add (.fin n m e) a =
    if 2 ^ 191 ≤ (cellUnits m e a).1 then { k.counted with ovf := true }
    else { k.counted with
      unf := k.unf || !(cellUnits m e a).2
      int := truncI 216 ((k.int : Int) + if n then -((cellUnits m e a).1 : Int) else (cellUnits m e a).1) } := by
  have hunf : k.unf = k.counted.unf := rfl
  have hint : k.int = k.counted.int := rfl
  rw [hunf, hint, ← Cell.counted_def]
  rfl

theorem cellUnits_eq (m : Nat) (e a : Int) : cellUnits m e a =
    (m * 2 ^ (e - a).toNat / 2 ^ (a - e).toNat, decide (m * 2 ^ (e - a).toNat % 2 ^ (a - e).toNat = 0)) := by
  unfold cellUnits
  split
  case isTrue h => simp [Int.toNat_of_nonpos (Int.sub_nonpos_of_le h), Nat.mod_one]
  case isFalse h => simp [Int.toNat_of_nonpos (Int.sub_nonpos_of_le (Int.not_le.mp h).le), beq_eq_decide]

theorem Cell.add_over {k : Cell} (neg : Bool) {m : Nat} {e a : Int} (h : 2 ^ 191 ≤ m * 2 ^ (e - a).toNat / 2 ^ (a - e).toNat) :
    k.add (.fin neg m e) a = { k.counted with ovf := true } := by
  rw [Cell.add_fin, cellUnits_eq, if_pos h]

theorem Cell.add_within {k : Cell} (neg : Bool) {m : Nat} {e a : Int} (h : m * 2 ^ (e - a).toNat / 2 ^ (a - e).toNat < 2 ^ 191) :
    let q := m * 2 ^ (e - a).toNat / 2 ^ (a - e).toNat
    k.add (.fin neg m e) a = { k.counted with
      unf := k.unf || decide (m * 2 ^ (e - a).toNat % 2 ^ (a - e).toNat ≠ 0)
      int := (((k.int : Int) + if neg then -(q : Int) else q) % 2 ^ 216).toNat } := by
  intro q
  rw [Cell.add_fin, cellUnits_eq, if_neg h.not_ge, decide_not]
  rfl

/-! ### One addition by the fields of the cell (R219): each flag is the OR of decisions about single addends -/

@[simp] def XVal.isInfOf (neg : Bool) : XVal → Bool
  | .inf n => n == neg
  | _ => false

/-- Does a finite addend lie beyond the window of the anchor? -/
@[simp] def XVal.overWindow (a : Int) : XVal → Bool
  | .fin _ m e => decide (2 ^ 191 ≤ (cellUnits m e a).1)
  | _ => false

/-- Has an addend of the window bits below the anchor? -/
@[simp] def XVal.underAnchor (a : Int) : XVal → Bool
  | .fin _ m e => !decide (2 ^ 191 ≤ (cellUnits m e a).1) && !(cellUnits m e a).2
  | _ => false

/-- INT after an addend. -/
@[simp] def XVal.intAfter (a : Int) (x : XVal) (i : Nat) : Nat :=
  match x with
  | .fin n m e =>
    if 2 ^ 191 ≤ (cellUnits m e a).1 then i
    else truncI 216 ((i : Int) + if n then -((cellUnits m e a).1 : Int) else (cellUnits m e a).1)
  | _ => i

theorem truncI_truncI_add (n : Nat) (y z : Int) : truncI n ((truncI n y : Int) + z) = truncI n (y + z) := by
  have hpos : (0 : Int) < (2 ^ n : Nat) := by exact_mod_cast Nat.two_pow_pos n
  rw [truncI, truncI, Int.toNat_of_nonneg (Int.emod_nonneg _ hpos.ne'), Int.emod_add_emod, truncI]

theorem XVal.intAfter_comm (a : Int) (x y : XVal) (i : Nat) :
    y.intAfter a (x.intAfter a i) = x.intAfter a (y.intAfter a i) := by
  cases x <;> cases y <;> simp only [XVal.intAfter]
  case fin.fin => split <;> split <;> simp only [truncI_truncI_add, Int.add_right_comm]

theorem Cell.add_eq (k : Cell) (x : XVal) (a : Int) : k.add x a =
    { k.counted with
      int := x.intAfter a k.int
      nan := k.nan || x.isNan
      pinf := k.pinf || x.isInfOf false
      ninf := k.ninf || x.isInfOf true
      ovf := k.ovf || x.overWindow a
      unf := k.unf || x.underAnchor a } := by
  cases x with
  | nan n => simp [Cell.add_nan, Cell.counted, XVal.isNan]
  | inf n => cases n <;> simp [Cell.add_inf, Cell.counted, XVal.isNan]
  | fin n m e =>
    rw [Cell.add_fin]
    split
    case isTrue h => simp [-Nat.reducePow, h, Cell.counted, XVal.isNan]
    case isFalse h => simp [-Nat.reducePow, h, Cell.counted, XVal.isNan]

theorem Cell.add_comm (k : Cell) (x y : XVal) (a : Int) : (k.add x a).add y a = (k.add y a).add x a := by
  simp only [Cell.add_eq, Cell.counted, Bool.or_right_comm, XVal.intAfter_comm a x y]

/-! ### Rounding between multiples of the grid -/

theorem roundMag_fine {mode : RMode} {u : Nat} {neg : Bool} {m : Nat} {e q : Int} (h : q ≤ e) :
    (roundMag mode u neg m e q).1 = m * 2 ^ (e - q).toNat := by
  rw [roundMag, if_pos h]

/-- A coarser grid takes the quotient, or the next number where the rounding goes away from zero. -/
theorem roundMag_coarse (mode : RMode) (u : Nat) (neg : Bool) (m : Nat) {e q : Int} (h : e < q) :
    let r := roundMag mode u neg m e q
    r.1 = m / 2 ^ (q - e).toNat + r.2.2.toNat ∧ (r.2.2 = true → m % 2 ^ (q - e).toNat ≠ 0) := by
  intro r
  by_cases hr : m % 2 ^ (q - e).toNat = 0
  · have hexact : r = (m / 2 ^ (q - e).toNat, false, false) := (if_neg h.not_ge).trans (if_pos hr)
    exact ⟨by rw [hexact]; rfl, by rw [hexact]; exact nofun⟩
  · refine ⟨?_, fun _ => hr⟩
    have hinexact : r.1 = if r.2.2 then m / 2 ^ (q - e).toNat + 1 else m / 2 ^ (q - e).toNat := by
      simp only [r, roundMag, if_neg h.not_ge, if_neg hr]
    rw [hinexact]
    cases r.2.2 <;> rfl

theorem roundMag_le {mode : RMode} {u : Nat} {neg : Bool} {m N : Nat} {e q : Int}
    (h : m * 2 ^ (e - q).toNat ≤ N * 2 ^ (q - e).toNat) : (roundMag mode u neg m e q).1 ≤ N := by
  rcases le_or_gt q e with hq | hq
  · simpa [roundMag_fine hq, Int.toNat_of_nonpos (Int.sub_nonpos_of_le hq)] using h
  obtain ⟨heq, hup⟩ := roundMag_coarse mode u neg m hq
  rw [Int.toNat_of_nonpos (Int.sub_nonpos_of_le hq.le), pow_zero, mul_one] at h
  have hdiv : m / 2 ^ (q - e).toNat ≤ N := Nat.div_le_of_le_mul (by rwa [Nat.mul_comm])
  rw [heq]
  cases hr : (roundMag mode u neg m e q).2.2 with
  | false => exact hdiv
  | true =>
    refine lt_of_le_of_ne hdiv fun hN => hup hr ?_
    have hm := Nat.div_add_mod m (2 ^ (q - e).toNat)
    rw [hN, Nat.mul_comm] at hm
    omega

theorem le_roundMag {mode : RMode} {u : Nat} {neg : Bool} {m N : Nat} {e q : Int}
    (h : N * 2 ^ (q - e).toNat ≤ m * 2 ^ (e - q).toNat) : N ≤ (roundMag mode u neg m e q).1 := by
  rcases le_or_gt q e with hq | hq
  · simpa [roundMag_fine hq, Int.toNat_of_nonpos (Int.sub_nonpos_of_le hq)] using h
  obtain ⟨heq, -⟩ := roundMag_coarse mode u neg m hq
  rw [Int.toNat_of_nonpos (Int.sub_nonpos_of_le hq.le), pow_zero, mul_one] at h
  exact heq ▸ Nat.le_add_right_of_le ((Nat.le_div_iff_mul_le (Nat.two_pow_pos _)).mpr h)

/-- A value of the binade of 2^b is at least 2^j steps of a grid at most 2^(b-j) wide. -/
theorem two_pow_le_roundMag {mode : RMode} {u : Nat} {neg : Bool} {m j : Nat} {e q : Int} (hm : m ≠ 0)
    (h : q + j ≤ m.log2 + e) : 2 ^ j ≤ (roundMag mode u neg m e q).1 := by
  refine le_roundMag ?_
  calc 2 ^ j * 2 ^ (q - e).toNat = 2 ^ (j + (q - e).toNat) := (pow_add ..).symm
    _ ≤ 2 ^ (m.log2 + (e - q).toNat) := Nat.pow_le_pow_right two_pos (by omega)
    _ = 2 ^ m.log2 * 2 ^ (e - q).toNat := pow_add ..
    _ ≤ m * 2 ^ (e - q).toNat := Nat.mul_le_mul_right _ (Nat.log2_self_le hm)

/-- A value of the binade of 2^b is at most 2^j steps of a grid at least 2^(b+1-j) wide. -/
theorem roundMag_le_two_pow {mode : RMode} {u : Nat} {neg : Bool} {m j : Nat} {e q : Int}
    (h : m.log2 + e < q + j) : (roundMag mode u neg m e q).1 ≤ 2 ^ j := by
  refine roundMag_le ?_
  calc m * 2 ^ (e - q).toNat ≤ 2 ^ (m.log2 + 1) * 2 ^ (e - q).toNat := Nat.mul_le_mul_right _ Nat.lt_log2_self.le
    _ = 2 ^ (m.log2 + 1 + (e - q).toNat) := (pow_add ..).symm
    _ ≤ 2 ^ (j + (q - e).toNat) := Nat.pow_le_pow_right two_pos (by omega)
    _ = 2 ^ j * 2 ^ (q - e).toNat := pow_add ..

/-! ### Patterns of f32 -/

theorem xeq_self (n : Bool) (m : Nat) (e : Int) : xeq (.fin n m e) (.fin n m e) = true := by simp [xeq]

theorem xeq_double (n : Bool) (m : Nat) (e : Int) : xeq (.fin n m (e + 1)) (.fin n (m * 2) e) = true := by
  simp [xeq, inUnits]

theorem maxMag_f32 : maxMag F32 = 255 * 2 ^ 23 - 1 := by decide

theorem withSign_f32 (neg : Bool) (x : Nat) : withSign F32 neg x = neg.toNat * 2 ^ 31 + x := rfl

theorem withSign_maxMag_f32 (neg : Bool) : withSign F32 neg (maxMag F32) = if neg then 0xFF7FFFFF else 0x7F7FFFFF := by
  cases neg <;> decide

theorem decodeFloat_f32_of_fields {x ex fr : Nat} {neg : Bool} (hs : tbit x 31 = neg) (he : bits x 23 8 = ex)
    (hf : bits x 0 23 = fr) (hex : ex ≠ 255) :
    decodeFloat F32 x = if ex = 0 then .fin neg fr (-149) else .fin neg (2 ^ 23 + fr) ((ex : Int) - 127 - 23) := by
  subst hs he hf
  by_cases h0 : bits x 23 8 = 0 <;> simp [decodeFloat, F32, ones, hex, h0]

theorem decodeFloat_f32 (neg : Bool) {ex fr : Nat} (hex : ex < 255) (hfr : fr < 2 ^ 23) :
    decodeFloat F32 (withSign F32 neg (ex * 2 ^ 23 + fr)) =
      if ex = 0 then .fin neg fr (-149) else .fin neg (2 ^ 23 + fr) ((ex : Int) - 127 - 23) := by
  rw [withSign_f32]
  refine decodeFloat_f32_of_fields ?_ ?_ ?_ hex.ne
  · cases neg <;> simp [tbit] <;> omega
  · unfold bits
    omega
  · unfold bits
    omega

/-- n steps of a grid of f32, up to the next binade, stand in the pattern at their distance from the start of the grid. -/
theorem decodeFloat_f32_grid (neg : Bool) {j n : Nat} (hn : n ≤ 2 ^ 24) (hj : n < 2 ^ 23 → j = 0)
    (hmax : j * 2 ^ 23 + n ≤ maxMag F32) : ∃ m' e', decodeFloat F32 (withSign F32 neg (j * 2 ^ 23 + n)) = .fin neg m' e' ∧
      xeq (.fin neg m' e') (.fin neg n ((j : Int) - 149)) = true := by
  rw [maxMag_f32] at hmax
  rcases Nat.lt_or_ge n (2 ^ 23) with hlow | hhigh
  · obtain rfl := hj hlow
    exact ⟨n, -149, decodeFloat_f32 neg (by decide) hlow, xeq_self ..⟩
  rcases Nat.lt_or_eq_of_le hn with hlt | rfl
  · have hdec := decodeFloat_f32 neg (ex := j + 1) (fr := n - 2 ^ 23) (by omega) (by omega)
    rw [show (j + 1) * 2 ^ 23 + (n - 2 ^ 23) = j * 2 ^ 23 + n by omega, if_neg j.succ_ne_zero, Nat.add_sub_cancel' hhigh,
      show ((j + 1 : Nat) : Int) - 127 - 23 = j - 149 by omega] at hdec
    exact ⟨_, _, hdec, xeq_self ..⟩
  · have hdec := decodeFloat_f32 neg (ex := j + 2) (fr := 0) (by omega) (by omega)
    rw [show (j + 2) * 2 ^ 23 + 0 = j * 2 ^ 23 + 2 ^ 24 by omega, if_neg (Nat.succ_ne_zero _),
      show ((j + 2 : Nat) : Int) - 127 - 23 = j - 149 + 1 by omega] at hdec
    exact ⟨_, _, hdec, xeq_double ..⟩

/-- Conversion into f32 by RNE with IOV clear stops at the largest value. -/
theorem toFloat_f32_rne (neg : Bool) {m : Nat} (e : Int) (hm : m ≠ 0) :
    (toFloat F32 .rne 0 false (.fin neg m e)).1 = withSign F32 neg (min (roundGrid F32 .rne 0 neg m e).1 (maxMag F32)) := by
  simp only [toFloat, if_neg hm]
  split
  case isTrue h => simp [min_eq_right h.le]
  case isFalse h => rw [min_eq_left (Nat.le_of_not_lt h)]

theorem roundGrid_f32 (mode : RMode) (u : Nat) (neg : Bool) {m : Nat} {e ex : Int} (hm : m ≠ 0)
    (hex : min (max (m.log2 + e) (-126)) 127 = ex) :
    (roundGrid F32 mode u neg m e).1 = (ex + 126).toNat * 2 ^ 23 + (roundMag mode u neg m e (ex - 23)).1 := by
  have hexp : expOf m e = m.log2 + e := by simp [expOf, bitLen, hm]; omega
  have htop : F32.top = 127 := by decide
  have hgrid : min (max (expOf m e) (1 - (F32.bias : Int))) F32.top = ex := by rw [hexp, htop]; exact hex
  have hfield : ex + F32.bias - 1 = ex + 126 := by rw [show (F32.bias : Int) = 127 from rfl]; omega
  simp only [roundGrid, hgrid, hfield]
  rfl

/-- Is m * 2^e beyond the range of f32, or does it round to 2^128? -/
def beyondF32 (neg : Bool) (m : Nat) (e : Int) : Prop :=
  127 < m.log2 + e ∨ m.log2 + e = 127 ∧ (roundMag .rne 0 neg m e (max (m.log2 + e) (-126) - 23)).1 = 2 ^ 24

theorem toFloat_f32_beyond {neg : Bool} {m : Nat} {e : Int} (hm : m ≠ 0) (h : beyondF32 neg m e) :
    (toFloat F32 .rne 0 false (.fin neg m e)).1 = withSign F32 neg (maxMag F32) := by
  have hge : 2 ^ 24 ≤ (roundMag .rne 0 neg m e (127 - 23)).1 := by
    rcases h with hb | ⟨hb, hn⟩
    · exact two_pow_le_roundMag hm (by omega)
    · rw [hb] at hn
      exact hn.ge
  have hover : maxMag F32 ≤ (roundGrid F32 .rne 0 neg m e).1 := by
    rw [roundGrid_f32 .rne 0 neg hm (ex := 127) (by rcases h with hb | ⟨hb, -⟩ <;> omega), maxMag_f32]
    omega
  rw [toFloat_f32_rne neg e hm, min_eq_right hover]

theorem toFloat_f32_within {neg : Bool} {m : Nat} {e : Int} (hm : m ≠ 0) (h : ¬ beyondF32 neg m e) :
    ∃ m' e', decodeFloat F32 (toFloat F32 .rne 0 false (.fin neg m e)).1 = .fin neg m' e' ∧
      let q := max (m.log2 + e) (-126) - 23
      xeq (.fin neg m' e') (.fin neg (roundMag .rne 0 neg m e q).1 q) = true := by
  obtain ⟨hb, htop⟩ := not_or.mp h
  obtain ⟨j, hj⟩ : ∃ j : Nat, max (m.log2 + e) (-126) = (j : Int) - 126 := ⟨(max (m.log2 + e) (-126) + 126).toNat, by omega⟩
  have hgrid := roundGrid_f32 .rne 0 neg hm (e := e) (ex := (j : Int) - 126) (by omega)
  have hq : (j : Int) - 126 - 23 = j - 149 := by omega
  simp only [hj, hq, Int.sub_add_cancel, Int.toNat_natCast] at htop hgrid ⊢
  have hle : (roundMag .rne 0 neg m e (j - 149)).1 ≤ 2 ^ 24 := roundMag_le_two_pow (by omega)
  have hnormal : j ≠ 0 → 2 ^ 23 ≤ (roundMag .rne 0 neg m e (j - 149)).1 := fun h0 => two_pow_le_roundMag hm (by omega)
  have hmax : j * 2 ^ 23 + (roundMag .rne 0 neg m e (j - 149)).1 ≤ maxMag F32 := by
    rw [maxMag_f32]
    omega
  rw [toFloat_f32_rne neg e hm, hgrid, min_eq_left hmax]
  exact decodeFloat_f32_grid neg hle (fun hlt => by_contra fun h0 => hlt.not_ge (hnormal h0)) hmax

/-! ### The converting read (R224) -/

def Cell.isNeg (k : Cell) : Bool := decide (2 ^ 215 ≤ k.int % 2 ^ 216)

/-- The magnitude of sext(216, INT). -/
def Cell.mag (k : Cell) : Nat := if k.isNeg then 2 ^ 216 - k.int % 2 ^ 216 else k.int % 2 ^ 216

theorem Cell.ofInt_sextN (k : Cell) : XVal.ofInt (sextN 216 k.int) = .fin k.isNeg k.mag 0 := by
  by_cases h : 2 ^ 215 ≤ k.int % 2 ^ 216 <;>
    simp only [XVal.ofInt, sextN, Cell.mag, Cell.isNeg, h, decide_true, decide_false, if_true, if_false, Bool.false_eq_true,
      XVal.fin.injEq]
  · exact ⟨decide_eq_true (by omega), by omega, trivial⟩
  · exact ⟨decide_eq_false (by omega), by omega, trivial⟩

theorem Cell.mag_ne_zero {k : Cell} (h : k.int % 2 ^ 216 ≠ 0) : k.mag ≠ 0 := by
  unfold Cell.mag
  split <;> omega

theorem Cell.read_canonNan {k : Cell} (a : Int) (h : k.init = false ∨ k.nan = true ∨ (k.pinf = true ∧ k.ninf = true)) :
    k.read a = 0x7FC00000 := by
  rcases h with h | h | ⟨hp, hn⟩ <;> simp [Cell.read, *]

section

variable {k : Cell} (a : Int) (hi : k.init = true) (hnan : k.nan = false)

include hi hnan

theorem Cell.read_pinf (hp : k.pinf = true) (hn : k.ninf = false) : k.read a = 0x7F800000 := by
  simp [Cell.read, *]

theorem Cell.read_ninf (hp : k.pinf = false) (hn : k.ninf = true) : k.read a = 0xFF800000 := by
  simp [Cell.read, *]

theorem Cell.read_ovf_or_gx (hp : k.pinf = false) (hn : k.ninf = false) (h : k.ovf = true ∨ k.gx = true) :
    k.read a = 0x7FC00000 := by
  rcases h with h | h <;> simp [Cell.read, *]

theorem Cell.read_number (hp : k.pinf = false) (hn : k.ninf = false) (ho : k.ovf = false) (hg : k.gx = false) :
    k.read a = if k.int % 2 ^ 216 = 0 then 0 else (toFloat F32 .rne 0 false (.fin k.isNeg k.mag a)).1 := by
  have hzero : sextN 216 k.int = 0 ↔ k.int % 2 ^ 216 = 0 := by
    unfold sextN
    split <;> omega
  simp only [Cell.read, hi, hnan, hp, hn, ho, hg, hzero, Cell.ofInt_sextN, XVal.scale, zero_add]
  rfl

end

end Sys2Proof.Machine

namespace Sys2Proof

open Machine

/-- Settles O40: each field of a cell takes its addends in any order, and the read is one rounding onto the grid of f32. -/
theorem cellAdditionsCommute : Obligations.CellAdditionsCommute := by
  refine ⟨fun k x y a => ⟨k.add_comm x y a, by rw [k.add_comm x y a]⟩, fun k a => ?_⟩
  refine ⟨fun n => k.add_nan n a, k.add_inf false a, k.add_inf true a, fun neg m e => ⟨fun h => ?_, fun h => ?_⟩,
    Cell.read_canonNan a, fun hi hn => ⟨Cell.read_pinf a hi hn, Cell.read_ninf a hi hn, Cell.read_ovf_or_gx a hi hn, ?_, ?_⟩,
    fun u => rfl⟩
  · exact Cell.add_over neg h
  · exact Cell.add_within neg h
  · intro hp hm ho hg h0
    rw [Cell.read_number a hi hn hp hm ho hg, if_pos h0]
  · intro hp hm ho hg h0
    rw [Cell.read_number a hi hn hp hm ho hg, if_neg h0]
    exact ⟨fun hb => (toFloat_f32_beyond (Cell.mag_ne_zero h0) hb).trans (withSign_maxMag_f32 _),
      fun hb => toFloat_f32_within (Cell.mag_ne_zero h0) hb⟩

end Sys2Proof

/-! SUPPORT. Numbers by their digits: a value that a loop packs from bytes, words or elements, and the numbers that the memories hold. -/

namespace Sys2Proof.Machine

/-! ### A number from its digits -/

/-- The number whose digit `i` to the base `B` is `g i`, of `n` digits. -/
def packed (B n : Nat) (g : Nat → Nat) : Nat := (List.range n).foldr (fun i acc => g i + B * acc) 0

@[simp] theorem packed_zero (B : Nat) (g : Nat → Nat) : packed B 0 g = 0 := rfl

theorem packed_succ (B n : Nat) (g : Nat → Nat) : packed B (n + 1) g = g 0 + B * packed B n (fun i => g (i + 1)) := by
  simp [packed, List.range_succ_eq_map, List.foldr_map]

theorem packed_congr {B n : Nat} {g h : Nat → Nat} (hgh : ∀ i < n, g i = h i) : packed B n g = packed B n h := by
  induction n generalizing g h with
  | zero => rfl
  | succ n ih => rw [packed_succ, packed_succ, hgh 0 n.succ_pos, ih fun i hi => hgh (i + 1) (Nat.succ_lt_succ hi)]

theorem packed_lt {B n : Nat} {g : Nat → Nat} (hg : ∀ i < n, g i < B) : packed B n g < B ^ n := by
  induction n generalizing g with
  | zero => simp
  | succ n ih =>
    have h0 := hg 0 n.succ_pos
    have hn := ih fun i hi => hg (i + 1) (Nat.succ_lt_succ hi)
    calc packed B (n + 1) g = g 0 + B * packed B n (fun i => g (i + 1)) := packed_succ ..
      _ < B + B * packed B n (fun i => g (i + 1)) := Nat.add_lt_add_right h0 _
      _ = B * (packed B n (fun i => g (i + 1)) + 1) := by ring
      _ ≤ B * B ^ n := Nat.mul_le_mul_left _ hn
      _ = B ^ (n + 1) := (Nat.pow_succ' ..).symm

theorem packed_digit {B n i : Nat} {g : Nat → Nat} (hg : ∀ j < n, g j < B) (hi : i < n) : packed B n g / B ^ i % B = g i := by
  induction n generalizing g i with
  | zero => omega
  | succ n ih =>
    have h0 := hg 0 n.succ_pos
    rw [packed_succ]
    cases i with
    | zero => rw [pow_zero, Nat.div_one, Nat.add_mul_mod_self_left, Nat.mod_eq_of_lt h0]
    | succ i =>
      rw [Nat.pow_succ', ← Nat.div_div_eq_div_mul, Nat.add_mul_div_left _ _ (by omega), Nat.div_eq_of_lt h0, zero_add]
      exact ih (fun j hj => hg (j + 1) (Nat.succ_lt_succ hj)) (Nat.lt_of_succ_lt_succ hi)

/-- The lowest digits of a number are the number modulo a power of the base. -/
theorem packed_digits (B n v : Nat) : packed B n (fun i => v / B ^ i % B) = v % B ^ n := by
  induction n generalizing v with
  | zero => simp [Nat.mod_one]
  | succ n ih =>
    have hshift : ∀ i, v / B ^ (i + 1) % B = v / B / B ^ i % B := fun i => by rw [Nat.pow_succ', Nat.div_div_eq_div_mul]
    rw [packed_succ, packed_congr fun i _ => hshift i, ih, pow_zero, Nat.div_one, Nat.pow_succ', Nat.mod_mul]

/-- Four bytes to a word. -/
theorem packed_words (k : Nat) (g : Nat → Nat) : packed 256 (4 * k) g =
    packed (2 ^ 32) k (fun j => g (4 * j) + 2 ^ 8 * g (4 * j + 1) + 2 ^ 16 * g (4 * j + 2) + 2 ^ 24 * g (4 * j + 3)) := by
  induction k generalizing g with
  | zero => rfl
  | succ k ih =>
    rw [show 4 * (k + 1) = 4 * k + 1 + 1 + 1 + 1 by ring, packed_succ, packed_succ, packed_succ, packed_succ, packed_succ (2 ^ 32), ih]
    simp only [show ∀ j, 4 * (j + 1) = 4 * j + 1 + 1 + 1 + 1 by intro j; ring]
    ring_nf

/-! ### Bytes and elements -/

@[simp] theorem toNat_byteOf (v i : Nat) : (byteOf v i).toNat = v / 256 ^ i % 256 := by
  rw [byteOf, BitVec.toNat_ofNat, Nat.pow_mul]

theorem byteOf_packed {n i : Nat} (g : Nat → Byte) (hi : i < n) : byteOf (packed 256 n fun j => (g j).toNat) i = g i :=
  BitVec.eq_of_toNat_eq (by rw [toNat_byteOf, packed_digit (fun j _ => (g j).isLt) hi])

theorem packed_byteOf (n v : Nat) : packed 256 n (fun i => (byteOf v i).toNat) = v % 256 ^ n := by
  simp only [toNat_byteOf, packed_digits]

theorem elem_packed {w n i : Nat} {g : Nat → Nat} (hg : ∀ j < n, g j < 2 ^ w) (hi : i < n) : elem (packed (2 ^ w) n g) w i = g i := by
  rw [elem, bits, Nat.pow_mul, packed_digit hg hi]

/-- A byte of a row of 32-bit words is a byte of its word. -/
theorem byteOf_packed_word {n i : Nat} {g : Nat → Nat} (hg : ∀ j < n, g j < 2 ^ 32) (hi : i < 4 * n) :
    byteOf (packed (2 ^ 32) n g) i = byteOf (g (i / 4)) (i % 4) := by
  refine BitVec.eq_of_toNat_eq ?_
  have hsplit : (256 : Nat) ^ i = (2 ^ 32) ^ (i / 4) * 256 ^ (i % 4) := by
    conv_lhs => rw [← Nat.div_add_mod i 4, pow_add, pow_mul]
    rfl
  have hbyte : (256 : Nat) ^ 4 = 256 ^ (i % 4) * 256 * 256 ^ (3 - i % 4) := by
    rw [← pow_succ, ← pow_add]
    congr 1
    omega
  rw [toNat_byteOf, toNat_byteOf, hsplit, ← Nat.div_div_eq_div_mul, ← packed_digit hg (show i / 4 < n by omega),
    show (2 : Nat) ^ 32 = 256 ^ 4 from rfl, hbyte, Nat.mul_assoc, Nat.mod_mul_right_div_self, Nat.mod_mul_right_mod]

/-- The words of a number of `n` words do not depend on what lies above them. -/
theorem elem_mod_words {n j : Nat} (v : Nat) (h : j < n) : elem (v % 256 ^ (4 * n)) 32 j = elem v 32 j := by
  obtain ⟨k, rfl⟩ := Nat.exists_eq_add_of_lt h
  have hsplit : (256 : Nat) ^ (4 * (j + k + 1)) = 2 ^ (32 * j) * (2 ^ 32 * 256 ^ (4 * k)) := by
    rw [show (256 : Nat) = 2 ^ 8 from rfl, ← Nat.pow_mul, ← Nat.pow_mul, ← Nat.pow_add, ← Nat.pow_add]
    congr 1
    omega
  rw [elem, elem, bits, bits, hsplit, Nat.mod_mul_right_div_self, Nat.mod_mul_right_mod]

/-! ### Numbers in the memories -/

theorem readLE_packed (m : Memory) (a n : Nat) : readLE m a n = packed 256 n fun i => (mread m (a + i)).toNat := by
  induction n generalizing a with
  | zero => rfl
  | succ n ih => rw [readLE, ih, packed_succ]; simp only [Nat.add_zero, Nat.add_assoc, Nat.add_comm 1]

theorem State.vreadLE_packed (s : State) (x : Ctx) (va n : Nat) :
    s.vreadLE x va n = packed 256 n fun i => (s.vread x (va + i)).toNat := by
  induction n generalizing va with
  | zero => rfl
  | succ n ih => rw [State.vreadLE, ih, packed_succ]; simp only [Nat.add_zero, Nat.add_assoc, Nat.add_comm 1]

theorem packed_bytes_lt (n : Nat) (g : Nat → Byte) : packed 256 n (fun i => (g i).toNat) < 256 ^ n :=
  packed_lt fun i _ => (g i).isLt

theorem readLE_lt (m : Memory) (a n : Nat) : readLE m a n < 256 ^ n := readLE_packed m a n ▸ packed_bytes_lt ..

theorem State.vreadLE_lt (s : State) (x : Ctx) (va n : Nat) : s.vreadLE x va n < 256 ^ n :=
  s.vreadLE_packed x va n ▸ packed_bytes_lt ..

/-- Bytes that read as those of a number read as the number. -/
theorem packed_of_bytes {n v : Nat} {g : Nat → Byte} (h : ∀ i < n, g i = byteOf v i) :
    packed 256 n (fun i => (g i).toNat) = v % 256 ^ n := by
  rw [packed_congr fun i hi => congrArg BitVec.toNat (h i hi), packed_byteOf]

/-- A number written over a range, byte by byte. -/
theorem mread_writeLE {m : Memory} (hw : Memory.wf m = true) (a n v b : Nat) :
    mread (writeLE m a n v) b = if a ≤ b ∧ b < a + n then byteOf v (b - a) else mread m b := by
  split
  · next h =>
    obtain ⟨i, rfl⟩ := Nat.exists_eq_add_of_le h.1
    rw [mread_writeLE_in m a n v i hw (by omega), Nat.add_sub_cancel_left, byteOf, Nat.pow_mul]
  · exact mread_writeLE_out m a n v b (by omega)

end Sys2Proof.Machine

/-! SUPPORT. Bytes of the virtual space by their places (R180, R189): what the use of the caches leaves, and what a number written over
device pages changes. -/

namespace Sys2Proof.Machine

/-! ### What a use of the SLC and the attic leaves (R184, R321) -/

theorem State.hostByte_reachLine (s : State) (fn ln a : Nat) : (s.reachLine fn ln).hostByte a = s.hostByte a := by
  unfold State.hostByte State.reachLine
  by_cases h : a / 64 = ln
  · simp only [h, mfind_mmodify_self]
    cases mfind s.attic ln <;> rfl
  · simp only [mfind_mmodify_ne _ _ h]

theorem State.hostByte_fillAll (s : State) (fn : Nat) (nd : Need) (a : Nat) : (s.fillAll fn nd).hostByte a = s.hostByte a :=
  (foldl_keeps (g := fun t : State => t.hostByte a) (fun t ln => t.hostByte_reachLine fn ln a) _ _).trans
    (foldl_keeps (f := fun (t : State) (u : Touch) => t.fill fn u) (g := fun t : State => t.hostByte a) (fun _ _ => rfl) _ _)

section

variable (s : State) (fn : Nat) (nd : Need)

/-- A use of the caches leaves contexts, tiles, host memory and the device memory with its keys. -/
theorem State.fillAll_leaves : (s.fillAll fn nd).ctxs = s.ctxs ∧ (s.fillAll fn nd).tiles = s.tiles ∧
    (s.fillAll fn nd).hostMem = s.hostMem ∧ (s.fillAll fn nd).dev = s.dev ∧ (s.fillAll fn nd).seals = s.seals ∧
    (s.fillAll fn nd).frameKey = s.frameKey ∧ (s.fillAll fn nd).keyGen = s.keyGen := by
  obtain ⟨q, a, h⟩ := s.fillAll_only fn nd
  rw [h]
  exact ⟨rfl, rfl, rfl, rfl, rfl, rfl, rfl⟩

@[simp] theorem State.fillAll_ctx (c : Nat) : (s.fillAll fn nd).ctx c = s.ctx c :=
  congrArg (mgetD · c Ctx.reset) (s.fillAll_leaves fn nd).1
@[simp] theorem State.fillAll_tile (t : Nat) : (s.fillAll fn nd).tile t = s.tile t := by
  obtain ⟨q, a, h⟩ := s.fillAll_only fn nd
  rw [h]
  rfl
@[simp] theorem State.fillAll_hostMem : (s.fillAll fn nd).hostMem = s.hostMem := (s.fillAll_leaves fn nd).2.2.1
@[simp] theorem State.fillAll_dev : (s.fillAll fn nd).dev = s.dev := (s.fillAll_leaves fn nd).2.2.2.1

theorem State.devByte_fillAll (a : Nat) : (s.fillAll fn nd).devByte a = s.devByte a := by
  obtain ⟨q, l, h⟩ := s.fillAll_only fn nd
  rw [h]
  rfl

/-- A use of the caches brings no line into the attic and drops none. -/
theorem State.attic_fillAll (ln : Nat) : (mfind (s.fillAll fn nd).attic ln).isSome = (mfind s.attic ln).isSome := by
  have hreach : ∀ (t : State) (k : Nat), (mfind (t.reachLine fn k).attic ln).isSome = (mfind t.attic ln).isSome := fun t k => by
    unfold State.reachLine
    by_cases h : ln = k
    · rw [h, mfind_mmodify_self, Option.isSome_map]
    · rw [mfind_mmodify_ne _ _ h]
  exact (foldl_keeps (g := fun t : State => (mfind t.attic ln).isSome) hreach _ _).trans
    (foldl_keeps (f := fun (t : State) (u : Touch) => t.fill fn u) (g := fun t : State => (mfind t.attic ln).isSome) (fun _ _ => rfl) _ _)

theorem State.placeByte_fillAll (w : Nat × Nat) : (s.fillAll fn nd).placeByte w = s.placeByte w := by
  obtain ⟨m, a⟩ := w
  match m with
  | 0 => exact s.devByte_fillAll fn nd a
  | 1 => exact s.hostByte_fillAll fn nd a
  | t + 2 => exact congrArg (fun u : Tile => mread u.sp a) (s.fillAll_tile fn nd t)

end

/-! ### A byte of the virtual space is the byte at its place -/

theorem State.vread_placeByte (s : State) (x : Ctx) (c va : Nat) :
    s.vread x va = ((x.placeOf c .virt va).map s.placeByte).getD blank := by
  unfold State.vread Ctx.placeOf
  cases x.pageOf va with
  | none => rfl
  | some e => by_cases h : entRoute e = 0 <;> simp [h, State.placeByte]

/-- States that agree on every place read the same numbers. -/
theorem State.vreadLE_congr {s t : State} (h : ∀ w, t.placeByte w = s.placeByte w) (x : Ctx) (va n : Nat) :
    t.vreadLE x va n = s.vreadLE x va n := by
  simp only [State.vreadLE_packed, State.vread_placeByte _ x 0, funext h]

@[simp] theorem State.vread_fillAll (s : State) (fn : Nat) (nd : Need) (x : Ctx) (va : Nat) :
    (s.fillAll fn nd).vread x va = s.vread x va := by
  simp only [State.vread_placeByte _ x 0, funext (s.placeByte_fillAll fn nd)]

@[simp] theorem State.vreadLE_fillAll (s : State) (fn : Nat) (nd : Need) (x : Ctx) (va n : Nat) :
    (s.fillAll fn nd).vreadLE x va n = s.vreadLE x va n := State.vreadLE_congr (s.placeByte_fillAll fn nd) x va n

/-! ### Writes of device memory depend on nothing of the caches -/

/-- Device memory and what its bytes stand under. -/
def State.devSide (s : State) : Memory × AMap Seal × AMap Nat × AMap Nat := (s.dev, s.seals, s.frameKey, s.keyGen)

theorem State.devSide_eq {s t : State} (h : t.devSide = s.devSide) :
    t.dev = s.dev ∧ t.seals = s.seals ∧ t.foreign = s.foreign ∧ t.text = s.text := by
  simp only [State.devSide, Prod.mk.injEq] at h
  obtain ⟨hd, hz, hf, hg⟩ := h
  have hfor : t.foreign = s.foreign := by
    funext u
    unfold State.foreign State.genOf
    rw [hz, hf, hg]
  refine ⟨hd, hz, hfor, ?_⟩
  funext a n
  simp only [State.text, State.devByte, hd, hz, hfor]

theorem State.devSide_claim {s t : State} (h : t.devSide = s.devSide) (u : Nat) : (t.claim u).devSide = (s.claim u).devSide := by
  obtain ⟨hd, hz, hf, ht⟩ := State.devSide_eq h
  unfold State.claim
  rw [hf]
  split
  · exact h
  · simp only [State.devSide, Prod.mk.injEq] at h ⊢
    rw [ht, hz]
    exact ⟨rfl, rfl, h.2.2⟩

theorem State.devSide_hostSet (s : State) (a : Nat) (b : Byte) : (s.hostSet a b).devSide = s.devSide := by
  have hback : ∀ (u : State) (ln : Nat) (l : Line), (u.writeBack ln l).devSide = u.devSide := fun u ln l => by
    unfold State.writeBack
    split <;> rfl
  have hsnoop : ∀ ln inv, (s.snooped ln inv).devSide = s.devSide := fun ln inv => by
    unfold State.snooped
    split
    · rfl
    · exact hback s ln _
  unfold State.hostSet
  split
  · exact hsnoop _ _
  · rfl

theorem State.devSide_atticSet (s : State) (fn a : Nat) (b : Byte) : (s.atticSet fn a b).devSide = s.devSide := by
  unfold State.atticSet
  split <;> rfl

theorem State.devSide_vwrite {s t : State} (h : t.devSide = s.devSide) (x : Ctx) (va : Nat) (b : Byte) :
    (t.vwrite x va b).devSide = (s.vwrite x va b).devSide := by
  unfold State.vwrite
  split
  · exact h
  · next e _ =>
    dsimp only
    split
    · have hc := State.devSide_claim h (entPhys e va / 64)
      simp only [State.devSide, Prod.mk.injEq] at hc ⊢
      exact ⟨by rw [hc.1], hc.2⟩
    · rw [State.devSide_hostSet, State.devSide_hostSet, h]
    · rw [State.devSide_atticSet, State.devSide_atticSet, h]

theorem State.devSide_vwriteLE {s t : State} (h : t.devSide = s.devSide) (x : Ctx) (va n v : Nat) :
    (t.vwriteLE x va n v).devSide = (s.vwriteLE x va n v).devSide := by
  induction n generalizing s t va v with
  | zero => exact h
  | succ n ih => exact ih (State.devSide_vwrite h x va _) (va + 1) (v / 256)

theorem State.devSide_fillAll (s : State) (fn : Nat) (nd : Need) : (s.fillAll fn nd).devSide = s.devSide := by
  obtain ⟨q, a, h⟩ := s.fillAll_only fn nd
  rw [h]
  rfl

/-- What is written to device memory after a use of the caches. -/
theorem State.vwriteLE_fillAll_dev (s : State) (fn : Nat) (nd : Need) (x : Ctx) (va n v : Nat) :
    ((s.fillAll fn nd).vwriteLE x va n v).dev = (s.vwriteLE x va n v).dev :=
  congrArg Prod.fst (State.devSide_vwriteLE (s.devSide_fillAll fn nd) x va n v)

/-! ### What a write of the virtual space leaves -/

theorem State.vwrite_leaves (s : State) (x : Ctx) (va : Nat) (b : Byte) :
    (s.vwrite x va b).ctxs = s.ctxs ∧ (s.vwrite x va b).tiles = s.tiles := by
  unfold State.vwrite
  split
  · exact ⟨rfl, rfl⟩
  · next e _ =>
    dsimp only
    split
    · exact ⟨s.claim_ctxs _, s.claim_tiles _⟩
    · have ht := (State.tasks_iff s _).mp (s.tasks_hostSet (entPhys e va) b)
      exact ⟨ht.2.1, ht.2.2.1⟩
    · unfold State.atticSet
      split <;> exact ⟨rfl, rfl⟩

theorem State.vwriteLE_leaves (s : State) (x : Ctx) (va n v : Nat) :
    (s.vwriteLE x va n v).ctxs = s.ctxs ∧ (s.vwriteLE x va n v).tiles = s.tiles := by
  induction n generalizing s va v with
  | zero => exact ⟨rfl, rfl⟩
  | succ n ih =>
    obtain ⟨hc, ht⟩ := s.vwrite_leaves x va (BitVec.ofNat 8 v)
    obtain ⟨hc', ht'⟩ := ih (s.vwrite x va (BitVec.ofNat 8 v)) (va + 1) (v / 256)
    exact ⟨hc'.trans hc, ht'.trans ht⟩

@[simp] theorem State.vwriteLE_ctx (s : State) (x : Ctx) (va n v c : Nat) : (s.vwriteLE x va n v).ctx c = s.ctx c :=
  congrArg (mgetD · c Ctx.reset) (s.vwriteLE_leaves x va n v).1

/-! ### A number written over device pages (R181, R182) -/

/-- The addresses of a range lie on device pages, each at a place of its own. -/
def Ctx.devRange (x : Ctx) (a n : Nat) : Prop :=
  (∀ j < n, ∃ e, x.pageOf (a + j) = some e ∧ entRoute e = 0) ∧
    ∀ j < n, ∀ k < n, x.placeOf 0 .virt (a + j) = x.placeOf 0 .virt (a + k) → j = k

theorem Ctx.devRange_place {x : Ctx} {a n j : Nat} (h : x.devRange a n) (hj : j < n) :
    ∃ p, x.placeOf 0 .virt (a + j) = some (0, p) := by
  obtain ⟨e, he, hr⟩ := h.1 j hj
  exact ⟨entPhys e (a + j), by simp [Ctx.placeOf, he, hr]⟩

/-- A part of such a range is one. -/
theorem Ctx.devRange_part {x : Ctx} {a n : Nat} (h : x.devRange a n) {i m : Nat} (him : i + m ≤ n) : x.devRange (a + i) m := by
  obtain ⟨hmap, hinj⟩ := h
  refine ⟨fun j hj => ?_, fun j hj k hk he => ?_⟩
  · simpa only [Nat.add_assoc] using hmap (i + j) (by omega)
  · have := hinj (i + j) (by omega) (i + k) (by omega) (by simpa only [Nat.add_assoc] using he)
    omega

/-- A byte written to a device page stands at its place, and no other place changes. -/
theorem State.placeByte_vwrite {s : State} (h : Memory.wf s.dev = true) {x : Ctx} {va p : Nat}
    (hp : x.placeOf 0 .virt va = some (0, p)) (b : Byte) :
    Memory.wf (s.vwrite x va b).dev = true ∧
      ∀ w, (s.vwrite x va b).placeByte w = if w = (0, p) then b else s.placeByte w := by
  obtain ⟨e, he, hw⟩ := Option.map_eq_some_iff.mp hp
  obtain ⟨hspace, rfl⟩ := Prod.mk.inj hw
  have hr : entRoute e = 0 := by by_contra hne; simp [hne] at hspace
  have hc : s.claimRange (entPhys e va) 1 = s.claim (entPhys e va / 64) := by
    unfold State.claimRange sectorsOf
    split
    · next hs =>
      exact (s.claim_of_own (s.foreign_of_noSeal (by rw [List.isEmpty_iff.mp hs]; rfl))).symm
    · simp
  have hd : s.vwrite x va b = { s.claimRange (entPhys e va) 1 with dev := mwrite (s.claimRange (entPhys e va) 1).dev (entPhys e va) b } := by
    simp only [State.vwrite, he, hr, hc]
  have hwf := State.wf_claimRange h (entPhys e va) 1
  obtain ⟨d, z, honly⟩ := s.claimRange_only (entPhys e va) 1
  rw [hd]
  refine ⟨wf_mwrite _ _ hwf, fun w => ?_⟩
  obtain ⟨m, q⟩ := w
  match m with
  | 0 =>
    have hbyte := State.devByte_written h (a := entPhys e va) (n := 1) (d := mwrite (s.claimRange (entPhys e va) 1).dev (entPhys e va) b)
      (fun b' hb' => mread_mwrite_ne _ _ (by omega)) q
    refine hbyte.trans ?_
    by_cases hq : q = entPhys e va
    · subst hq
      rw [if_pos (by omega), if_pos rfl, mread_mwrite_self _ _ hwf]
    · rw [if_neg (by omega), if_neg (by simpa using hq)]
      rfl
  | 1 => rw [honly]; rfl
  | t + 2 => rw [honly]; rfl

/-- A number written over device pages: its bytes stand at their places, and no other place changes. -/
theorem State.placeByte_vwriteLE {s : State} (h : Memory.wf s.dev = true) {x : Ctx} {a n : Nat} (hr : x.devRange a n) (v : Nat) :
    Memory.wf (s.vwriteLE x a n v).dev = true ∧
      (∀ j < n, ∀ w, x.placeOf 0 .virt (a + j) = some w → (s.vwriteLE x a n v).placeByte w = byteOf v j) ∧
      ∀ w, (∀ j < n, x.placeOf 0 .virt (a + j) ≠ some w) → (s.vwriteLE x a n v).placeByte w = s.placeByte w := by
  induction n generalizing s a v with
  | zero => exact ⟨h, fun j hj => absurd hj j.not_lt_zero, fun _ _ => rfl⟩
  | succ n ih =>
    obtain ⟨p, hp⟩ := Ctx.devRange_place hr n.succ_pos
    obtain ⟨hwf, hone⟩ := State.placeByte_vwrite h hp (BitVec.ofNat 8 v)
    have hrest : x.devRange (a + 1) n := Ctx.devRange_part hr (by omega)
    obtain ⟨hw, hin, hout⟩ := ih hwf hrest (v / 256)
    have hshift : ∀ j, a + 1 + j = a + (j + 1) := fun j => by omega
    refine ⟨hw, fun j hj w hjw => ?_, fun w hnot => ?_⟩
    · cases j with
      | zero =>
        refine (hout w fun k hk hkw => ?_).trans ?_
        · have := hr.2 0 (by omega) (k + 1) (by omega) (hjw.trans (hshift k ▸ hkw).symm)
          omega
        · rw [hone, if_pos (Option.some.inj (hjw.symm.trans hp)), byteOf, Nat.mul_zero, pow_zero, Nat.div_one]
      | succ j =>
        refine (hin j (by omega) w ((hshift j).symm ▸ hjw)).trans (BitVec.eq_of_toNat_eq ?_)
        rw [toNat_byteOf, toNat_byteOf, Nat.pow_succ', Nat.div_div_eq_div_mul]
    · refine (hout w fun j hj => (hshift j).symm ▸ hnot (j + 1) (by omega)).trans ?_
      rw [hone, if_neg]
      rintro rfl
      exact hnot 0 (by omega) hp

/-- A number written over device pages reads back. -/
theorem State.vreadLE_vwriteLE {s : State} (h : Memory.wf s.dev = true) {x : Ctx} {a n : Nat} (hr : x.devRange a n) (v : Nat) :
    (s.vwriteLE x a n v).vreadLE x a n = v % 256 ^ n := by
  rw [State.vreadLE_packed]
  refine packed_of_bytes fun j hj => ?_
  obtain ⟨p, hp⟩ := Ctx.devRange_place hr hj
  rw [State.vread_placeByte _ x 0, hp]
  exact (State.placeByte_vwriteLE h hr v).2.1 j hj _ hp

/-- Words written over device pages read back, each as its element. -/
theorem State.elem_vwriteLE {s : State} (h : Memory.wf s.dev = true) {x : Ctx} {a n j : Nat} (hr : x.devRange a (4 * n)) (v : Nat)
    (hj : j < n) : elem ((s.vwriteLE x a (4 * n) v).vreadLE x a (4 * n)) 32 j = elem v 32 j := by
  rw [State.vreadLE_vwriteLE h hr, elem_mod_words v hj]

/-- A range reads as before where none of its places has changed. -/
theorem State.vreadLE_of_places {s t : State} {x : Ctx} {a n : Nat} (hr : x.devRange a n)
    (h : ∀ j < n, ∀ w, x.placeOf 0 .virt (a + j) = some w → t.placeByte w = s.placeByte w) : t.vreadLE x a n = s.vreadLE x a n := by
  rw [State.vreadLE_packed, State.vreadLE_packed]
  refine packed_congr fun j hj => ?_
  obtain ⟨p, hp⟩ := Ctx.devRange_place hr hj
  rw [State.vread_placeByte _ x 0, State.vread_placeByte _ x 0, hp]
  exact congrArg BitVec.toNat (h j hj _ hp)

end Sys2Proof.Machine

/-! SUPPORT. Updates of a tile's own scratchpad that come before the stores of their context (R200, R212), and atomics of records
(R253, R324, R325). -/

namespace Sys2Proof.Machine

/-! ### What an update of the own scratchpad reads -/

/-- A byte as an update finds it: what a later store of its context has taken was kept. -/
def keptByte (sp : Memory) (ks : List Kept) (b : Nat) : Byte :=
  ((ks.find? (fun k => k.at' == b)).map (·.val)).getD (mread sp b)

theorem keptByte_none {ks : List Kept} {b : Nat} (h : ks.find? (fun k => k.at' == b) = none) (sp : Memory) :
    keptByte sp ks b = mread sp b := by
  rw [keptByte, h]
  rfl

theorem keptLE_packed (sp : Memory) (ks : List Kept) (a n : Nat) :
    keptLE sp ks a n = packed 256 n fun i => (keptByte sp ks (a + i)).toNat := by
  unfold keptLE
  split
  · next h => rw [List.isEmpty_iff.mp h, readLE_packed]; rfl
  · rfl

/-! ### What an update of the own scratchpad writes -/

section

variable (c : Nat) (post : Bool) (ks : List Kept) (a v : Nat)

/-- One byte of an update: under the store that has taken its place, or in the scratchpad. -/
def State.updateByte (s : State) (i : Nat) : State :=
  match ks.find? (fun k => k.at' == a + i) with
  | some k => s.setCtx c ((s.ctx c).underStore post k (byteOf v i))
  | none => s.spSet (tileOf c) (a + i) (byteOf v i)

/-- The bytes of an update one after another. -/
def State.updateBytes (s : State) (n : Nat) : State := (List.range n).foldl (State.updateByte c post ks a v) s

theorem State.updateBytes_succ (s : State) (n : Nat) :
    s.updateBytes c post ks a v (n + 1) = (s.updateBytes c post ks a v n).updateByte c post ks a v n := by
  simp [State.updateBytes, List.range_succ]

theorem State.ownUpdate_nil (s : State) (n : Nat) : s.ownUpdate c post [] a n v = s.spWriteLE (tileOf c) a n v := rfl

theorem State.ownUpdate_kept {ks : List Kept} (h : ks ≠ []) (s : State) (n : Nat) :
    s.ownUpdate c post ks a n v = s.updateBytes c post ks a v n := by
  unfold State.ownUpdate
  rw [if_neg (by simpa using h)]
  rfl

/-- A byte lands in the scratchpad unless a store has taken its place. -/
theorem State.updateByte_sp {s : State} (hw : Memory.wf (s.tile (tileOf c)).sp = true) (i : Nat) :
    let t := s.updateByte c post ks a v i
    Memory.wf (t.tile (tileOf c)).sp = true ∧ ∀ b, mread (t.tile (tileOf c)).sp b =
      if b = a + i ∧ ks.find? (fun k => k.at' == b) = none then byteOf v i else mread (s.tile (tileOf c)).sp b := by
  intro t
  simp only [t, State.updateByte]
  split
  · next k hk =>
    refine ⟨hw, fun b => ?_⟩
    rw [if_neg]
    · rfl
    · rintro ⟨rfl, hn⟩
      exact nomatch hk.symm.trans hn
  · next hk =>
    refine ⟨by simpa [State.spSet] using wf_mwrite _ _ hw, fun b => ?_⟩
    rw [State.mread_spSet hw]
    by_cases hb : b = a + i
    · subst hb
      rw [if_pos rfl, if_pos ⟨rfl, hk⟩]
    · rw [if_neg hb, if_neg (fun h => hb h.1)]

/-- So do all bytes of an update. -/
theorem State.updateBytes_sp {s : State} (hw : Memory.wf (s.tile (tileOf c)).sp = true) (n : Nat) :
    let t := s.updateBytes c post ks a v n
    Memory.wf (t.tile (tileOf c)).sp = true ∧ ∀ b, mread (t.tile (tileOf c)).sp b =
      if a ≤ b ∧ b < a + n ∧ ks.find? (fun k => k.at' == b) = none then byteOf v (b - a) else mread (s.tile (tileOf c)).sp b := by
  induction n with
  | zero => exact ⟨hw, fun b => (if_neg (by omega)).symm⟩
  | succ n ih =>
    obtain ⟨hwf, hb⟩ := ih
    obtain ⟨hwf', hb'⟩ := State.updateByte_sp c post ks a v hwf n
    rw [State.updateBytes_succ]
    refine ⟨hwf', fun b => ?_⟩
    rw [hb', hb]
    by_cases hbn : b = a + n
    · subst hbn
      rw [Nat.add_sub_cancel_left]
      by_cases hk : ks.find? (fun k => k.at' == a + n) = none
      · rw [if_pos ⟨rfl, hk⟩, if_pos ⟨by omega, by omega, hk⟩]
      · rw [if_neg (fun h => hk h.2), if_neg (fun h => hk h.2.2), if_neg (fun h => hk h.2.2)]
    · rw [if_neg (fun h => hbn h.1)]
      by_cases hk : a ≤ b ∧ b < a + n ∧ ks.find? (fun k => k.at' == b) = none
      · rw [if_pos hk, if_pos ⟨hk.1, by omega, hk.2.2⟩]
      · rw [if_neg hk, if_neg (fun h => hk ⟨h.1, by omega, h.2.2⟩)]

theorem State.ownUpdate_sp {s : State} (hw : Memory.wf (s.tile (tileOf c)).sp = true) (n : Nat) :
    let t := s.ownUpdate c post ks a n v
    Memory.wf (t.tile (tileOf c)).sp = true ∧ ∀ b, mread (t.tile (tileOf c)).sp b =
      if a ≤ b ∧ b < a + n ∧ ks.find? (fun k => k.at' == b) = none then byteOf v (b - a) else mread (s.tile (tileOf c)).sp b := by
  by_cases hks : ks = []
  · subst hks
    simp only [State.ownUpdate_nil, State.spWriteLE, State.tile_setTile, List.find?_nil, and_true]
    exact ⟨wf_writeLE _ _ _ hw, mread_writeLE hw a n v⟩
  · rw [State.ownUpdate_kept c post a v hks]
    exact State.updateBytes_sp c post ks a v hw n

/-- An update changes nothing of its context but what updates keep and what a rollback of a store restores. -/
theorem State.updateByte_done (s : State) (i : Nat) : ((s.updateByte c post ks a v i).ctx c).done = (s.ctx c).done := by
  unfold State.updateByte
  split
  · rw [State.ctx_setCtx]
    rfl
  · rfl

theorem State.ownUpdate_done (s : State) (n : Nat) : ((s.ownUpdate c post ks a n v).ctx c).done = (s.ctx c).done := by
  by_cases hks : ks = []
  · subst hks
    rfl
  · rw [State.ownUpdate_kept c post a v hks]
    exact foldl_keeps (g := fun t : State => (t.ctx c).done) (fun t i => t.updateByte_done c post ks a v i) _ s

end

/-! ### A record that gives its old word (R253, R347) -/

/-- A sample changes nothing but the monitors of its tile. -/
theorem State.sample_cases (s : State) (c q v : Nat) :
    s.sample c q v = s ∨ ∃ ms, s.sample c q v = s.setTile (tileOf c) { s.tile (tileOf c) with monitors := ms } := by
  by_cases h : (s.tile (tileOf c)).monitors.all (fun m => m.on != some (planeOf c, q)) = true
  · exact .inl (if_pos h)
  · exact .inr ⟨_, if_neg h⟩

theorem State.sample_ctx (s : State) (c q v d : Nat) : (s.sample c q v).ctx d = s.ctx d := by
  rcases s.sample_cases c q v with h | ⟨ms, h⟩ <;> rw [h]
  rfl

theorem State.sample_sp (s : State) (c q v t : Nat) : ((s.sample c q v).tile t).sp = (s.tile t).sp := by
  rcases s.sample_cases c q v with h | ⟨ms, h⟩ <;> rw [h]
  by_cases ht : t = tileOf c
  · rw [ht, State.tile_setTile]
  · rw [State.tile_setTile_ne _ _ ht]

theorem State.sample_only (s : State) (c q v : Nat) : ∃ ts, s.sample c q v = { s with tiles := ts } := by
  rcases s.sample_cases c q v with h | ⟨ms, h⟩ <;> exact ⟨_, h⟩

theorem State.spWriteLE_sp (s : State) (t a n v u : Nat) :
    ((s.spWriteLE t a n v).tile u).sp = if u = t then writeLE (s.tile t).sp a n v else (s.tile u).sp := by
  unfold State.spWriteLE
  split
  · next h => rw [h, State.tile_setTile]
  · next h => rw [State.tile_setTile_ne _ _ h]

/-- A record has left its channel, and DONE counts its stream. -/
def State.recLeft (s : State) (c : Nat) (r : CopyRec) (t : State) : Prop :=
  (∀ q ∈ (t.ctx c).recs, q.seq ≠ r.seq) ∧ mgetD (t.ctx c).done r.ch 0 = (mgetD (s.ctx c).done r.ch 0 + r.stream) % 2 ^ 64

section

variable (s : State) (c : Nat) (r : CopyRec) (old : Nat)

theorem State.giveOld_eq : s.giveOld c r old = ((if r.nores then s else s.spWriteLE (tileOf c) r.src r.width old).setCtx c
    (((s.ctx c).deliverDone r.ch r.stream).dropRec r.seq)).sample c 1 (s.cycle - r.pushed) := by
  unfold State.giveOld State.finishRec
  have hctx : (s.spWriteLE (tileOf c) r.src r.width old).ctx c = s.ctx c := rfl
  cases r.nores <;> simp only [Bool.false_eq_true, if_true, if_false, State.ctx_setCtx, State.setCtx_setCtx, hctx] <;> rfl

theorem State.giveOld_ctx : (s.giveOld c r old).ctx c = ((s.ctx c).deliverDone r.ch r.stream).dropRec r.seq := by
  rw [State.giveOld_eq, State.sample_ctx, State.ctx_setCtx]

theorem State.giveOld_only : ∃ cs ts, s.giveOld c r old = { s with ctxs := cs, tiles := ts } := by
  rw [State.giveOld_eq]
  obtain ⟨ts, hts⟩ := State.sample_only ((if r.nores then s else s.spWriteLE (tileOf c) r.src r.width old).setCtx c
    (((s.ctx c).deliverDone r.ch r.stream).dropRec r.seq)) c 1 (s.cycle - r.pushed)
  rw [hts]
  cases r.nores <;> exact ⟨_, _, rfl⟩

theorem State.giveOld_sp (t : Nat) : ((s.giveOld c r old).tile t).sp =
    if r.nores = false ∧ t = tileOf c then writeLE (s.tile t).sp r.src r.width old else (s.tile t).sp := by
  rw [State.giveOld_eq, State.sample_sp, State.tile_setCtx]
  cases r.nores with
  | true => simp
  | false =>
    rw [if_neg (by decide), State.spWriteLE_sp]
    by_cases ht : t = tileOf c
    · rw [if_pos ht, if_pos ⟨rfl, ht⟩, ht]
    · rw [if_neg ht, if_neg (fun h => ht h.2)]

@[simp] theorem State.giveOld_dev : (s.giveOld c r old).dev = s.dev := by
  obtain ⟨cs, ts, h⟩ := s.giveOld_only c r old
  rw [h]

@[simp] theorem State.giveOld_hostMem : (s.giveOld c r old).hostMem = s.hostMem := by
  obtain ⟨cs, ts, h⟩ := s.giveOld_only c r old
  rw [h]

@[simp] theorem State.giveOld_attic : (s.giveOld c r old).attic = s.attic := by
  obtain ⟨cs, ts, h⟩ := s.giveOld_only c r old
  rw [h]

@[simp] theorem State.giveOld_hostByte (a : Nat) : (s.giveOld c r old).hostByte a = s.hostByte a := by
  simp only [State.hostByte, State.giveOld_attic, State.giveOld_hostMem]

/-- The record leaves its channel. -/
theorem State.giveOld_left {s' : State} (h : (s'.ctx c).done = (s.ctx c).done) : s.recLeft c r (s'.giveOld c r old) := by
  rw [State.recLeft, State.giveOld_ctx]
  exact ⟨fun q hq => bne_iff_ne.mp (List.mem_filter.mp hq).2,
    (mgetD_mput_self ..).trans (congrArg (fun m => (mgetD m r.ch 0 + r.stream) % 2 ^ 64) h)⟩

/-- This tile gets the old word. -/
theorem State.giveOld_result (hw : Memory.wf (s.tile (tileOf c)).sp = true) (hn : r.nores = false) :
    readLE ((s.giveOld c r old).tile (tileOf c)).sp r.src r.width = old % 256 ^ r.width := by
  rw [State.giveOld_sp, if_pos ⟨hn, rfl⟩, readLE_writeLE _ _ _ _ hw]

end

/-- A record whose homes are ready goes on. -/
theorem State.withNeed_ready {s : State} {c : Nat} {r : CopyRec} {nd : Need} (hf : nd.fault = none)
    (hh : nd.holds r.host.isAnswered = false) (ha : s.admitted c (some r.seq) nd = true) (k : State → State) :
    s.withNeed c r nd k = k (s.fillAll (s.ctx c).tenant nd) := by
  simp [State.withNeed, hf, hh, ha]

/-! ### Atomics on a tile (R253) -/

section

variable {s : State} {c : Nat} {ch : Chan} {r : CopyRec} (hr : (s.ctx c).headRec ch.val = some r) (hk : r.kind = 4)
  (hb : s.recBlocked c (s.ctx c) r = false)

include hr hk hb

theorem exec_remoteAtomic_own (hd : r.dloc = .sp) (hbad : (s.tile (tileOf c)).firstBad [(r.dst, r.width)] = none) :
    let old := keptLE (s.tile (tileOf c)).sp r.kept r.dst r.width
    exec (.remoteAtomicPerform c ch) s = .next (((r.newWord old).elim s (s.ownUpdate c r.post r.kept r.dst r.width)).giveOld c r old) := by
  intro old
  change execRemoteAtomicPerform c ch s = _
  simp only [execRemoteAtomicPerform, hr, hk, hb, hd, hbad]
  cases hn : r.newWord old <;> simp [hn, old]

theorem exec_remoteAtomic_tile {m : Nat} (hd : r.dloc = .tile m) (hbad : (s.tile m).firstBad [(r.dst, r.width)] = none) :
    let old := readLE (s.tile m).sp r.dst r.width
    exec (.remoteAtomicPerform c ch) s = .next (((r.newWord old).elim s (s.spWriteLE m r.dst r.width)).giveOld c r old) := by
  intro old
  change execRemoteAtomicPerform c ch s = _
  simp only [execRemoteAtomicPerform, hr, hk, hb, hd, hbad]
  cases hn : r.newWord old <;> simp [hn, old]

theorem exec_remoteAtomic_virt (hd : r.dloc = .virt) (hready : ∀ k, s.withNeed c r (s.rangeNeed (s.ctx c) true true r.dst r.width) k =
    k (s.fillAll (s.ctx c).tenant (s.rangeNeed (s.ctx c) true true r.dst r.width))) :
    exec (.remoteAtomicPerform c ch) s =
      .next ((s.fillAll (s.ctx c).tenant (s.rangeNeed (s.ctx c) true true r.dst r.width)).virtAtomic c (s.ctx c) r) := by
  change execRemoteAtomicPerform c ch s = _
  simp only [execRemoteAtomicPerform, hr, hk, hb, hd, hready]
  rfl

end

end Sys2Proof.Machine

/-! SUPPORT. Atomics of records on the virtual space and in the attic (R324, R325, R480). -/

namespace Sys2Proof.Machine

/-! ### Bytes of a line -/

/-- A digit of a number with one digit replaced. -/
theorem digit_replace {B i j d b : Nat} (hb : b < B) :
    (d - d / B ^ i % B * B ^ i + b * B ^ i) / B ^ j % B = if j = i then b else d / B ^ j % B := by
  have hB : 0 < B := by omega
  have hpos : 0 < B ^ i := Nat.pow_pos hB
  -- Below the digit, the digit, and above it.
  obtain ⟨l, hl, g, hg, h, rfl⟩ : ∃ l < B ^ i, ∃ g < B, ∃ h, d = l + B ^ i * (g + B * h) :=
    ⟨d % B ^ i, Nat.mod_lt _ hpos, d / B ^ i % B, Nat.mod_lt _ hB, d / B ^ i / B, by
      rw [Nat.mod_add_div, Nat.mod_add_div]⟩
  have hparts : ∀ k, (l + B ^ i * k) / B ^ i = k := fun k => by
    rw [Nat.add_mul_div_left _ _ hpos, Nat.div_eq_of_lt hl, zero_add]
  have hset : l + B ^ i * (g + B * h) - (l + B ^ i * (g + B * h)) / B ^ i % B * B ^ i + b * B ^ i = l + B ^ i * (b + B * h) := by
    rw [hparts, Nat.add_mul_mod_self_left, Nat.mod_eq_of_lt hg]
    have : B ^ i * (g + B * h) = g * B ^ i + B ^ i * (B * h) := by ring
    have : B ^ i * (b + B * h) = b * B ^ i + B ^ i * (B * h) := by ring
    omega
  rw [hset]
  rcases Nat.lt_trichotomy j i with hj | rfl | hj
  · rw [if_neg (by omega)]
    obtain ⟨k, rfl⟩ := Nat.exists_eq_add_of_lt hj
    have hlow : ∀ q, (l + B ^ (j + k + 1) * q) / B ^ j % B = l / B ^ j % B := fun q => by
      rw [show B ^ (j + k + 1) * q = B ^ j * (B * (B ^ k * q)) by ring, Nat.add_mul_div_left _ _ (Nat.pow_pos hB),
        Nat.add_mul_mod_self_left]
    rw [hlow, hlow]
  · rw [if_pos rfl, hparts, Nat.add_mul_mod_self_left, Nat.mod_eq_of_lt hb]
  · rw [if_neg (by omega)]
    obtain ⟨k, rfl⟩ := Nat.exists_eq_add_of_lt hj
    have hhigh : ∀ q < B, (l + B ^ i * (q + B * h)) / B ^ (i + k + 1) = h / B ^ k := fun q hq => by
      rw [show B ^ (i + k + 1) = B ^ i * (B * B ^ k) by ring, ← Nat.div_div_eq_div_mul, hparts, ← Nat.div_div_eq_div_mul,
        Nat.add_mul_div_left _ _ hB, Nat.div_eq_of_lt hq, zero_add]
    rw [hhigh b hb, hhigh g hg]

theorem lineByte_lineSet (d i j : Nat) (b : Byte) : lineByte (lineSet d i b) j = if j = i then b else lineByte d j := by
  have h := digit_replace (B := 256) (i := i) (j := j) (d := d) b.isLt
  refine BitVec.eq_of_toNat_eq ?_
  simp only [lineByte, lineSet, Nat.pow_mul, BitVec.toNat_ofNat, show (2 : Nat) ^ 8 = 256 from rfl, h]
  split
  · rfl
  · rw [BitVec.toNat_ofNat]

/-! ### Writes in an attic line (R320) -/

/-- A write in a line that the attic holds changes its byte and no other, and leaves the line in M. -/
theorem State.atticSet_line {s : State} {a : Nat} (h : (mfind s.attic (a / 64)).isSome = true) (fn : Nat) (b : Byte) :
    (∀ a', (s.atticSet fn a b).hostByte a' = if a' = a then b else s.hostByte a') ∧
      (s.atticSet fn a b).hostMem = s.hostMem ∧ ∃ l, mfind (s.atticSet fn a b).attic (a / 64) = some l ∧ l.st = .m := by
  obtain ⟨l, hl⟩ := Option.isSome_iff_exists.mp h
  have hset : s.atticSet fn a b =
      { s with attic := mput s.attic (a / 64) ⟨.m, lineSet l.data (a % 64) b, withMember l.tenants fn⟩ } := by
    simp only [State.atticSet, hl]
  rw [hset]
  refine ⟨fun a' => ?_, rfl, _, mfind_mput_self .., rfl⟩
  unfold State.hostByte
  by_cases hline : a' / 64 = a / 64
  · rw [hline, mfind_mput_self, hl]
    dsimp only
    rw [lineByte_lineSet]
    by_cases ha : a' = a
    · rw [if_pos (by omega), if_pos ha]
    · rw [if_neg (by omega), if_neg ha]
  · rw [mfind_mput_ne _ _ hline, if_neg (by rintro rfl; exact hline rfl)]

/-- A number written byte by byte in one line of the attic. -/
def State.atticWrite (s : State) (fn pa n v : Nat) : State :=
  (List.range n).foldl (fun (s : State) i => s.atticSet fn (pa + i) (byteOf v i)) s

theorem State.atticWrite_line {s : State} {pa n : Nat} (fn v : Nat) (h : (mfind s.attic (pa / 64)).isSome = true)
    (hline : ∀ i < n, (pa + i) / 64 = pa / 64) :
    let t := s.atticWrite fn pa n v
    (∀ i < n, t.hostByte (pa + i) = byteOf v i) ∧ t.hostMem = s.hostMem ∧ (mfind t.attic (pa / 64)).isSome = true ∧
      (0 < n → ∃ l, mfind t.attic (pa / 64) = some l ∧ l.st = .m) := by
  induction n with
  | zero => exact ⟨fun i hi => absurd hi i.not_lt_zero, rfl, h, fun h0 => absurd h0 (lt_irrefl 0)⟩
  | succ n ih =>
    obtain ⟨hbytes, hmem, hsome, -⟩ := ih fun i hi => hline i (by omega)
    have hn := hline n (by omega)
    have hsucc : s.atticWrite fn pa (n + 1) v = (s.atticWrite fn pa n v).atticSet fn (pa + n) (byteOf v n) := by
      simp [State.atticWrite, List.range_succ]
    obtain ⟨hset, hmem', hm⟩ := State.atticSet_line (hn ▸ hsome) fn (byteOf v n)
    rw [hn] at hm
    rw [hsucc]
    refine ⟨fun i hi => ?_, hmem'.trans hmem, ?_, fun _ => hm⟩
    · rw [hset]
      by_cases hin : i = n
      · rw [if_pos (by omega), hin]
      · rw [if_neg (by omega), hbytes i (by omega)]
    · obtain ⟨l, hl, -⟩ := hm
      exact Option.isSome_iff_exists.mpr ⟨l, hl⟩

theorem State.atticSet_leaves (s : State) (fn a : Nat) (b : Byte) :
    (s.atticSet fn a b).ctxs = s.ctxs ∧ (s.atticSet fn a b).tiles = s.tiles := by
  unfold State.atticSet
  split <;> exact ⟨rfl, rfl⟩

theorem State.atticWrite_leaves (s : State) (fn pa n v : Nat) :
    (s.atticWrite fn pa n v).ctxs = s.ctxs ∧ (s.atticWrite fn pa n v).tiles = s.tiles :=
  ⟨foldl_keeps (g := State.ctxs) (fun t i => (t.atticSet_leaves fn (pa + i) (byteOf v i)).1) _ s,
    foldl_keeps (g := State.tiles) (fun t i => (t.atticSet_leaves fn (pa + i) (byteOf v i)).2) _ s⟩

/-! ### The atomic itself -/

/-- The number at a range of host memory as the host keeps it coherent. -/
def State.hostLE (s : State) (pa n : Nat) : Nat := packed 256 n fun i => (s.hostByte (pa + i)).toNat

section

variable (s : State) (c : Nat) (x : Ctx) (r : CopyRec)

theorem State.virtAtomic_eq : s.virtAtomic c x r =
    ((r.newWord (s.vreadLE x r.dst r.width)).elim s (s.vwriteLE x r.dst r.width)).giveOld c r (s.vreadLE x r.dst r.width) := by
  simp only [State.virtAtomic]
  cases r.newWord (s.vreadLE x r.dst r.width) <;> rfl

theorem State.atticAtomic_eq (pa : Nat) : s.atticAtomic c x r pa =
    ((r.newWord (s.hostLE pa r.width)).elim s (s.atticWrite x.tenant pa r.width)).giveOld c r (s.hostLE pa r.width) := by
  have hold : s.hostLE pa r.width = (List.range r.width).foldr (fun i acc => (s.hostByte (pa + i)).toNat + 256 * acc) 0 := rfl
  simp only [State.atticAtomic, ← hold]
  cases r.newWord (s.hostLE pa r.width) <;> rfl

theorem State.atticAtomic_ctx (pa : Nat) : (s.atticAtomic c x r pa).ctx c = ((s.ctx c).deliverDone r.ch r.stream).dropRec r.seq := by
  rw [State.atticAtomic_eq, State.giveOld_ctx]
  cases r.newWord (s.hostLE pa r.width) with
  | none => rfl
  | some v => rw [Option.elim_some, show (s.atticWrite x.tenant pa r.width v).ctx c = s.ctx c from
      congrArg (mgetD · c Ctx.reset) (s.atticWrite_leaves x.tenant pa r.width v).1]

theorem State.hostLE_fillAll (fn : Nat) (nd : Need) (pa n : Nat) : (s.fillAll fn nd).hostLE pa n = s.hostLE pa n := by
  simp only [State.hostLE, State.hostByte_fillAll]

/-- An atomic of the virtual space leaves its channel, gives the old word and writes device memory as a write of its new word does. -/
theorem State.virtAtomic_performs (hw : Memory.wf (s.tile (tileOf c)).sp = true) :
    let old := s.vreadLE x r.dst r.width
    s.recLeft c r (s.virtAtomic c x r) ∧
      (s.virtAtomic c x r).dev = (r.newWord old).elim s.dev (fun v => (s.vwriteLE x r.dst r.width v).dev) ∧
      (r.nores = false → readLE ((s.virtAtomic c x r).tile (tileOf c)).sp r.src r.width = old) := by
  intro old
  have hold : old % 256 ^ r.width = old := Nat.mod_eq_of_lt (s.vreadLE_lt x r.dst r.width)
  rw [State.virtAtomic_eq]
  cases r.newWord old with
  | none =>
    exact ⟨s.giveOld_left c r old rfl, State.giveOld_dev .., fun hn => (s.giveOld_result c r old hw hn).trans hold⟩
  | some v =>
    obtain ⟨hc, ht⟩ := s.vwriteLE_leaves x r.dst r.width v
    have htile : (s.vwriteLE x r.dst r.width v).tile = s.tile := funext fun t => congrArg (mgetD · t Tile.reset) ht
    refine ⟨s.giveOld_left c r old (congrArg Ctx.done (s.vwriteLE_ctx ..)), State.giveOld_dev .., fun hn => ?_⟩
    exact (State.giveOld_result _ c r old (htile ▸ hw) hn).trans hold

/-- An atomic in the attic leaves its channel, gives the old word, and writes its new word where the attic holds the line. -/
theorem State.atticAtomic_performs (pa : Nat) :
    let old := s.hostLE pa r.width
    let t := s.atticAtomic c x r pa
    s.recLeft c r t ∧
      (Memory.wf (s.tile (tileOf c)).sp = true → r.nores = false → readLE (t.tile (tileOf c)).sp r.src r.width = old) ∧
      (pa % r.width = 0 → (mfind s.attic (pa / 64)).isSome = true →
        t.hostLE pa r.width = (r.newWord old).getD old % 256 ^ r.width ∧ t.hostMem = s.hostMem ∧
          ((r.newWord old).isSome = true → ∃ l, mfind t.attic (pa / 64) = some l ∧ l.st = .m)) := by
  intro old t
  have hold : old % 256 ^ r.width = old := Nat.mod_eq_of_lt (packed_bytes_lt _ fun i => s.hostByte (pa + i))
  have ht : t = ((r.newWord old).elim s (s.atticWrite x.tenant pa r.width)).giveOld c r old := s.atticAtomic_eq c x r pa
  cases hn : r.newWord old with
  | none =>
    rw [hn] at ht
    rw [ht]
    refine ⟨s.giveOld_left c r old rfl, fun hw hnr => (s.giveOld_result c r old hw hnr).trans hold, fun _ _ => ⟨?_, ?_, nofun⟩⟩
    · rw [Option.getD_none, hold]
      exact packed_congr fun i _ => congrArg BitVec.toNat (State.giveOld_hostByte ..)
    · exact State.giveOld_hostMem ..
  | some v =>
    rw [hn] at ht
    rw [ht]
    obtain ⟨hc, htl⟩ := s.atticWrite_leaves x.tenant pa r.width v
    have htile : (s.atticWrite x.tenant pa r.width v).tile = s.tile := funext fun t => congrArg (mgetD · t Tile.reset) htl
    have hctx : (s.atticWrite x.tenant pa r.width v).ctx = s.ctx := funext fun d => congrArg (mgetD · d Ctx.reset) hc
    refine ⟨s.giveOld_left c r old (by rw [Option.elim_some, hctx]),
      fun hw hnr => (State.giveOld_result _ c r old (htile.symm ▸ hw) hnr).trans hold, fun hal hline => ?_⟩
    have hwidth : r.width = 8 ∨ r.width = 4 := by
      unfold CopyRec.width
      split
      · exact .inl rfl
      · exact .inr rfl
    obtain ⟨hbytes, hmem, -, hm⟩ := State.atticWrite_line x.tenant v hline (n := r.width) fun i hi => by
      rcases hwidth with h | h <;> rw [h] at hal hi <;> omega
    refine ⟨packed_of_bytes fun i hi => ?_, (State.giveOld_hostMem ..).trans hmem, fun _ => ?_⟩
    · exact (State.giveOld_hostByte ..).trans (hbytes i hi)
    · rw [State.giveOld_attic]
      exact hm (by omega)

end

/-! ### The step of an AMOG record, by the route of its page -/

section

variable {s : State} {c : Nat} {ch : Chan} {r : CopyRec} {e : Nat} (hr : (s.ctx c).headRec ch.val = some r) (hk : r.kind = 6)
  (hb : s.recBlocked c (s.ctx c) r = false) (he : (s.ctx c).pageOf r.dst = some e)

include hr hk hb he

theorem exec_hostAtomic_dev (h0 : entRoute e = 0) {nd : Need} (hnd : nd = s.rangeNeed (s.ctx c) true true r.dst r.width)
    (hready : ∀ k, s.withNeed c r nd k = k (s.fillAll (s.ctx c).tenant nd)) :
    exec (.hostAtomicPerform c ch) s = .next ((s.fillAll (s.ctx c).tenant nd).virtAtomic c (s.ctx c) r) := by
  subst hnd
  change execHostAtomicPerform c ch s = _
  simp [execHostAtomicPerform, hr, hk, hb, he, h0, hready]

theorem exec_hostAtomic_attic (h2 : 2 ≤ entRoute e) {nd : Need} (hnd : nd = s.rangeNeed (s.ctx c) true true r.dst r.width)
    (hready : ∀ k, s.withNeed c r nd k = k (s.fillAll (s.ctx c).tenant nd)) :
    exec (.hostAtomicPerform c ch) s = .next ((s.fillAll (s.ctx c).tenant nd).atticAtomic c (s.ctx c) r (entPhys e r.dst)) := by
  subst hnd
  obtain ⟨n, hn⟩ := Nat.exists_eq_add_of_le' h2
  change execHostAtomicPerform c ch s = _
  simp [execHostAtomicPerform, hr, hk, hb, he, hn, hready]

variable (h1 : entRoute e = 1)

include h1

theorem exec_hostAtomic_waiting {since : Nat} (hh : r.host = .waiting since) : exec (.hostAtomicPerform c ch) s = .next s := by
  change execHostAtomicPerform c ch s = _
  simp [execHostAtomicPerform, hr, hk, hb, he, h1, hh]

theorem exec_hostAtomic_old {v : Nat} (hh : r.host = .old v) : exec (.hostAtomicPerform c ch) s = .next (s.giveOld c r v) := by
  change execHostAtomicPerform c ch s = _
  simp [execHostAtomicPerform, hr, hk, hb, he, h1, hh]

theorem exec_hostAtomic_linkDown (hh : r.host = .idle) (hl : s.linkUp = false) :
    exec (.hostAtomicPerform c ch) s = .next (s.failRec c r 0x304 r.dst) := by
  change execHostAtomicPerform c ch s = _
  simp [execHostAtomicPerform, hr, hk, hb, he, h1, hh, hl]

theorem exec_hostAtomic_sends (hh : r.host = .idle) (hl : s.linkUp = true)
    (hf : ((s.tenant (s.ctx c).tenant).degraded && entFallback e) = false) :
    exec (.hostAtomicPerform c ch) s = .next (s.setCtx c ((s.ctx c).setRec { r with host := .waiting s.cycle })) := by
  have hgo : (decide (r.kind ≠ 6) || s.recBlocked c (s.ctx c) r) = false := by simp [hk, hb]
  change execHostAtomicPerform c ch s = _
  simp only [execHostAtomicPerform, hr, hgo, he, h1, hh, hl, hf, Bool.not_true, Bool.false_eq_true, if_false]

/-- The context of a record that goes through the attic in place of its AtomicOp: the event of R276 is set. -/
def Ctx.fallsBack (x : Ctx) (r : CopyRec) : Ctx := (x.setRec r).setEvent 5

/-- It goes through the line at once, after a use of the attic. -/
theorem exec_hostAtomic_fallback (hh : r.host = .idle) (hl : s.linkUp = true)
    (hf : ((s.tenant (s.ctx c).tenant).degraded && entFallback e) = true) {l : Line}
    (hline : mfind s.attic (entPhys e r.dst / 64) = some l) (hst : l.st ≠ .s) :
    let r' := { r with host := .attic s.cycle }
    ∃ fn nd, exec (.hostAtomicPerform c ch) s = .next (((s.setCtx c ((s.ctx c).fallsBack r')).fillAll fn nd).atticAtomic c (s.ctx c) r'
      (entPhys e r.dst)) := by
  intro r'
  let s' := s.setCtx c ((s.ctx c).fallsBack r')
  have hneed : s'.lineNeed true r.dst (entPhys e r.dst / 64) = { Need.none with reach := [entPhys e r.dst / 64] } := by
    have hl' : mfind s'.attic (entPhys e r.dst / 64) = some l := hline
    have hheld : (true && l.st == .s) = false := by simp [hst]
    simp only [State.lineNeed, hl', hheld]
    rfl
  have hready := State.withNeed_ready (s := s') (c := c) (r := r') (nd := s'.lineNeed true r.dst (entPhys e r.dst / 64))
    (by rw [hneed]; rfl) (by rw [hneed]; rfl) (by rw [hneed]; rfl)
  have hgo : (decide (r.kind ≠ 6) || s.recBlocked c (s.ctx c) r) = false := by simp [hk, hb]
  refine ⟨(s'.ctx c).tenant, s'.lineNeed true r.dst (entPhys e r.dst / 64), ?_⟩
  change execHostAtomicPerform c ch s = _
  simp only [execHostAtomicPerform, hr, hgo, he, h1, hh, hl, hf, Bool.not_true, Bool.false_eq_true, if_false, if_true]
  exact congrArg Host.Outcome.next (hready _)

end

end Sys2Proof.Machine

/-! SUPPORT. Atomics of records at a tile (R253), and what every one of them leaves. -/

namespace Sys2Proof.Machine

theorem find?_kept_none {ks : List Kept} {b : Nat} : ks.find? (fun k => k.at' == b) = none ↔ ∀ k ∈ ks, k.at' ≠ b := by
  simp

section

variable (s : State) (c : Nat) (r : CopyRec)

/-- The state of an atomic on the own scratchpad before it gives its old word. -/
def State.ownAtomic (old : Nat) : State := (r.newWord old).elim s (s.ownUpdate c r.post r.kept r.dst r.width)

theorem State.ownAtomic_done (old : Nat) : ((s.ownAtomic c r old).ctx c).done = (s.ctx c).done := by
  unfold State.ownAtomic
  cases r.newWord old with
  | none => rfl
  | some v => exact State.ownUpdate_done ..

/-- Its new word, or its old one where it writes none, stands in every byte that no later store has taken. -/
theorem State.ownAtomic_sp {s : State} {c : Nat} (hw : Memory.wf (s.tile (tileOf c)).sp = true) (r : CopyRec) :
    let old := keptLE (s.tile (tileOf c)).sp r.kept r.dst r.width
    Memory.wf ((s.ownAtomic c r old).tile (tileOf c)).sp = true ∧ ∀ b, mread ((s.ownAtomic c r old).tile (tileOf c)).sp b =
      if r.dst ≤ b ∧ b < r.dst + r.width ∧ (∀ k ∈ r.kept, k.at' ≠ b) then byteOf ((r.newWord old).getD old) (b - r.dst)
      else mread (s.tile (tileOf c)).sp b := by
  intro old
  simp only [← find?_kept_none]
  unfold State.ownAtomic
  cases r.newWord old with
  | some v => exact State.ownUpdate_sp c r.post r.kept r.dst v hw r.width
  | none =>
    refine ⟨hw, fun b => ?_⟩
    split
    · next h =>
      obtain ⟨h1, h2, hk⟩ := h
      obtain ⟨i, rfl⟩ := Nat.exists_eq_add_of_le h1
      have hold : old = packed 256 r.width fun i => (keptByte (s.tile (tileOf c)).sp r.kept (r.dst + i)).toNat := keptLE_packed ..
      rw [Option.getD_none, Nat.add_sub_cancel_left, hold, byteOf_packed _ (by omega), keptByte_none hk]
      rfl
    · rfl

/-- The own scratchpad after an atomic on it: the old word over the new one, and every other byte as before. -/
theorem State.ownAtomic_given {s : State} {c : Nat} (hw : Memory.wf (s.tile (tileOf c)).sp = true) (r : CopyRec) (b : Nat) :
    let old := keptLE (s.tile (tileOf c)).sp r.kept r.dst r.width
    mread (((s.ownAtomic c r old).giveOld c r old).tile (tileOf c)).sp b =
      if r.nores = false ∧ r.src ≤ b ∧ b < r.src + r.width then byteOf old (b - r.src)
      else if r.dst ≤ b ∧ b < r.dst + r.width ∧ (∀ k ∈ r.kept, k.at' ≠ b) then byteOf ((r.newWord old).getD old) (b - r.dst)
      else mread (s.tile (tileOf c)).sp b := by
  intro old
  obtain ⟨hwf, hb⟩ := State.ownAtomic_sp hw r
  rw [State.giveOld_sp]
  cases r.nores with
  | true => simpa using hb b
  | false =>
    rw [if_pos ⟨rfl, rfl⟩, mread_writeLE hwf]
    by_cases h : r.src ≤ b ∧ b < r.src + r.width
    · rw [if_pos h, if_pos ⟨rfl, h⟩]
    · rw [if_neg h, if_neg fun h' => h h'.2]
      exact hb b

/-- The state of an atomic on another scratchpad before it gives its old word. -/
def State.tileAtomic (m old : Nat) : State := (r.newWord old).elim s (s.spWriteLE m r.dst r.width)

theorem State.tileAtomic_ctx (m old d : Nat) : (s.tileAtomic r m old).ctx d = s.ctx d := by
  unfold State.tileAtomic
  cases r.newWord old <;> rfl

theorem State.tileAtomic_other {m t : Nat} (old : Nat) (h : t ≠ m) : (s.tileAtomic r m old).tile t = s.tile t := by
  unfold State.tileAtomic
  cases r.newWord old with
  | none => rfl
  | some v => exact State.tile_setTile_ne _ _ h

theorem State.tileAtomic_word {s : State} {m : Nat} (hw : Memory.wf (s.tile m).sp = true) (r : CopyRec) :
    let old := readLE (s.tile m).sp r.dst r.width
    readLE ((s.tileAtomic r m old).tile m).sp r.dst r.width = (r.newWord old).getD old % 256 ^ r.width := by
  intro old
  unfold State.tileAtomic
  cases r.newWord old with
  | none => exact (Nat.mod_eq_of_lt (readLE_lt ..)).symm
  | some v =>
    rw [Option.elim_some, State.spWriteLE_sp, if_pos rfl, readLE_writeLE _ _ _ _ hw]
    rfl

theorem State.failRec_left (code ea : Nat) : (∀ q ∈ ((s.failRec c r code ea).ctx c).recs, q.seq ≠ r.seq) ∧
    ((s.failRec c r code ea).ctx c).engFaults = (s.ctx c).engFaults ++ [⟨code, ea, r.post, some r.ch, r.seq, r.colour, false⟩] := by
  rw [State.failRec, State.ctx_setCtx]
  exact ⟨fun q hq => bne_iff_ne.mp (List.mem_filter.mp hq).2, rfl⟩

end

end Sys2Proof.Machine

namespace Sys2Proof

open Machine

/-- Settles O37: each atomic is its write, or none, followed by `giveOld`, and the record leaves its channel there. -/
theorem recordAtomicsPerform : Obligations.RecordAtomicsPerform := by
  intro s c ch r x own hr hb leaves ready word
  have hgo : ∀ {nd : Need}, ready nd → ∀ k, s.withNeed c r nd k = k (s.fillAll x.tenant nd) :=
    fun ⟨hf, hh, ha⟩ => State.withNeed_ready hf hh ha
  refine ⟨?_, ?_, ?_, ?_⟩
  · -- On the own scratchpad.
    intro hk hd hbad hw before old
    have hold : old = keptLE (s.tile own).sp r.kept r.dst r.width := (keptLE_packed ..).symm
    refine ⟨_, exec_remoteAtomic_own hr hk hb hd hbad, s.giveOld_left c r _ (s.ownAtomic_done c r _), fun b => ?_⟩
    rw [hold]
    exact State.ownAtomic_given hw r b
  · -- On another scratchpad.
    intro m hk hd hm hbad hwm hw old
    refine ⟨_, exec_remoteAtomic_tile hr hk hb hd hbad, s.giveOld_left c r _ (congrArg Ctx.done (s.tileAtomic_ctx r m old c)), ?_, ?_, ?_⟩
    · rw [State.giveOld_sp, if_neg]
      · exact State.tileAtomic_word hwm r
      · rintro ⟨hn, rfl⟩
        rcases hm with hm | hm
        · exact hm rfl
        · exact nomatch hn.symm.trans hm
    · intro hn
      have hne : own ≠ m := fun h => hm.elim (fun hm => hm h.symm) fun hm => nomatch hn.symm.trans hm
      exact (State.giveOld_result _ c r old ((s.tileAtomic_other r old hne).symm ▸ hw) hn).trans (Nat.mod_eq_of_lt (readLE_lt ..))
    · intro hn hne
      rw [State.giveOld_sp, if_neg fun h => nomatch h.1.symm.trans hn]
      exact congrArg Tile.sp (s.tileAtomic_other r old hne.symm)
  · -- At its home in device memory, or wherever the page of a KIND 4 record leads.
    intro i hi hw hrdy old
    have hexec : exec i s = .next ((s.fillAll x.tenant (s.rangeNeed x true true r.dst r.width)).virtAtomic c x r) := by
      rcases hi with ⟨hk, hd, rfl⟩ | ⟨hk, ⟨e, he, h0⟩, rfl⟩
      · exact exec_remoteAtomic_virt hr hk hb hd (hgo hrdy)
      · exact exec_hostAtomic_dev hr hk hb he h0 rfl (hgo hrdy)
    obtain ⟨hleft, hdev, hold⟩ := (s.fillAll x.tenant (s.rangeNeed x true true r.dst r.width)).virtAtomic_performs c x r
      (by rwa [State.fillAll_tile])
    rw [State.recLeft, State.fillAll_ctx] at hleft
    rw [State.vreadLE_fillAll, State.fillAll_dev] at hdev
    rw [State.vreadLE_fillAll] at hold
    refine ⟨_, hexec, hleft, ?_, hold⟩
    rw [hdev]
    cases hn : r.newWord old with
    | none => rfl
    | some v => exact s.vwriteLE_fillAll_dev ..
  · -- On a page of host memory.
    intro hk e he pa old fallback atPa
    refine ⟨fun h2 hw hrdy => ?_, fun h1 => ⟨fun since hh => exec_hostAtomic_waiting hr hk hb he h1 hh, fun v hh hw => ?_,
      fun hh hl => ?_, exec_hostAtomic_sends hr hk hb he h1, fun hh hl hf l hline hst => ?_⟩⟩
    · obtain ⟨hleft, hres, hword⟩ := (s.fillAll x.tenant (s.rangeNeed x true true r.dst r.width)).atticAtomic_performs c x r pa
      rw [State.recLeft, State.fillAll_ctx] at hleft
      rw [State.hostLE_fillAll, State.fillAll_tile] at hres
      rw [State.hostLE_fillAll, State.attic_fillAll, State.fillAll_hostMem] at hword
      exact ⟨_, exec_hostAtomic_attic hr hk hb he h2 rfl (hgo hrdy), hleft, hres hw, hword⟩
    · exact ⟨_, exec_hostAtomic_old hr hk hb he h1 hh, s.giveOld_left c r v rfl, State.giveOld_hostMem .., s.giveOld_result c r v hw⟩
    · obtain ⟨hleft, hfault⟩ := s.failRec_left c r 0x304 r.dst
      exact ⟨_, exec_hostAtomic_linkDown hr hk hb he h1 hh hl, hleft, hfault⟩
    · -- In the place of an AtomicOp, with the event set.
      obtain ⟨fn, nd, hexec⟩ := exec_hostAtomic_fallback hr hk hb he h1 hh hl hf hline hst
      let r' : CopyRec := { r with host := .attic s.cycle }
      let s' := s.setCtx c (x.fallsBack r')
      obtain ⟨hleft, hres, hword⟩ := (s'.fillAll fn nd).atticAtomic_performs c x r' pa
      have hctx := (s'.fillAll fn nd).atticAtomic_ctx c x r' pa
      rw [State.recLeft, State.fillAll_ctx, State.ctx_setCtx] at hleft
      rw [State.hostLE_fillAll, State.fillAll_tile] at hres
      rw [State.hostLE_fillAll, State.attic_fillAll, State.fillAll_hostMem] at hword
      rw [State.fillAll_ctx, State.ctx_setCtx] at hctx
      refine ⟨_, hexec, hleft, ?_, fun hn hw => hres hw hn, fun hal => ?_⟩
      · rw [hctx]
        change (x.evPending ||| BitVec.ofNat 6 (2 ^ 5)).getLsbD 5 = true
        rw [BitVec.getLsbD_or]
        exact Bool.or_eq_true_iff.mpr (.inr (by decide))
      · obtain ⟨hval, hmem, -⟩ := hword hal (Option.isSome_iff_exists.mpr ⟨l, hline⟩)
        exact ⟨hval, hmem⟩

end Sys2Proof

/-! SUPPORT. Gathers, collectives and overlay copies (R257, R260, R268, R377). -/

namespace Sys2Proof.Machine

/-! ### Gathers (R257, R377) -/

/-- What a gather reads: a word for each index, zero where it reads none. -/
def State.gathered (s : State) (x : Ctx) (g : GatherRec) : List Nat :=
  g.addrs.map fun a => match a with
    | none => 0
    | some a => s.vreadLE x a g.wbytes

section

variable {s : State} {c : Nat} {g : GatherRec} (hg : (s.ctx c).headGather = some g)

include hg

theorem exec_gatherComplete_bad {a : Nat} (hb : g.bad = some a) :
    exec (.gatherComplete c) s = .next (s.setCtx c ((s.ctx c).addFault 0x103 a g.post none g.seq 0)) := by
  change execGatherComplete c s = _
  simp only [execGatherComplete, hg, hb]

theorem exec_gatherComplete_reads (hb : g.bad = none) (hf : (s.gatherNeed (s.ctx c) g).fault = none)
    (hh : (s.gatherNeed (s.ctx c) g).holds g.host.isAnswered = false) (ha : s.admitted c (some g.seq) (s.gatherNeed (s.ctx c) g) = true) :
    ∃ fn nd, exec (.gatherComplete c) s = .next (((s.fillAll fn nd).dropTicket c (some g.seq)).setCtx c
      ((s.ctx c).setGather { g with results := some (s.gathered (s.ctx c) g) })) := by
  refine ⟨(s.ctx c).tenant, s.gatherNeed (s.ctx c) g, ?_⟩
  have hread : ((s.fillAll (s.ctx c).tenant (s.gatherNeed (s.ctx c) g)).dropTicket c (some g.seq)).gathered (s.ctx c) g =
      s.gathered (s.ctx c) g := by
    simp only [State.gathered, State.vreadLE_congr (t := State.dropTicket _ c (some g.seq)) (s := s) fun w =>
      (State.placeByte_fillAll s _ _ w : _)]
  have hgo : ((s.gatherNeed (s.ctx c) g).holds g.host.isAnswered || !s.admitted c (some g.seq) (s.gatherNeed (s.ctx c) g)) = false := by
    simp [hh, ha]
  rw [← hread]
  change execGatherComplete c s = _
  simp only [execGatherComplete, hg, hb, hf, hgo, Bool.false_eq_true, if_false]
  rfl

end

/-- The head of the gathers is one of them. -/
theorem Ctx.headGather_mem {x : Ctx} {g : GatherRec} (h : x.headGather = some g) : g ∈ x.gathers := List.mem_of_find?_eq_some h

theorem Ctx.mem_setGather {x : Ctx} {g g' : GatherRec} (hg : g ∈ x.gathers) (hs : g'.seq = g.seq) : g' ∈ (x.setGather g').gathers :=
  List.mem_map.mpr ⟨g, hg, if_pos hs.symm⟩

/-! ### Collectives (R260, R261) -/

/-- A member gets the result of its collective. -/
def State.giveColl (n v : Nat) (s : State) (p : Nat × Option CollRec) : State :=
  match p.2 with
  | none => s
  | some q => (s.spWriteLE (tileOf p.1) q.dst n v).setCtx p.1 ((s.ctx p.1).setColl { q with st := .done })

theorem State.wf_giveColl (n v : Nat) {s : State} (p : Nat × Option CollRec) {t : Nat} (h : Memory.wf (s.tile t).sp = true) :
    Memory.wf ((s.giveColl n v p).tile t).sp = true := by
  unfold State.giveColl
  split
  · exact h
  · rw [State.tile_setCtx, State.spWriteLE_sp]
    split
    · next ht => exact wf_writeLE _ _ _ (ht ▸ h)
    · exact h

theorem State.giveColl_other (n v : Nat) (s : State) {p : Nat × Option CollRec} {d : Nat} (h : tileOf p.1 ≠ tileOf d) :
    ((s.giveColl n v p).tile (tileOf d), (s.giveColl n v p).ctx d) = (s.tile (tileOf d), s.ctx d) := by
  have hd : d ≠ p.1 := by rintro rfl; exact h rfl
  unfold State.giveColl
  split
  · rfl
  · next q _ =>
    rw [State.ctx_setCtx_ne _ _ hd]
    exact Prod.ext (State.tile_setTile_ne s _ h.symm) rfl

/-- Members on tiles of their own: each holds the result, and its record is done. -/
theorem State.giveColl_all {s : State} {cs : List Nat} {f : Nat → Option CollRec} (hn : (cs.map tileOf).Nodup) (n v : Nat) {d : Nat}
    (hd : d ∈ cs) (hw : Memory.wf (s.tile (tileOf d)).sp = true) {q : CollRec} (hf : f d = some q) (hq : q ∈ (s.ctx d).colls) :
    let t := (cs.map fun c => (c, f c)).foldl (State.giveColl n v) s
    readLE (t.tile (tileOf d)).sp q.dst n = v % 256 ^ n ∧ { q with st := .done } ∈ (t.ctx d).colls := by
  intro t
  have hn' : ((cs.map fun c => (c, f c)).map fun p => tileOf p.1).Nodup := by rwa [List.map_map]
  obtain ⟨u, hwu, hu, ht⟩ := foldl_at (g := fun u : State => (u.tile (tileOf d), u.ctx d)) (key := fun p => tileOf p.1)
    (I := fun u : State => Memory.wf (u.tile (tileOf d)).sp = true) (x := (d, f d)) (xs := cs.map fun c => (c, f c))
    (List.mem_map.mpr ⟨d, hd, rfl⟩) hn' (fun u p => State.wf_giveColl n v p) (fun u p => State.giveColl_other n v u) hw
  obtain ⟨htile, hctx⟩ := Prod.mk.inj ht
  have hgive : State.giveColl n v u (d, f d) =
      (u.spWriteLE (tileOf d) q.dst n v).setCtx d ((u.ctx d).setColl { q with st := .done }) := by
    unfold State.giveColl
    rw [hf]
  rw [hgive] at htile hctx
  refine ⟨?_, ?_⟩
  · rw [htile, State.tile_setCtx, State.spWriteLE_sp, if_pos rfl, readLE_writeLE _ _ _ _ hwu]
  · rw [hctx, State.ctx_setCtx, (Prod.mk.inj hu).2]
    exact List.mem_map.mpr ⟨q, hq, if_pos rfl⟩

theorem State.joined_mem {s : State} {d level ordinal : Nat} {q : CollRec} (h : s.joined d level ordinal = some q) :
    q ∈ (s.ctx d).colls := List.mem_of_find?_eq_some h

section

variable {s : State} {c : Nat} {r : CollRec} (hr : (s.ctx c).colls.find? (fun r => r.st == .pending) = some r)
  (hready : s.collReady c r = true)
  (hall : ∀ d ∈ s.collUnion c r, ∃ q, s.joined d r.level r.ordinal = some q ∧ q.agrees r = true ∧ q.bad = none)
  (hc : c ∈ r.members)

include hr hready hall hc

theorem exec_collectiveComplete (hroot : r.op = 6 → ∃ root, s.rootOf r = some root) :
    let recs := (s.collUnion c r).map fun d => (d, s.joined d r.level r.ordinal)
    let srcs := if r.op = 6 then (s.rootOf r).toList.filterMap (fun d => (s.joined d r.level r.ordinal).map (·.snap))
      else recs.filterMap (fun p => p.2.map (·.snap))
    exec (.collectiveComplete c) s = .next (recs.foldl (State.giveColl (collBytes r.ty r.count) (collResult r srcs)) s) := by
  intro recs srcs
  have hagree : recs.all (fun p => p.2.any fun q => q.agrees r && q.bad.isNone) = true := by
    simp only [recs, List.all_map, List.all_eq_true]
    intro d hd
    obtain ⟨q, hq, ha, hb⟩ := hall d hd
    simp [hq, ha, hb]
  have hop : (r.op != 6 || (s.rootOf r).isSome) = true := by
    by_cases h6 : r.op = 6
    · obtain ⟨root, h⟩ := hroot h6
      simp [h]
    · simp [h6]
  have hgood : (recs.all (fun p => match p.2 with
      | none => false
      | some q => q.agrees r && q.bad.isNone) && (r.op != 6 || (s.rootOf r).isSome) && r.members.contains c) = true := by
    have hsame : ∀ p : Nat × Option CollRec, (match p.2 with
      | none => false
      | some q => q.agrees r && q.bad.isNone) = p.2.any fun q => q.agrees r && q.bad.isNone := fun ⟨_, o⟩ => by cases o <;> rfl
    simp only [hsame, hagree, hop, Bool.true_and]
    exact List.contains_iff_mem.mpr hc
  change execCollectiveComplete c s = _
  simp only [execCollectiveComplete, hr, hready, Bool.not_true, Bool.false_eq_true, if_false]
  exact congrArg Host.Outcome.next (if_pos hgood)

end

/-! ### Overlay copies (R267, R268) -/

@[simp] theorem Ctx.setHalf_imem (x : Ctx) (half : Nat) (seg : Option Nat) : (x.setHalf half seg).imem = x.imem := by
  unfold Ctx.setHalf
  split <;> rfl
@[simp] theorem Ctx.setHalf_pc (x : Ctx) (half : Nat) (seg : Option Nat) : (x.setHalf half seg).pc = x.pc := by
  unfold Ctx.setHalf
  split <;> rfl
@[simp] theorem Ctx.setHalf_ovCopy (x : Ctx) (half : Nat) (seg : Option Nat) : (x.setHalf half seg).ovCopy = x.ovCopy := by
  unfold Ctx.setHalf
  split <;> rfl

theorem Ctx.setHalf_half (x : Ctx) (half : Nat) (seg : Option Nat) :
    (if half = 0 then (x.setHalf half seg).half0 else (x.setHalf half seg).half1) = seg := by
  unfold Ctx.setHalf
  split <;> rfl

/-- The image of a segment stands in its half from byte RSIZE on. -/
theorem Ctx.fillHalf_imem {x : Ctx} (h : Memory.wf x.imem = true) (half : Nat) {bytes : List Byte} {j : Nat} {b : Byte}
    (hj : bytes[j]? = some b) : mread (x.fillHalf half bytes).imem (0x10000 * half + x.rsize + j) = b :=
  mread_writeBytes_in (wf_clearRange _ _ h) _ hj

/-- The context of a copy that has written its last byte. -/
def Ctx.resident (x : Ctx) (k : OvCopy) (bytes : List Byte) : Ctx :=
  (Ctx.fillHalf { x with ovCopy := none } k.half bytes).setHalf k.half (some k.seg)

theorem exec_segmentResident {s : State} {c : Nat} {k : OvCopy} (hk : (s.ctx c).ovCopy = some k) {im : Nat × Nat}
    (him : (s.ctx c).segImage (k.seg + 1) = im) {nd : Need} (hnd : s.rangeNeed (s.ctx c) true false im.1 im.2 = nd)
    (hp : pickFault ((s.ctx c).rangeFaults .fetch im.1 im.2 0 1) = none) (hf : nd.fault = none) (hh : nd.holds true = false)
    (ha : s.admitted c (some k.seq) nd = true) :
    exec (.segmentResident c) s = .next (((s.fillAll (s.ctx c).tenant nd).dropTicket c (some k.seq)).setCtx c
      ((s.ctx c).resident k ((List.range im.2).map fun i => s.vread (s.ctx c) (im.1 + i)))) := by
  have hread : ∀ i, ((s.fillAll (s.ctx c).tenant nd).dropTicket c (some k.seq)).vread (s.ctx c) (im.1 + i) =
      s.vread (s.ctx c) (im.1 + i) := fun i => s.vread_fillAll (s.ctx c).tenant nd (s.ctx c) (im.1 + i)
  have hgo : (nd.holds true || !s.admitted c (some k.seq) nd) = false := by simp [hh, ha]
  change execSegmentResident c s = _
  simp only [execSegmentResident, hk, him, hp, hnd, hf, hgo, Bool.false_eq_true, if_false, hread]
  rfl

end Sys2Proof.Machine

/-! SUPPORT. Drain pushes (R246, R247, R223): a row stored, added in the own scratchpad before later stores, or added in device memory. -/

namespace Sys2Proof.Machine

/-! ### Words of MACCD (R247) -/

theorem accdWord_lt (prof : Nat) (clamp : Bool) (word e : Nat) : accdWord prof clamp word e < 2 ^ 32 := by
  have hr : (addRound F32 word e).1 < 2 ^ 32 := roundArith_lt _
  unfold accdWord
  split
  · exact truncI_lt _
  · dsimp only
    split
    · split
      · next n _ => cases n <;> decide
      · exact hr
    · exact hr

theorem accdWords_packed (prof : Nat) (clamp : Bool) (old es : Nat) : accdWords prof clamp old es =
    packed (2 ^ 32) 128 fun i => accdWord prof clamp (elem old 32 i) (elem es 32 i) := rfl

theorem elem_accdWords (prof : Nat) (clamp : Bool) (old es : Nat) {j : Nat} (h : j < 128) :
    elem (accdWords prof clamp old es) 32 j = accdWord prof clamp (elem old 32 j) (elem es 32 j) :=
  elem_packed (fun _ _ => accdWord_lt ..) h

/-! ### The oldest push goes on with its next row -/

section

variable {x : Ctx} {d : DrainRec} {rest : List DrainRec} {p : Nat × Nat} {more : List (Nat × Nat)}

theorem Ctx.dropRow_drains (hd : x.drains = d :: rest) (hr : d.rows = p :: more) :
    x.dropRow.drains = if more = [] then rest else { d with rows := more } :: rest := by
  unfold Ctx.dropRow
  rw [hd]
  cases more <;> simp [hr]

/-- What is left of the pushes keeps what it kept. -/
theorem Ctx.kept_dropRow {q : DrainRec} (h : q ∈ x.dropRow.drains) : ∃ q' ∈ x.drains, q'.kept = q.kept := by
  unfold Ctx.dropRow at h
  split at h
  · next d rest hd =>
    rw [hd]
    dsimp only at h
    split at h
    · exact ⟨q, List.mem_cons_of_mem _ h, rfl⟩
    · rcases List.mem_cons.mp h with rfl | h
      · exact ⟨d, List.mem_cons_self, rfl⟩
      · exact ⟨q, List.mem_cons_of_mem _ h, rfl⟩
  · exact ⟨q, h, rfl⟩

/-- The pushes without what they keep of bytes under later stores. -/
def unkept (ds : List DrainRec) : List DrainRec := ds.map fun q => { q with kept := [] }

theorem unkept_dropRow {x' : Ctx} (hd : x.drains = d :: rest) (hr : d.rows = p :: more) (h : unkept x'.drains = unkept x.drains) :
    unkept x'.dropRow.drains = unkept (if more = [] then rest else { d with rows := more } :: rest) := by
  rw [hd] at h
  obtain ⟨d', rest', hd', hhead, htail⟩ := List.map_eq_cons_iff.mp h
  have hr' : d'.rows = p :: more := (congrArg DrainRec.rows hhead).trans hr
  rw [Ctx.dropRow_drains hd' hr']
  split
  · exact htail
  · exact congrArg₂ List.cons (congrArg (fun q : DrainRec => { q with rows := more }) hhead) htail

end

/-! ### What an update of the own scratchpad leaves under later stores -/

section

variable (c : Nat) (post : Bool) (ks : List Kept) (a v : Nat)

theorem State.updateByte_unkept (s : State) (i : Nat) :
    unkept ((s.updateByte c post ks a v i).ctx c).drains = unkept (s.ctx c).drains := by
  unfold State.updateByte
  split
  · rw [State.ctx_setCtx]
    exact (List.map_map ..).trans (List.map_congr_left fun _ _ => rfl)
  · rfl

theorem State.ownUpdate_unkept (s : State) (n : Nat) :
    unkept ((s.ownUpdate c post ks a n v).ctx c).drains = unkept (s.ctx c).drains := by
  by_cases hks : ks = []
  · subst hks
    rfl
  · rw [State.ownUpdate_kept c post a v hks]
    exact foldl_keeps (g := fun t : State => unkept (t.ctx c).drains) (fun t i => t.updateByte_unkept c post ks a v i) _ s

/-- Every push of a context that keeps a byte of the first `n` of an update for the same store finds the byte of the update. -/
def Ctx.finds (x : Ctx) (n : Nat) : Prop :=
  ∀ q ∈ x.drains, ∀ k ∈ q.kept, ∀ i < n, k.at' = a + i →
    (ks.find? (fun p => p.at' == k.at')).map (·.when') = some k.when' → k.val = byteOf v i

theorem State.updateByte_finds {s : State} {n : Nat} (h : (s.ctx c).finds ks a v n) :
    ((s.updateByte c post ks a v n).ctx c).finds ks a v (n + 1) := by
  have hlast : ∀ {i}, i < n + 1 → ¬ i < n → i = n := fun h1 h2 => by omega
  intro q hq k hk i hi hat hwhen
  unfold State.updateByte at hq
  split at hq
  · next k0 hk0 =>
    -- The byte lies under a store: what is kept for that store takes it.
    rw [State.ctx_setCtx] at hq
    obtain ⟨q', hq', rfl⟩ := List.mem_map.mp hq
    obtain ⟨k', hk', rfl⟩ := List.mem_map.mp hk
    have hk0at : k0.at' = a + n := by simpa using List.find?_some hk0
    have hsame : ∀ p : Kept, (if p.at' = k0.at' ∧ p.when' = k0.when' then { p with val := byteOf v n } else p).at' = p.at' ∧
        (if p.at' = k0.at' ∧ p.when' = k0.when' then { p with val := byteOf v n } else p).when' = p.when' := fun p => by
      split <;> exact ⟨rfl, rfl⟩
    rw [(hsame k').1] at hat
    rw [(hsame k').1, (hsame k').2] at hwhen
    by_cases hin : i < n
    · rw [if_neg (by omega)]
      exact h q' hq' k' hk' i hin hat hwhen
    · obtain rfl := hlast hi hin
      rw [hat, hk0] at hwhen
      rw [if_pos ⟨hat.trans hk0at.symm, (Option.some.inj hwhen).symm⟩]
  · next hk0 =>
    by_cases hin : i < n
    · exact h q hq k hk i hin hat hwhen
    · obtain rfl := hlast hi hin
      rw [hat, hk0] at hwhen
      exact nomatch hwhen

theorem State.ownUpdate_finds (s : State) (n : Nat) : ((s.ownUpdate c post ks a n v).ctx c).finds ks a v n := by
  by_cases hks : ks = []
  · subst hks
    intro q _ k _ i _ _ hwhen
    exact nomatch hwhen
  · rw [State.ownUpdate_kept c post a v hks]
    induction n with
    | zero => exact fun q _ k _ i hi => absurd hi i.not_lt_zero
    | succ n ih =>
      rw [State.updateBytes_succ]
      exact State.updateByte_finds c post ks a v ih

end

/-! ### A row of cells (R223) -/

theorem Cell.toNat_lt (k : Cell) : k.toNat < 256 ^ 32 := by
  have hi : k.int % 2 ^ 216 < 2 ^ 216 := Nat.mod_lt _ (by decide)
  have hc : k.count % 2 ^ 24 < 2 ^ 24 := Nat.mod_lt _ (by decide)
  have h1 := k.nan.toNat_le
  have h2 := k.pinf.toNat_le
  have h3 := k.ninf.toNat_le
  have h4 := k.ovf.toNat_le
  have h5 := k.unf.toNat_le
  have h6 := k.gx.toNat_le
  have h7 := k.init.toNat_le
  unfold Cell.toNat
  omega

section

variable (x : Ctx) (d : DrainRec) (a es : Nat)

/-- The addition of element `j` to its cell. -/
def State.accdCell (s : State) (j : Nat) : State :=
  s.cellPlus x (a + 32 * j) (accdAddend d.prof d.clamp (x.anchorAt (a + 32 * j)) (elem es 32 j))

/-- A cell after its addition, from what it held. -/
def accdCellNew (old j : Nat) : Nat :=
  ((Cell.ofNat old).add (accdAddend d.prof d.clamp (x.anchorAt (a + 32 * j)) (elem es 32 j)) (x.anchorAt (a + 32 * j))).toNat

theorem State.accdCell_eq (s : State) (j : Nat) : s.accdCell x d a es j =
    s.vwriteLE x (a + 32 * j) 32 (accdCellNew x d a es (s.vreadLE x (a + 32 * j) 32) j) := rfl

theorem State.accdCells_eq (s : State) : s.accdCells x d a es = (List.range 128).foldl (State.accdCell x d a es) s := rfl

/-- Each of the first `n` cells of a row takes its addend once, and no place outside them changes. -/
theorem State.accdCells_upto {s : State} (h : Memory.wf s.dev = true) (hr : x.devRange a 4096) {n : Nat} (hn : n ≤ 128) :
    let t := (List.range n).foldl (State.accdCell x d a es) s
    Memory.wf t.dev = true ∧
      (∀ j < n, t.vreadLE x (a + 32 * j) 32 = accdCellNew x d a es (s.vreadLE x (a + 32 * j) 32) j) ∧
      ∀ w, (∀ j < 32 * n, x.placeOf 0 .virt (a + j) ≠ some w) → t.placeByte w = s.placeByte w := by
  induction n with
  | zero => exact ⟨h, fun j hj => absurd hj j.not_lt_zero, fun _ _ => rfl⟩
  | succ n ih =>
    obtain ⟨hw, hcells, hout⟩ := ih (by omega)
    generalize ht : (List.range n).foldl (State.accdCell x d a es) s = t at hw hcells hout
    have hcell : ∀ j < 128, x.devRange (a + 32 * j) 32 := fun j hj => Ctx.devRange_part hr (by omega)
    have hsame : ∀ {p q w}, p < 4096 → q < 4096 → x.placeOf 0 .virt (a + p) = some w → x.placeOf 0 .virt (a + q) = some w → p = q :=
      fun hp hq hpw hqw => hr.2 _ hp _ hq (hpw.trans hqw.symm)
    have hold : t.vreadLE x (a + 32 * n) 32 = s.vreadLE x (a + 32 * n) 32 :=
      State.vreadLE_of_places (hcell n (by omega)) fun m hm w hw' => hout w fun j hj hjw => by
        have := hsame (by omega) (by omega) (Nat.add_assoc a _ _ ▸ hw') hjw
        omega
    have hstep : (List.range (n + 1)).foldl (State.accdCell x d a es) s =
        t.vwriteLE x (a + 32 * n) 32 (accdCellNew x d a es (s.vreadLE x (a + 32 * n) 32) n) := by
      rw [List.range_succ, List.foldl_append, List.foldl_cons, List.foldl_nil, ht, State.accdCell_eq, hold]
    obtain ⟨hw', -, hout'⟩ := State.placeByte_vwriteLE hw (hcell n (by omega)) (accdCellNew x d a es (s.vreadLE x (a + 32 * n) 32) n)
    rw [hstep]
    refine ⟨hw', fun j hj => ?_, fun w hnot => ?_⟩
    · by_cases hjn : j = n
      · subst hjn
        exact (State.vreadLE_vwriteLE hw (hcell j (by omega)) _).trans (Nat.mod_eq_of_lt (Cell.toNat_lt _))
      · rw [← hcells j (by omega)]
        refine State.vreadLE_of_places (hcell j (by omega)) fun m hm w hw' => hout' w fun k hk hkw => ?_
        have := hsame (by omega) (by omega) (Nat.add_assoc a _ _ ▸ hw') (Nat.add_assoc a _ _ ▸ hkw)
        omega
    · exact (hout' w fun k hk => by simpa only [Nat.add_assoc] using hnot (32 * n + k) (by omega)).trans
        (hout w fun j hj => hnot j (by omega))

end

/-! ### The step of a drain push -/

section

variable {s : State} {c : Nat} {d : DrainRec} {rest : List DrainRec} {i v : Nat} {more : List (Nat × Nat)}
  (hd : (s.ctx c).drains = d :: rest) (hb : s.drainBlocked c (s.ctx c) d = false) (hr : d.rows = (i, v) :: more)

include hd hb hr

section

variable (hsp : engIsSp d.base = true) {a : Nat} (ha : ((engSp d.base : Int) + i * d.stride).toNat = a)

include hsp ha

theorem exec_drainPush_stores (hacc : d.accd = false) :
    exec (.drainPushPerform c) s = .next ((s.spWriteLE (tileOf c) a d.rowBytes v).setCtx c (s.ctx c).dropRow) := by
  change execDrainPushPerform c s = _
  simp only [execDrainPushPerform, hd, hb, hr, hsp, ha, hacc, Bool.false_eq_true, if_false, if_true]

theorem exec_drainPush_adds (hacc : d.accd = true) (hbad : (s.tile (tileOf c)).firstBad [(a, 512)] = none) :
    let u := s.ownUpdate c d.post d.kept a 512 (accdWords d.prof d.clamp (keptLE (s.tile (tileOf c)).sp d.kept a 512) v)
    exec (.drainPushPerform c) s = .next (u.setCtx c (u.ctx c).dropRow) := by
  change execDrainPushPerform c s = _
  simp only [execDrainPushPerform, hd, hb, hr, hsp, ha, hacc, hbad, Bool.false_eq_true, if_false, if_true]

end

/-- A row for the virtual space: words written over the range, or additions to its cells. -/
def State.virtRow (s : State) (x : Ctx) (d : DrainRec) (a n v : Nat) : State :=
  if n = 512 then s.vwriteLE x a 512 (accdWords d.prof d.clamp (s.vreadLE x a 512) v) else s.accdCells x d a v

theorem exec_drainPush_virt (hsp : engIsSp d.base = false) {va : Int} (hva : (d.base : Int) + i * d.stride = va) {n : Nat}
    (hn : (s.ctx c).accdRow va = n) {nd : Need} (hnd : s.rangeNeed (s.ctx c) true true va n = nd) (hf : nd.fault = none)
    (hh : nd.holds false = false) (ha : s.admitted c (some d.seq) nd = true) :
    exec (.drainPushPerform c) s = .next ((((s.fillAll (s.ctx c).tenant nd).dropTicket c (some d.seq)).virtRow (s.ctx c) d va.toNat n
      v).setCtx c (s.ctx c).dropRow) := by
  have hgo : (nd.holds false || !s.admitted c (some d.seq) nd) = false := by simp [hh, ha]
  change execDrainPushPerform c s = _
  simp only [execDrainPushPerform, hd, hb, hr, hsp, hva, hn, hnd, hf, hgo, Bool.false_eq_true, if_false]
  rfl

end

end Sys2Proof.Machine

/-! SUPPORT. Patterns of a float format with infinities (R136, R137): what each stands for, their order (R429), and that a value of
the format rounds to its own pattern. Then the nodes of a collective (R261) and the words and addends of MACCD (R223, R247). -/

namespace Sys2Proof.Machine

/-! ### What a pattern stands for -/

/-- The pattern of the sign, above every magnitude. -/
def FFmt.half (f : FFmt) : Nat := 2 ^ (f.e + f.m)

/-- The magnitude pattern of an infinity. -/
def FFmt.infMag (f : FFmt) : Nat := ones f.e * 2 ^ f.m

/-- The significand of a finite magnitude pattern, and the exponent of its unit. -/
def FFmt.mant (f : FFmt) (p : Nat) : Nat := if p / 2 ^ f.m = 0 then p else 2 ^ f.m + p % 2 ^ f.m
def FFmt.expo (f : FFmt) (p : Nat) : Int := (max (p / 2 ^ f.m) 1 : Nat) - f.bias - f.m

/-- The place of a number in the order of its format, -0 below +0. -/
def FFmt.key (f : FFmt) (p : Nat) : Int := if f.half ≤ p then -((p % f.half : Nat) : Int) - 1 else (p : Int)

section

variable {f : FFmt} (hf : f.hasInf = true)

include hf

theorem decodeFloat_eq (p : Nat) : decodeFloat f p =
    if f.infMag < p % f.half then .nan (!tbit (bits p 0 f.m) (f.m - 1))
    else if p % f.half = f.infMag then .inf (tbit p (f.e + f.m))
    else .fin (tbit p (f.e + f.m)) (f.mant (p % f.half)) (f.expo (p % f.half)) := by
  -- The exponent and the fraction are the quotient and the remainder of the magnitude.
  have hex : bits p f.m f.e = p % f.half / 2 ^ f.m := by
    rw [bits, FFmt.half, Nat.pow_add, Nat.mul_comm, Nat.mod_mul_right_div_self]
  have hfr : bits p 0 f.m = p % f.half % 2 ^ f.m := by
    rw [bits, pow_zero, Nat.div_one, FFmt.half, Nat.pow_add, Nat.mul_comm, Nat.mod_mul_right_mod]
  have hlt : p % f.half / 2 ^ f.m < 2 ^ f.e := by rw [← hex]; exact Nat.mod_lt _ (Nat.two_pow_pos _)
  have hpos : 0 < 2 ^ f.m := Nat.two_pow_pos _
  have hone : 0 < 2 ^ f.e := Nat.two_pow_pos _
  have hparts := Nat.div_add_mod (p % f.half) (2 ^ f.m)
  have hfrlt := Nat.mod_lt (p % f.half) hpos
  unfold decodeFloat
  simp only [hf, Bool.true_and, beq_iff_eq, Bool.not_true, Bool.and_false, Bool.false_and, Bool.false_eq_true, if_false]
  rw [hex, hfr]
  unfold FFmt.infMag FFmt.mant FFmt.expo ones
  generalize p % f.half = q at *
  generalize 2 ^ f.m = M at *
  by_cases htop : q / M = 2 ^ f.e - 1
  · have hq : q = (2 ^ f.e - 1) * M + q % M := by rw [← htop, Nat.mul_comm]; exact hparts.symm
    generalize (2 ^ f.e - 1) * M = top at *
    rw [if_pos htop]
    by_cases h0 : q % M = 0
    · have hnot : ¬ top < q := by omega
      have heq : q = top := by omega
      rw [if_pos h0, if_neg hnot, if_pos heq]
    · have habove : top < q := by omega
      rw [if_neg h0, if_pos habove]
  · have hbelow : q < (2 ^ f.e - 1) * M := (Nat.div_lt_iff_lt_mul hpos).mp (by omega)
    have hnot : ¬ (2 ^ f.e - 1) * M < q := hbelow.le.not_gt
    rw [if_neg htop, if_neg hnot, if_neg hbelow.ne]
    by_cases h0 : q / M = 0
    · have hself : q % M = q := by rw [h0] at hparts; omega
      rw [if_pos h0, if_pos h0, h0, hself]
      rfl
    · rw [if_neg h0, if_neg h0, Nat.max_eq_left (by omega)]

end

/-! ### The value of a finite pattern in units of the smallest -/

/-- A finite magnitude in units of the smallest value of its format. -/
def FFmt.units (f : FFmt) (p : Nat) : Nat := f.mant p * 2 ^ (max (p / 2 ^ f.m) 1 - 1)

theorem FFmt.units_lt (f : FFmt) {p q : Nat} (h : p < q) : f.units p < f.units q := by
  have hpos : 0 < 2 ^ f.m := Nat.two_pow_pos _
  have hp := Nat.mod_lt p hpos
  have hq := Nat.mod_lt q hpos
  have hpp := Nat.div_add_mod p (2 ^ f.m)
  have hqq := Nat.div_add_mod q (2 ^ f.m)
  have hle : p / 2 ^ f.m ≤ q / 2 ^ f.m := Nat.div_le_div_right h.le
  unfold FFmt.units FFmt.mant
  rcases Nat.eq_or_lt_of_le hle with heq | hlt
  · -- In one binade.
    rw [← heq] at hqq ⊢
    refine Nat.mul_lt_mul_of_pos_right ?_ (Nat.two_pow_pos _)
    split
    · exact h
    · omega
  · -- In a lower binade.
    have hq0 : ¬ q / 2 ^ f.m = 0 := ((Nat.zero_le _).trans_lt hlt).ne'
    rw [if_neg hq0]
    have hmant : (if p / 2 ^ f.m = 0 then p else 2 ^ f.m + p % 2 ^ f.m) * 2 ^ (max (p / 2 ^ f.m) 1 - 1) <
        2 ^ f.m * 2 ^ (p / 2 ^ f.m) := by
      split
      · next h0 =>
        rw [h0] at hpp ⊢
        simp
        omega
      · next h0 =>
        obtain ⟨k, hk⟩ := Nat.exists_eq_succ_of_ne_zero h0
        rw [hk, Nat.max_eq_left (by omega), Nat.succ_sub_one, Nat.pow_succ']
        calc (2 ^ f.m + p % 2 ^ f.m) * 2 ^ k < (2 * 2 ^ f.m) * 2 ^ k := Nat.mul_lt_mul_of_pos_right (by omega) (Nat.two_pow_pos _)
          _ = 2 ^ f.m * (2 * 2 ^ k) := by ring
    refine hmant.trans_le (Nat.mul_le_mul (Nat.le_add_right _ _) (Nat.pow_le_pow_right two_pos ?_))
    omega

theorem FFmt.units_le (f : FFmt) {p q : Nat} (h : p ≤ q) : f.units p ≤ f.units q := by
  rcases Nat.eq_or_lt_of_le h with rfl | h
  · rfl
  · exact (f.units_lt h).le

theorem FFmt.units_lt_iff (f : FFmt) {p q : Nat} : f.units p < f.units q ↔ p < q :=
  ⟨fun h => by by_contra hn; exact absurd (f.units_le (Nat.le_of_not_lt hn)) (Nat.not_le.mpr h), f.units_lt⟩

@[simp] theorem FFmt.units_zero (f : FFmt) : f.units 0 = 0 := by simp [FFmt.units, FFmt.mant]

theorem FFmt.mant_eq_zero (f : FFmt) {p : Nat} : f.mant p = 0 ↔ p = 0 := by
  have hpos : 0 < 2 ^ f.m := Nat.two_pow_pos _
  unfold FFmt.mant
  split
  · rfl
  · next h =>
    refine ⟨fun h' => by omega, ?_⟩
    rintro rfl
    simp at h

/-- Multiples of two powers compare as in any smaller unit. -/
theorem inUnits_lt_iff (n n' : Bool) (m m' : Nat) {e e' q0 : Int} (h : q0 ≤ e) (h' : q0 ≤ e') :
    inUnits n m e (min e e') < inUnits n' m' e' (min e e') ↔ inUnits n m e q0 < inUnits n' m' e' q0 := by
  have key : ∀ (n : Bool) (m : Nat) {x q : Int}, q ≤ x → q0 ≤ q → inUnits n m x q0 = inUnits n m x q * 2 ^ (q - q0).toNat :=
    fun n m x q hq h0 => by
      have hpow : (x - q0).toNat = (x - q).toNat + (q - q0).toNat := by omega
      unfold inUnits
      rw [hpow, Nat.pow_add]
      cases n
      · push_cast
        ring
      · simp only [if_true]
        push_cast
        ring
  rw [key n m (min_le_left e e') (le_min h h'), key n' m' (min_le_right e e') (le_min h h')]
  exact (Int.mul_lt_mul_right (by positivity)).symm

theorem FFmt.inUnits_expo (f : FFmt) (n : Bool) (p : Nat) :
    inUnits n (f.mant p) (f.expo p) (1 - (f.bias : Int) - f.m) = if n then -(f.units p : Int) else f.units p := by
  have : (f.expo p - (1 - (f.bias : Int) - f.m)).toNat = max (p / 2 ^ f.m) 1 - 1 := by
    unfold FFmt.expo
    omega
  unfold inUnits FFmt.units
  rw [this]

theorem FFmt.le_expo (f : FFmt) (p : Nat) : 1 - (f.bias : Int) - f.m ≤ f.expo p := by
  unfold FFmt.expo
  omega

/-! ### The float order (R429) is the order of the keys -/

theorem xlt_fin (f : FFmt) (n n' : Bool) (p p' : Nat) :
    xlt (.fin n (f.mant p) (f.expo p)) (.fin n' (f.mant p') (f.expo p')) = true ↔
      (if n then -(p : Int) - 1 else p) < if n' then -(p' : Int) - 1 else p' := by
  unfold xlt
  dsimp only
  simp only [f.mant_eq_zero]
  split
  · next h =>
    obtain ⟨rfl, rfl⟩ := h
    cases n <;> cases n' <;> decide
  · next h =>
    rw [decide_eq_true_iff, inUnits_lt_iff n n' _ _ (f.le_expo p) (f.le_expo p'), f.inUnits_expo, f.inUnits_expo]
    have h1 := f.units_lt_iff (p := p) (q := p')
    have h2 := f.units_lt_iff (p := p') (q := p)
    have h3 := f.units_lt_iff (p := 0) (q := p)
    have h4 := f.units_lt_iff (p := 0) (q := p')
    rw [f.units_zero] at h3 h4
    cases n <;> cases n' <;> simp only [if_true, if_false, Bool.false_eq_true] <;> omega

end Sys2Proof.Machine

/-! SUPPORT. A value of a float format rounds to its own pattern, and the float order (R429) is the order of the keys; so what the
nodes of a collective (R261) and the words and addends of MACCD (R223, R247) are. -/

namespace Sys2Proof.Machine

/-! ### A value of a format rounds to its own pattern -/

theorem FFmt.half_pos (f : FFmt) : 0 < f.half := Nat.two_pow_pos _

theorem FFmt.tbit_sign (f : FFmt) {p : Nat} (hp : p < 2 * f.half) : tbit p (f.e + f.m) = decide (f.half ≤ p) := by
  have hpos := f.half_pos
  unfold tbit
  change (p / f.half % 2 == 1) = _
  by_cases h : f.half ≤ p
  · have hone : p / f.half = 1 := Nat.div_eq_of_lt_le (by omega) (by omega)
    simp [hone, h]
  · simp [Nat.div_eq_of_lt (Nat.lt_of_not_le h), h]

theorem FFmt.mod_half (f : FFmt) {p : Nat} (hp : p < 2 * f.half) : p % f.half = if f.half ≤ p then p - f.half else p := by
  split
  · next h => rw [Nat.mod_eq_sub_mod h, Nat.mod_eq_of_lt (by omega)]
  · next h => exact Nat.mod_eq_of_lt (Nat.lt_of_not_le h)

theorem withSign_tbit (f : FFmt) {p : Nat} (hp : p < 2 * f.half) : withSign f (tbit p (f.e + f.m)) (p % f.half) = p := by
  rw [f.tbit_sign hp, f.mod_half hp]
  unfold withSign
  change _ * f.half + _ = p
  by_cases h : f.half ≤ p
  · simp only [h, decide_true, Bool.toNat_true, if_true]
    omega
  · simp [h]

theorem bitLen_of_binade {n k : Nat} (h : 2 ^ k ≤ n) (h' : n < 2 ^ (k + 1)) : bitLen n = k + 1 := by
  have hn : n ≠ 0 := fun h0 => by simp [h0] at h
  rw [bitLen, if_neg hn, (Nat.log2_eq_iff hn).mpr ⟨h, h'⟩]

theorem bitLen_le {n k : Nat} (h : n < 2 ^ k) : bitLen n ≤ k := by
  unfold bitLen
  split
  · exact Nat.zero_le _
  · next hn => exact (Nat.log2_lt hn).mpr h

/-- A finite pattern lies on the grid of its own binade. -/
theorem roundGrid_self {f : FFmt} (hf : f.hasInf = true) (he : 2 ≤ f.e) (n : Bool) {p : Nat} (hp : p < f.infMag) :
    (roundGrid f .rne 0 n (f.mant p) (f.expo p)).1 = p := by
  have hpos : 0 < 2 ^ f.m := Nat.two_pow_pos _
  have hmod := Nat.mod_lt p hpos
  have hparts := Nat.div_add_mod p (2 ^ f.m)
  have hfour : 2 ^ 2 ≤ 2 ^ f.e := Nat.pow_le_pow_right two_pos he
  have hbin : p / 2 ^ f.m < 2 ^ f.e - 1 := (Nat.div_lt_iff_lt_mul hpos).mpr hp
  have htop : f.top = (2 ^ f.e : Nat) - 2 - f.bias := by
    unfold FFmt.top ones
    rw [hf, Bool.toNat_true]
    omega
  -- The binade of the value is the binade of its pattern.
  have hex : min (max (expOf (f.mant p) (f.expo p)) (1 - (f.bias : Int))) f.top = (max (p / 2 ^ f.m) 1 : Nat) - f.bias := by
    rw [htop]
    unfold expOf FFmt.mant FFmt.expo
    by_cases h0 : p / 2 ^ f.m = 0
    · have hlen : bitLen p ≤ f.m := bitLen_le (by rw [h0, Nat.mul_zero] at hparts; omega)
      rw [if_pos h0, h0]
      omega
    · have hlen : bitLen (2 ^ f.m + p % 2 ^ f.m) = f.m + 1 := bitLen_of_binade (Nat.le_add_right _ _) (by rw [Nat.pow_succ]; omega)
      rw [if_neg h0, hlen]
      generalize p / 2 ^ f.m = b at *
      omega
  have hgrid : (max (p / 2 ^ f.m) 1 : Nat) - (f.bias : Int) - f.m = f.expo p := rfl
  unfold roundGrid
  dsimp only
  rw [hex, hgrid, roundMag_fine le_rfl, Int.sub_self, Int.toNat_zero, pow_zero, Nat.mul_one]
  have hrow : ((max (p / 2 ^ f.m) 1 : Nat) - (f.bias : Int) + f.bias - 1).toNat = max (p / 2 ^ f.m) 1 - 1 := by omega
  rw [hrow]
  unfold FFmt.mant
  by_cases h0 : p / 2 ^ f.m = 0
  · rw [if_pos h0, h0]
    simp
  · obtain ⟨k, hk⟩ := Nat.exists_eq_succ_of_ne_zero h0
    rw [if_neg h0, hk, Nat.max_eq_left (by omega), Nat.succ_sub_one, ← Nat.add_assoc, ← Nat.succ_mul, ← hk, Nat.mul_comm]
    exact hparts

theorem roundArith_decodeFloat {f : FFmt} (hf : f.hasInf = true) (he : 2 ≤ f.e) {p : Nat} (hp : p < 2 * f.half)
    (hnum : p % f.half ≤ f.infMag) : (roundArith f (decodeFloat f p)).1 = p := by
  have hmax : maxMag f = f.infMag - 1 := by rw [maxMag, if_pos hf]; rfl
  have hself := withSign_tbit f hp
  rw [decodeFloat_eq hf, if_neg (Nat.not_lt.mpr hnum)]
  rcases Nat.eq_or_lt_of_le hnum with hinf | hfin
  · rw [if_pos hinf]
    rw [hinf] at hself
    exact hself
  · rw [if_neg hfin.ne]
    unfold roundArith
    dsimp only
    by_cases h0 : f.mant (p % f.half) = 0
    · rw [if_pos h0]
      rw [f.mant_eq_zero.mp h0] at hself
      exact hself
    · rw [if_neg h0, roundGrid_self hf he _ hfin, if_neg (by omega)]
      exact hself

/-! ### The float order (R429) is the order of the keys -/

theorem FFmt.key_eq (f : FFmt) {p : Nat} (hp : p < 2 * f.half) :
    f.key p = if tbit p (f.e + f.m) then -((p % f.half : Nat) : Int) - 1 else (p % f.half : Nat) := by
  rw [f.tbit_sign hp, FFmt.key]
  by_cases h : f.half ≤ p
  · simp [h]
  · simp [h, Nat.mod_eq_of_lt (Nat.lt_of_not_le h)]

theorem FFmt.key_injective (f : FFmt) {a b : Nat} (ha : a < 2 * f.half) (hb : b < 2 * f.half) (h : f.key a = f.key b) : a = b := by
  have h' := h
  unfold FFmt.key at h'
  rw [f.mod_half ha, f.mod_half hb] at h'
  generalize f.half = H at *
  split at h' <;> split at h' <;> omega

theorem xlt_decodeFloat {f : FFmt} (hf : f.hasInf = true) {a b : Nat} (ha : a < 2 * f.half) (hb : b < 2 * f.half)
    (hna : a % f.half ≤ f.infMag) (hnb : b % f.half ≤ f.infMag) :
    xlt (decodeFloat f a) (decodeFloat f b) = true ↔ f.key a < f.key b := by
  rw [decodeFloat_eq hf, decodeFloat_eq hf, if_neg (Nat.not_lt.mpr hna), if_neg (Nat.not_lt.mpr hnb), f.key_eq ha, f.key_eq hb]
  generalize tbit a (f.e + f.m) = n
  generalize tbit b (f.e + f.m) = n'
  generalize a % f.half = p at *
  generalize b % f.half = q at *
  rcases Nat.eq_or_lt_of_le hna with rfl | hfa <;> rcases Nat.eq_or_lt_of_le hnb with hfb | hfb
  · rw [if_pos rfl, if_pos hfb]
    cases n <;> cases n' <;> simp [xlt] <;> omega
  · rw [if_pos rfl, if_neg hfb.ne]
    cases n <;> cases n' <;> simp [xlt] <;> omega
  · rw [if_neg hfa.ne, if_pos hfb]
    cases n <;> cases n' <;> simp [xlt] <;> omega
  · rw [if_neg hfa.ne, if_neg hfb.ne]
    exact xlt_fin f n n' p q

theorem decodeFloat_isNan {f : FFmt} (hf : f.hasInf = true) (p : Nat) :
    (decodeFloat f p).isNan = true ↔ f.infMag < p % f.half := by
  rw [decodeFloat_eq hf]
  split
  · next h => simp [XVal.isNan, h]
  · next h => split <;> simp [XVal.isNan, Nat.le_of_not_lt h]

section

variable {f : FFmt} (hf : f.hasInf = true) {a b : Nat}

include hf

theorem xmin_nan (h : f.infMag < a % f.half ∨ f.infMag < b % f.half) : (xmin (decodeFloat f a) (decodeFloat f b)).1 = .nan false := by
  rw [← decodeFloat_isNan hf, ← decodeFloat_isNan hf, ← Bool.or_eq_true] at h
  unfold xmin
  dsimp only
  rw [if_pos h]

theorem xmax_nan (h : f.infMag < a % f.half ∨ f.infMag < b % f.half) : (xmax (decodeFloat f a) (decodeFloat f b)).1 = .nan false := by
  rw [← decodeFloat_isNan hf, ← decodeFloat_isNan hf, ← Bool.or_eq_true] at h
  unfold xmax
  dsimp only
  rw [if_pos h]

variable (he : 2 ≤ f.e) (ha : a < 2 * f.half) (hb : b < 2 * f.half) (hna : a % f.half ≤ f.infMag) (hnb : b % f.half ≤ f.infMag)

include hna hnb in
theorem not_isNan_or : ¬ ((decodeFloat f a).isNan || (decodeFloat f b).isNan) = true := by
  rw [Bool.or_eq_true, decodeFloat_isNan hf, decodeFloat_isNan hf]
  omega

include he ha hb hna hnb

theorem roundArith_xmin : (roundArith f (xmin (decodeFloat f a) (decodeFloat f b)).1).1 = if f.key a ≤ f.key b then a else b := by
  have hlt := xlt_decodeFloat hf hb ha hnb hna
  unfold xmin
  dsimp only
  rw [if_neg (not_isNan_or hf hna hnb)]
  by_cases h : f.key a ≤ f.key b
  · rw [if_pos h, if_neg (fun hx => absurd (hlt.mp hx) h.not_gt), roundArith_decodeFloat hf he ha hna]
  · rw [if_neg h, if_pos (hlt.mpr (Int.lt_of_not_ge h)), roundArith_decodeFloat hf he hb hnb]

theorem roundArith_xmax : (roundArith f (xmax (decodeFloat f a) (decodeFloat f b)).1).1 = if f.key a ≤ f.key b then b else a := by
  have hlt := xlt_decodeFloat hf ha hb hna hnb
  unfold xmax
  dsimp only
  rw [if_neg (not_isNan_or hf hna hnb)]
  by_cases h : f.key a < f.key b
  · rw [if_pos h.le, if_pos (hlt.mpr h), roundArith_decodeFloat hf he hb hnb]
  · rw [if_neg (fun hx => h (hlt.mp hx)), roundArith_decodeFloat hf he ha hna]
    split
    · next hle => exact f.key_injective ha hb (le_antisymm hle (Int.not_lt.mp h))
    · rfl

end

/-! ### Nodes and results of collectives -/

/-- The three formats of F types, by their patterns. -/
theorem fmtOf_patterns {ty : ETy} (h : ty = .f32 ∨ ty = .f16 ∨ ty = .bf16) :
    ty.isF = true ∧ (fmtOf ty).hasInf = true ∧ 2 ≤ (fmtOf ty).e ∧ (fmtOf ty).half = 2 ^ (ty.cw - 1) ∧
      2 * (fmtOf ty).half = 2 ^ ty.cw ∧
      (fmtOf ty).infMag = (if ty = .f32 then 0x7F800000 else if ty = .f16 then 0x7C00 else 0x7F80) ∧
      canonNan (fmtOf ty) = if ty = .f32 then 0x7FC00000 else if ty = .f16 then 0x7E00 else 0x7FC0 := by
  rcases h with rfl | rfl | rfl <;> decide

theorem collNode_min_float {ty : ETy} (h : ty.isF = true) (a b : Nat) :
    collNode 1 ty a b = (roundArith (fmtOf ty) (xmin (decodeFloat (fmtOf ty) a) (decodeFloat (fmtOf ty) b)).1).1 :=
  (if_pos h : (if ty.isF = true then (floatOp2 ty xmin a b).1 else (intOp2 ty min a b).1) = (floatOp2 ty xmin a b).1)

theorem collNode_max_float {ty : ETy} (h : ty.isF = true) (a b : Nat) :
    collNode 2 ty a b = (roundArith (fmtOf ty) (xmax (decodeFloat (fmtOf ty) a) (decodeFloat (fmtOf ty) b)).1).1 :=
  (if_pos h : (if ty.isF = true then (floatOp2 ty xmax a b).1 else (intOp2 ty max a b).1) = (floatOp2 ty xmax a b).1)

/-- The levels of a tree over a list of known length. -/
theorem collTree_levels {op : Nat} {t : ETy} {xs : List Nat} {n lv : Nat} (hn : xs.length = n) (hlv : bitLen n = lv) :
    collTree op t (bitLen xs.length) xs = collTree op t lv xs := by
  rw [hn, hlv]

theorem ETy.valBits_le (ty : ETy) : ty.valBits ≤ ty.cw := by cases ty <;> decide

theorem elem_collResult (r : CollRec) (srcs : List Nat) {i : Nat} (hi : i < r.count) :
    elem (collResult r srcs) (tyOfCode r.ty).cw i =
      collTree r.op (tyOfCode r.ty) (bitLen srcs.length) (srcs.map (fun v => elem v (tyOfCode r.ty).cw i)) % 2 ^ (tyOfCode r.ty).valBits :=
  elem_packed (g := fun i => collTree r.op (tyOfCode r.ty) (bitLen srcs.length) (srcs.map (fun v => elem v (tyOfCode r.ty).cw i)) %
      2 ^ (tyOfCode r.ty).valBits)
    (fun _ _ => (Nat.mod_lt _ (Nat.two_pow_pos _)).trans_le (Nat.pow_le_pow_right two_pos (ETy.valBits_le _))) hi

/-! ### Words and addends of MACCD -/

theorem accdWord_float {prof : Nat} (h : prof ≠ 3) (clamp : Bool) (word e : Nat) :
    accdWord prof clamp word e =
      if clamp = true ∧ (addRound F32 word e).1 = 0x7F800000 then 0x7F7FFFFF
      else if clamp = true ∧ (addRound F32 word e).1 = 0xFF800000 then 0xFF7FFFFF else (addRound F32 word e).1 := by
  have hlt : (addRound F32 word e).1 < 2 * F32.half := roundArith_lt _
  unfold accdWord
  rw [if_neg h]
  dsimp only
  cases clamp with
  | false => simp
  | true =>
    generalize (addRound F32 word e).1 = p at *
    have hhalf : F32.half = 0x80000000 := by decide
    have hinf : F32.infMag = 0x7F800000 := by decide
    have hmod := F32.mod_half hlt
    rw [if_pos rfl, decodeFloat_eq rfl, F32.tbit_sign hlt]
    rw [hhalf] at hmod hlt ⊢
    rw [hinf]
    simp only [true_and]
    by_cases hp : p % 0x80000000 = 0x7F800000
    · rw [if_neg (by omega), if_pos hp]
      dsimp only
      rw [withSign_maxMag_f32]
      by_cases hs : 0x80000000 ≤ p
      · rw [if_pos hs] at hmod
        rw [if_pos (decide_eq_true hs), if_neg (by omega), if_pos (by omega)]
      · rw [if_neg hs] at hmod
        rw [if_neg (by simpa using hs), if_pos (by omega)]
    · have hne : ¬ p = 0x7F800000 := by rintro rfl; exact hp rfl
      have hne' : ¬ p = 0xFF800000 := by rintro rfl; exact hp rfl
      rw [if_neg hne, if_neg hne', if_neg hp]
      split
      · next hx => split at hx <;> cases hx
      · rfl

theorem cellClamp_fin (n : Bool) (m : Nat) (x a : Int) : cellClamp (.fin n m x) a =
    if 2 ^ 191 ≤ m * 2 ^ (x - a).toNat / 2 ^ (a - x).toNat then .fin n (2 ^ 191 - 1) a else .fin n m x := by
  unfold cellClamp
  dsimp only
  rw [cellUnits_eq]

end Sys2Proof.Machine

/-! SUPPORT. The bytes and words of a MACCD row (R247, R223): in the own scratchpad before later stores, and over device pages. -/

namespace Sys2Proof.Machine

/-! ### A row in the own scratchpad -/

/-- Word `j` of a row at `a` as its update finds it. -/
def keptWord (sp : Memory) (ks : List Kept) (a j : Nat) : Nat :=
  (keptByte sp ks (a + 4 * j)).toNat + 2 ^ 8 * (keptByte sp ks (a + 4 * j + 1)).toNat +
    2 ^ 16 * (keptByte sp ks (a + 4 * j + 2)).toNat + 2 ^ 24 * (keptByte sp ks (a + 4 * j + 3)).toNat

theorem elem_keptLE (sp : Memory) (ks : List Kept) (a : Nat) {j : Nat} (hj : j < 128) :
    elem (keptLE sp ks a 512) 32 j = keptWord sp ks a j := by
  have hlt : ∀ j < 128, keptWord sp ks a j < 2 ^ 32 := fun j _ => by
    have h0 := (keptByte sp ks (a + 4 * j)).isLt
    have h1 := (keptByte sp ks (a + 4 * j + 1)).isLt
    have h2 := (keptByte sp ks (a + 4 * j + 2)).isLt
    have h3 := (keptByte sp ks (a + 4 * j + 3)).isLt
    unfold keptWord
    omega
  rw [keptLE_packed, packed_words 128]
  exact elem_packed (g := keptWord sp ks a) hlt hj

/-- A byte of the row that an update of MACCD writes. -/
theorem byteOf_accdWords_keptLE (prof : Nat) (clamp : Bool) (sp : Memory) (ks : List Kept) (a v : Nat) {i : Nat} (hi : i < 512) :
    byteOf (accdWords prof clamp (keptLE sp ks a 512) v) i =
      byteOf (accdWord prof clamp (keptWord sp ks a (i / 4)) (elem v 32 (i / 4))) (i % 4) := by
  rw [accdWords_packed, byteOf_packed_word (fun _ _ => accdWord_lt ..) hi, elem_keptLE sp ks a (by omega)]

/-! ### A row over device pages -/

section

variable {s : State} {x : Ctx} {d : DrainRec} {a n v : Nat}

theorem State.virtRow_words_eq : s.virtRow x d a 512 v = s.vwriteLE x a 512 (accdWords d.prof d.clamp (s.vreadLE x a 512) v) :=
  if_pos rfl

theorem State.virtRow_cells_eq : s.virtRow x d a 4096 v = s.accdCells x d a v := if_neg (by decide)

variable (hw : Memory.wf s.dev = true)

include hw

theorem State.virtRow_words (hr : x.devRange a 512) {j : Nat} (hj : j < 128) :
    elem ((s.virtRow x d a 512 v).vreadLE x a 512) 32 j =
      accdWord d.prof d.clamp (elem (s.vreadLE x a 512) 32 j) (elem v 32 j) % 2 ^ 32 := by
  rw [Nat.mod_eq_of_lt (accdWord_lt ..), ← elem_accdWords d.prof d.clamp _ _ hj, State.virtRow_words_eq]
  exact State.elem_vwriteLE (n := 128) hw hr _ hj

theorem State.virtRow_cells (hr : x.devRange a 4096) {j : Nat} (hj : j < 128) :
    (s.virtRow x d a 4096 v).vreadLE x (a + 32 * j) 32 = accdCellNew x d a v (s.vreadLE x (a + 32 * j) 32) j := by
  obtain ⟨-, hcells, -⟩ := State.accdCells_upto x d a v hw hr le_rfl
  rw [State.virtRow_cells_eq, State.accdCells_eq]
  exact hcells j hj

theorem State.virtRow_outside (hn : n = 512 ∨ n = 4096) (hr : x.devRange a n) {w : Nat × Nat}
    (hout : ∀ j < n, x.placeOf 0 .virt (a + j) ≠ some w) : (s.virtRow x d a n v).placeByte w = s.placeByte w := by
  rcases hn with rfl | rfl
  · obtain ⟨-, -, hsame⟩ := State.placeByte_vwriteLE hw hr (accdWords d.prof d.clamp (s.vreadLE x a 512) v)
    rw [State.virtRow_words_eq]
    exact hsame w hout
  · obtain ⟨-, -, hsame⟩ := State.accdCells_upto x d a v hw hr le_rfl
    rw [State.virtRow_cells_eq, State.accdCells_eq]
    exact hsame w hout

end

theorem Ctx.accdRow_cases (x : Ctx) (va : Int) : x.accdRow va = 512 ∨ x.accdRow va = 4096 := by
  unfold Ctx.accdRow
  split
  · exact .inr rfl
  · exact .inl rfl

end Sys2Proof.Machine

/-! SUPPORT. The queues of the engines perform (R257, R260, R246, R268). -/

namespace Sys2Proof

open Machine

/-- Settles O41: each queue by the equation of its step; a MACCD row of the own scratchpad by the bytes that its update finds and
writes, one in device memory by induction over its cells; the nodes of a float MIN and MAX by the order of the patterns. -/
theorem engineQueuesPerform : Obligations.EngineQueuesPerform := by
  unfold Obligations.EngineQueuesPerform
  refine ⟨fun s c => ?_, ?_, ?_, ?_, ?_⟩
  · intro x
    refine ⟨fun g hg => ⟨fun a hb => exec_gatherComplete_bad hg hb, fun hb hf hh ha hn => ?_⟩, fun r hr hready => ?_, ?_, ?_⟩
    · -- A gather.
      obtain ⟨fn, nd, hexec⟩ := exec_gatherComplete_reads hg hb hf hh ha
      refine ⟨_, { g with results := some (s.gathered x g) }, hexec, ?_, rfl, rfl, s.fillAll_dev fn nd, ?_⟩
      · rw [State.ctx_setCtx]
        exact Ctx.mem_setGather (Ctx.headGather_mem hg) rfl
      · rw [State.ctx_setCtx]
        rfl
    · -- A collective.
      intro cs recOf hall hc hn hw n leaves
      have hleaves : ∀ v, leaves ((cs.map fun d => (d, recOf d)).foldl (State.giveColl n v) s) v := fun v d hd q hq =>
        State.giveColl_all hn n v hd (hw d hd) hq (State.joined_mem hq)
      refine ⟨fun h6 => ?_, fun h6 root q hroot hq => ?_⟩
      · refine ⟨_, exec_collectiveComplete hr hready hall hc (fun h => absurd h h6), ?_⟩
        rw [if_neg h6, List.filterMap_map]
        exact hleaves _
      · refine ⟨_, exec_collectiveComplete hr hready hall hc (fun _ => ⟨root, hroot⟩), ?_⟩
        have hsnap : (s.joined root r.level r.ordinal).map (·.snap) = some q.snap := congrArg _ hq
        rw [if_pos h6, hroot, Option.toList_some, List.filterMap_cons_some (f := fun d => (s.joined d r.level r.ordinal).map (·.snap)) hsnap,
           List.filterMap_nil]
        exact hleaves _
    · -- A drain push.
      intro d i v more rest hd hb hrows goesOn unkept
      refine ⟨fun hsp hw => ?_, fun hsp => ?_⟩
      · intro a
        refine ⟨fun hacc => ?_, fun hacc hbad => ?_⟩
        · refine ⟨_, exec_drainPush_stores hd hb hrows hsp rfl hacc, ?_, rfl, ?_⟩
          · rw [State.tile_setCtx, State.spWriteLE_sp, if_pos rfl, readLE_writeLE _ _ _ _ hw]
          · change ((State.setCtx _ c _).ctx c).drains = _
            rw [State.ctx_setCtx, Ctx.dropRow_drains hd hrows]
        · intro kept before word new
          refine ⟨_, exec_drainPush_adds hd hb hrows hsp rfl hacc hbad, ?_⟩
          generalize hV : accdWords d.prof d.clamp (keptLE (s.tile (tileOf c)).sp d.kept a 512) v = V
          have hnew : ∀ b, a ≤ b → b < a + 512 → byteOf V (b - a) = new b := fun b h1 h2 => by
            rw [← hV, byteOf_accdWords_keptLE _ _ _ _ _ _ (by omega)]
            rfl
          obtain ⟨-, hsp'⟩ := State.ownUpdate_sp c d.post d.kept a V hw 512
          have hsame := s.ownUpdate_unkept c d.post d.kept a V 512
          have hfinds := s.ownUpdate_finds c d.post d.kept a V 512
          rw [State.ctx_setCtx]
          refine ⟨fun b => ?_, fun hk => ?_, unkept_dropRow hd hrows hsame, fun q hq k hk h1 h2 hwhen => ?_⟩
          · rw [State.tile_setCtx, hsp']
            by_cases hin : a ≤ b ∧ b < a + 512 ∧ kept b = none
            · obtain ⟨h1, h2, h3⟩ := hin
              rw [if_pos ⟨h1, h2, h3⟩, if_pos ⟨h1, h2, h3⟩, hnew b h1 h2]
            · rw [if_neg hin, if_neg hin]
          · change ((State.setCtx _ c _).ctx c).drains = _
            rw [State.ctx_setCtx]
            refine Ctx.dropRow_drains (x := (s.ownUpdate c d.post d.kept a 512 V).ctx c) ?_ hrows
            rw [hk]
            exact hd
          · obtain ⟨q', hq', hkept⟩ := Ctx.kept_dropRow hq
            rw [← hnew _ h1 h2]
            exact hfinds q' hq' k (hkept ▸ hk) (k.at' - a) (by omega) (by omega) hwhen
      · intro va n nd a hf hh ha
        refine ⟨_, exec_drainPush_virt hd hb hrows hsp rfl rfl rfl hf hh ha, ?_, fun hw hmap hinj => ?_⟩
        · change ((State.setCtx _ c _).ctx c).drains = _
          rw [State.ctx_setCtx, Ctx.dropRow_drains hd hrows]
        · -- The caches change no byte, so the row is that of `s`.
          generalize hu : (s.fillAll x.tenant nd).dropTicket c (some d.seq) = u
          have hbyte : ∀ w, u.placeByte w = s.placeByte w := hu ▸ fun w => s.placeByte_fillAll x.tenant nd w
          have hdev : Memory.wf u.dev = true := hu ▸ (s.fillAll_dev x.tenant nd).symm ▸ hw
          have hread : ∀ p m, ((u.virtRow x d a n v).setCtx c x.dropRow).vreadLE x p m = (u.virtRow x d a n v).vreadLE x p m :=
            fun p m =>
            State.vreadLE_congr (s := u.virtRow x d a n v) (t := (u.virtRow x d a n v).setCtx c x.dropRow) (fun _ => rfl) x p m
          have hr : x.devRange a n := ⟨hmap, hinj⟩
          refine ⟨fun hn j hj => ?_, fun hn j hj => ?_, fun w hout => ?_⟩
          · rw [hread, hn, State.virtRow_words hdev (hn ▸ hr) hj, State.vreadLE_congr hbyte]
          · rw [hread, hn, State.virtRow_cells hdev (hn ▸ hr) hj, State.vreadLE_congr hbyte]
            rfl
          · exact (State.virtRow_outside hdev (x.accdRow_cases va) hr hout).trans (hbyte w)
    · -- An overlay copy.
      intro k hk im nd hp hf hh ha
      refine ⟨_, exec_segmentResident hk rfl rfl hp hf hh ha, ?_⟩
      rw [State.ctx_setCtx]
      refine ⟨Ctx.setHalf_ovCopy .., Ctx.setHalf_half .., Ctx.setHalf_pc .., s.fillAll_dev x.tenant nd, fun hw j hj => ?_⟩
      rw [Ctx.resident, Ctx.setHalf_imem]
      exact Ctx.fillHalf_imem (x := { x with ovCopy := none }) hw k.half
        (by rw [List.getElem?_map, List.getElem?_range hj]; rfl)
  · exact fun op ty a b e f g => ⟨collTree_levels (n := 1) (lv := 1) rfl (by decide), collTree_levels (n := 2) (lv := 2) rfl (by decide),
      collTree_levels (n := 3) (lv := 2) rfl (by decide), collTree_levels (n := 4) (lv := 3) rfl (by decide),
      collTree_levels (n := 5) (lv := 3) rfl (by decide)⟩
  · intro ty a b
    refine ⟨fun h => if_neg (by simp [h]), fun h => if_pos h, rfl, rfl, rfl,
      fun h => ⟨if_neg (by simp [h]), if_neg (by simp [h])⟩, fun hty ha hb => ?_⟩
    intro half inf isNan key
    obtain ⟨hF, hinf, he, hhalf, htwice, hmag, hcanon⟩ := fmtOf_patterns hty
    rw [← htwice] at ha hb
    have hnan : ∀ p, isNan p ↔ (fmtOf ty).infMag < p % (fmtOf ty).half := fun p => by rw [hhalf, hmag]
    have hkey : ∀ p, key p = (fmtOf ty).key p := fun p => by rw [FFmt.key, hhalf]
    refine ⟨fun h op hop => ?_, fun hna hnb => ?_⟩
    · rw [hnan, hnan] at h
      rw [← hcanon]
      rcases hop with rfl | rfl
      · rw [collNode_min_float hF, xmin_nan hinf h]
        rfl
      · rw [collNode_max_float hF, xmax_nan hinf h]
        rfl
    · rw [hnan, Nat.not_lt] at hna hnb
      rw [hkey, hkey, collNode_min_float hF, collNode_max_float hF]
      exact ⟨roundArith_xmin hinf he ha hb hna hnb, roundArith_xmax hinf he ha hb hna hnb⟩
  · intro prof word e clamp a sum
    refine ⟨rfl, fun h => accdWord_float h clamp word e, ?_⟩
    intro v
    refine ⟨rfl, fun n hv => ?_, fun n hv => ?_, fun n m y hv => ?_⟩
    · exact (congrArg (cellClamp · a) hv).trans hv.symm
    · exact congrArg (cellClamp · a) hv
    · intro units
      exact (congrArg (cellClamp · a) hv).trans ((cellClamp_fin n m y a).trans (by rw [← hv]))
  · intro r srcs i hi ty
    exact elem_collResult r srcs hi

end Sys2Proof

/-! SUPPORT. No step fills an undo log or a gate beyond its entries (R279, R280). A context stands within another when its log has the
same keys and its gate no more entries; every operation on a context keeps it within what it was, empties both, or takes an entry after a test
for room. -/

namespace Sys2Proof.Machine

/-! ### The entries of a context -/

/-- Gate entries, queue by queue. -/
theorem Ctx.gateUse_eq (x : Ctx) : x.gateUse =
    x.rows.length + (x.recs.countP (·.held) + x.cells.countP (·.held) + x.drains.countP (·.held)) := by
  simp [Ctx.gateUse, Ctx.held, List.countP_eq_length_filter, Nat.add_assoc]

/-- The limits of the log in terms of its keys. -/
theorem Ctx.logsOk_iff (x : Ctx) : x.logsOk = true ↔ (x.undo.map (·.key)).countP (fun k => !k.vector) ≤ Config.undoScalarMax ∧
    (x.undo.map (·.key)).countP UKey.vector ≤ Config.undoVectorMax ∧ x.gateUse ≤ Config.gateMax := by
  simp only [Ctx.logsOk, ← List.countP_eq_length_filter, List.countP_map, Function.comp_def, Bool.and_eq_true, decide_eq_true_eq,
    and_assoc]

/-- The keys of the log, and the entries of the gate in use. -/
def Ctx.entries (x : Ctx) : List UKey × Nat := (x.undo.map (·.key), x.gateUse)

/-- A context whose log has the keys of another's, and whose gate no more entries. -/
def Ctx.Within (y x : Ctx) : Prop := y.undo.map (·.key) = x.undo.map (·.key) ∧ y.gateUse ≤ x.gateUse

theorem Ctx.Within.refl (x : Ctx) : x.Within x := ⟨rfl, le_rfl⟩

theorem Ctx.Within.trans {x y z : Ctx} (h : z.Within y) (h' : y.Within x) : z.Within x :=
  ⟨h.1.trans h'.1, h.2.trans h'.2⟩

theorem Ctx.Within.logsOk {x y : Ctx} (h : y.Within x) (hx : x.logsOk = true) : y.logsOk = true := by
  rw [Ctx.logsOk_iff] at hx ⊢
  rw [h.1]
  exact ⟨hx.1, hx.2.1, h.2.trans hx.2.2⟩

/-- What differs from a context within another in nothing that counts. -/
theorem Ctx.Within.congr {x y z : Ctx} (h : y.Within x) (he : z.entries = y.entries) : z.Within x :=
  ⟨(congrArg Prod.fst he).trans h.1, (congrArg Prod.snd he).le.trans h.2⟩

theorem Ctx.within_of_entries {x y : Ctx} (h : y.entries = x.entries) : y.Within x :=
  ⟨congrArg Prod.fst h, (congrArg Prod.snd h).le⟩

/-- The queues of a context hold no more pushes, and its gate no more rows. -/
theorem Ctx.within_of {x y : Ctx} (hu : y.undo.map (·.key) = x.undo.map (·.key)) (hrow : y.rows.length ≤ x.rows.length)
    (hr : y.recs.countP (·.held) ≤ x.recs.countP (·.held)) (hc : y.cells.countP (·.held) ≤ x.cells.countP (·.held))
    (hd : y.drains.countP (·.held) ≤ x.drains.countP (·.held)) : y.Within x := by
  refine ⟨hu, ?_⟩
  rw [Ctx.gateUse_eq, Ctx.gateUse_eq]
  omega

theorem Ctx.logsOk_of_entries {x y : Ctx} (h : y.entries = x.entries) : y.logsOk = x.logsOk := by
  rw [Bool.eq_iff_iff]
  exact ⟨(Ctx.within_of_entries h.symm).logsOk, (Ctx.within_of_entries h).logsOk⟩

/-- An empty log and an empty gate. -/
theorem Ctx.logsOk_of_empty {x : Ctx} (hu : x.undo = []) (hr : x.rows = []) (hh : x.held = []) : x.logsOk = true := by
  simp [Ctx.logsOk, Ctx.gateUse, hu, hr, hh]

/-- A context with a loop of changes, each of which keeps it within what it was. -/
theorem Ctx.within_foldl {α : Type} {f : Ctx → α → Ctx} (h : ∀ x a, (f x a).Within x) (as : List α) (x : Ctx) :
    (as.foldl f x).Within x :=
  List.foldlRecOn (motive := fun y => y.Within x) as f (.refl x) fun y hy a _ => (h y a).trans hy

/-! ### Updates that leave the entries -/

section
variable (x : Ctx)

@[simp] theorem Ctx.entries_setCr (num v : Nat) : (x.setCr num v).entries = x.entries := by
  unfold Ctx.setCr
  split <;> rfl

@[simp] theorem Ctx.entries_setDst (d : Dst) (mask v : Nat) : (x.setDst d mask v).entries = x.entries := by
  cases d with
  | cr num => exact x.entries_setCr num v
  | _ => rfl

@[simp] theorem Ctx.entries_nextAddr (pc : PAddr) (len : Nat) : (x.nextAddr pc len).entries = x.entries := by
  unfold Ctx.nextAddr
  split <;> rfl

@[simp] theorem Ctx.entries_advance (pc : PAddr) (len : Nat) (taken : Option PAddr) (annuls : Bool) :
    (x.advance pc len taken annuls).entries = x.entries := (Ctx.entries_nextAddr _ _ _).trans rfl

@[simp] theorem Ctx.entries_advanceAnnulled (pc : PAddr) (len : Nat) : (x.advanceAnnulled pc len).entries = x.entries :=
  (Ctx.entries_nextAddr _ _ _).trans rfl

@[simp] theorem Ctx.entries_freshSegment : x.freshSegment.entries = x.entries := by
  unfold Ctx.freshSegment
  split <;> rfl

@[simp] theorem Ctx.entries_enterService (now cause eaddr eslot : Nat) (epc : PAddr) :
    (x.enterService now cause eaddr eslot epc).entries = x.entries := rfl

@[simp] theorem Ctx.entries_leaveService (now : Nat) : (x.leaveService now).entries = x.entries := rfl
@[simp] theorem Ctx.entries_setEvent (bit : Nat) : (x.setEvent bit).entries = x.entries := rfl

@[simp] theorem Ctx.entries_addFault (code eaddr : Nat) (post : Bool) (ch : Option Nat) (seq colour : Nat) :
    (x.addFault code eaddr post ch seq colour).entries = x.entries := rfl

@[simp] theorem Ctx.entries_deliverDone (ch n : Nat) : (x.deliverDone ch n).entries = x.entries := rfl
@[simp] theorem Ctx.entries_setGather (g : GatherRec) : (x.setGather g).entries = x.entries := rfl
@[simp] theorem Ctx.entries_setColl (r : CollRec) : (x.setColl r).entries = x.entries := rfl
@[simp] theorem Ctx.entries_fillHalf (half : Nat) (bytes : List Byte) : (x.fillHalf half bytes).entries = x.entries := rfl

@[simp] theorem Ctx.entries_setHalf (half : Nat) (seg : Option Nat) : (x.setHalf half seg).entries = x.entries := by
  unfold Ctx.setHalf
  split <;> rfl

@[simp] theorem Ctx.entries_startCopy (seg : Nat) : (x.startCopy seg).entries = x.entries := by
  have hhalf (half : Nat) : ((x.setHalf half none).fillHalf half []).entries = x.entries := by simp
  exact hhalf (if x.half1 = some x.cur then 0 else 1)

@[simp] theorem Ctx.entries_needSegment (seg : Nat) : (x.needSegment seg).entries = x.entries := by
  unfold Ctx.needSegment
  split
  · split
    · rfl
    · exact x.entries_startCopy seg
  · exact x.entries_startCopy seg

@[simp] theorem Ctx.entries_boundaryCopy : x.boundaryCopy.entries = x.entries := by
  unfold Ctx.boundaryCopy
  split
  · rfl
  · exact x.entries_startCopy _

@[simp] theorem Ctx.entries_setPlane (n : Nat) (p : Plane) : (x.setPlane n p).entries = x.entries := by
  unfold Ctx.setPlane
  split <;> rfl

@[simp] theorem Ctx.entries_release (now : Nat) : (x.release now).entries = x.entries := rfl
@[simp] theorem Ctx.entries_arrive (level mask now : Nat) : (x.arrive level mask now).entries = x.entries := rfl

@[simp] theorem Ctx.entries_halt (now : Nat) : (x.halt now).entries = x.entries := by
  simp only [Ctx.halt]
  split <;> rfl

@[simp] theorem Ctx.entries_undebug (now : Nat) : (x.undebug now).entries = x.entries := rfl
@[simp] theorem Ctx.entries_unhalt (now : Nat) (once : Bool) : (x.unhalt now once).entries = x.entries := rfl

theorem Ctx.entries_debugPend (reg : Nat) (v : Word) : (x.debugPend reg v).entries = x.entries := by
  simp only [Ctx.debugPend]
  split
  · rfl
  · split <;> rfl

@[simp] theorem Ctx.entries_ite (p : Prop) [Decidable p] (x y : Ctx) :
    (if p then x else y).entries = if p then x.entries else y.entries := apply_ite Ctx.entries p x y

@[simp] theorem Ctx.entries_debugWrite (reg : Nat) (v : Word) : (x.debugWrite reg v).entries = x.entries := by
  have hs (m : AMap Word) : Ctx.entries { x with s := m } = x.entries := rfl
  have hq (b : BitVec 8) : Ctx.entries { x with q := b } = x.entries := rfl
  have hpc (a : PAddr) : Ctx.entries { x with pc := a } = x.entries := rfl
  simp only [Ctx.debugWrite, Ctx.entries_ite, Ctx.entries_setDst, Ctx.entries_setCr, Ctx.entries_debugPend, hs, hq, hpc, ite_self]

@[simp] theorem Ctx.entries_debugPlane (reg : Nat) (v : Word) : (x.debugPlane reg v).entries = x.entries := by
  simp only [Ctx.debugPlane]
  split
  · rfl
  · exact Ctx.entries_setPlane _ _ _

@[simp] theorem Ctx.entries_losePosted : x.losePosted.entries = x.entries :=
  foldl_keeps (g := Ctx.entries) (fun y _ => y.entries_addFault _ _ _ _ _ _) x.posted { x with posted := [] }

@[simp] theorem Ctx.entries_takeReads (t : Tile) (now : Nat) : (x.takeReads t now).entries = x.entries := by
  simp only [Ctx.takeReads]
  exact foldl_keeps (g := Ctx.entries) (fun y p => y.entries_addFault _ _ _ _ _ _) _ _

@[simp] theorem State.entries_tickCtx (s : State) (c : Nat) : (s.tickCtx c x).entries = x.entries := by
  simp only [State.tickCtx]
  split <;> rfl

/-! ### Landings keep the keys of the log -/

theorem map_key_of {f : UndoEntry → UndoEntry} (hf : ∀ e, (f e).key = e.key) (es : List UndoEntry) :
    (es.map f).map (·.key) = es.map (·.key) := by
  rw [List.map_map]
  exact List.map_congr_left fun e _ => hf e

@[simp] theorem Ctx.entries_land (w : PendWrite) : (x.land w).entries = x.entries := by
  unfold Ctx.land
  rw [Ctx.entries_setDst]
  refine Prod.ext ?_ rfl
  simp only [Ctx.entries]
  split
  · rfl
  · split
    · split
      · refine map_key_of (fun e => ?_) _
        split <;> rfl
      · rfl
    · refine map_key_of (fun e => ?_) _
      split <;> rfl

@[simp] theorem Ctx.entries_landAll (now : Nat) : (x.landAll now).entries = x.entries := by
  simp only [Ctx.landAll]
  refine (foldl_keeps (g := Ctx.entries) (fun y w => y.entries_land w) _ _).trans ?_
  exact (foldl_keeps (g := Ctx.entries) (fun y w => y.entries_land w) _ _).trans rfl

@[simp] theorem Ctx.entries_landEvery : x.landEvery.entries = x.entries := x.entries_landAll _

/-! ### Pushes that leave, perform or are released -/

/-- Records that are replaced by others of the same number, none of which is held. -/
theorem countP_map_le {α : Type} {p : α → Bool} {f : α → α} (h : ∀ a, p (f a) = true → p a = true) (as : List α) :
    (as.map f).countP p ≤ as.countP p := by
  rw [List.countP_map]
  exact List.countP_mono_left fun a _ => h a

theorem Ctx.releaseWhere_within (p : Nat → Bool) : (x.releaseWhere p).Within x := by
  refine Ctx.within_of rfl le_rfl ?_ ?_ ?_ <;>
    exact countP_map_le (fun r hr => by split at hr <;> simp_all) _

theorem Ctx.releaseAll_within : x.releaseAll.Within x := x.releaseWhere_within _

theorem Ctx.releaseColours_within (mask limit : Nat) : (x.releaseColours mask limit).Within x := by
  simp only [Ctx.releaseColours]
  split
  · exact .refl x
  · exact (x.releaseWhere_within fun n => (x.coveredHeld mask limit).contains n).congr rfl

theorem Ctx.releaseChan_within (ch : Nat) : (x.releaseChan ch).Within x := by
  simp only [Ctx.releaseChan]
  generalize List.foldl _ 0 _ = last
  split
  · exact .refl x
  · exact (x.releaseWhere_within fun n => decide (n < last)).congr rfl

theorem Ctx.syncRelease_within (mask limit : Nat) : (x.syncRelease mask limit).Within x := by
  have h : (if mask = 0 then x else x.releaseWhere (fun n => decide (n < limit))).Within x := by
    split
    · exact .refl x
    · exact x.releaseWhere_within _
  exact h.congr rfl

theorem Ctx.setRec_within {r : CopyRec} (h : r.held = false) : (x.setRec r).Within x := by
  refine Ctx.within_of rfl le_rfl (countP_map_le (fun q hq => ?_) _) le_rfl le_rfl
  split at hq
  · simp [h] at hq
  · exact hq

theorem Ctx.dropRec_within (seq : Nat) : (x.dropRec seq).Within x :=
  Ctx.within_of rfl le_rfl List.filter_sublist.countP_le le_rfl le_rfl

theorem Ctx.setCell_within (op : CellOp) : (x.setCell op).Within x := by
  unfold Ctx.setCell
  split
  · refine Ctx.within_of rfl le_rfl le_rfl (countP_map_le (fun q hq => ?_) _) le_rfl
    split at hq <;> exact hq
  · exact .refl x

theorem Ctx.dropCell_within : x.dropCell.Within x :=
  Ctx.within_of rfl le_rfl le_rfl List.eraseP_sublist.countP_le le_rfl

theorem Ctx.dropDrain_within : x.dropDrain.Within x :=
  Ctx.within_of rfl le_rfl le_rfl le_rfl (List.drop_sublist _ _).countP_le

theorem Ctx.dropRow_within : x.dropRow.Within x := by
  unfold Ctx.dropRow
  split
  · rename_i d rest hd
    refine Ctx.within_of rfl le_rfl le_rfl le_rfl ?_
    rw [hd]
    show List.countP (fun (r : DrainRec) => r.held) (if _ then _ else _) ≤ _
    split <;> simp [List.countP_cons]
  · exact .refl x

theorem Ctx.underStore_within (post : Bool) (k : Kept) (b : Byte) : (x.underStore post k b).Within x := by
  refine Ctx.within_of rfl ?_ (countP_map_le (fun q hq => ?_) _) le_rfl (countP_map_le (fun q hq => ?_) _)
  · show (if _ then _ else _ : List GateRow).length ≤ _
    split <;> simp
  · exact hq
  · exact hq

theorem Ctx.keepByte_within (k : Kept) : (x.keepByte k).Within x := by
  refine Ctx.within_of rfl le_rfl (countP_map_le (fun q hq => ?_) _) le_rfl (countP_map_le (fun q hq => ?_) _) <;>
    split at hq <;> exact hq

theorem Ctx.keepBytes_within (sp : Memory) (now : Nat) (addrs : List Nat) : (x.keepBytes sp now addrs).Within x :=
  Ctx.within_foldl (fun y _ => y.keepByte_within _) addrs x

theorem Ctx.stopSource_within (f : EngFault) : (x.stopSource f).Within x := by
  simp only [Ctx.stopSource]
  split
  · exact Ctx.within_of rfl le_rfl List.filter_sublist.countP_le le_rfl le_rfl
  · exact .refl x

theorem Ctx.poll_within : x.poll.Within x := by
  unfold Ctx.poll
  split
  · exact .refl x
  · split
    · exact .refl x
    · exact Ctx.within_of_entries (x.entries_needSegment _)
    · split
      · exact .refl x
      · split
        · exact x.releaseChan_within _
        · exact x.syncRelease_within _ _
        · exact .refl x

/-- A restart mark empties the log and the gate. -/
theorem Ctx.logsOk_mark : x.mark.logsOk = true := by
  refine Ctx.logsOk_of_empty rfl rfl ?_
  simp [Ctx.mark, Ctx.releaseAll, Ctx.releaseWhere, Ctx.held, List.filter_map, Function.comp_def]

theorem Ctx.logsOk_goLive (now cadence : Nat) (dbg : Bool) : (x.goLive now cadence dbg).logsOk = true := Ctx.logsOk_mark _

/-- A rollback empties the log and the gate and takes the held pushes back. -/
theorem Ctx.logsOk_toMark (now : Nat) : (x.toMark now).logsOk = true := by
  simp only [Ctx.toMark]
  rw [Ctx.logsOk_of_entries (Ctx.entries_freshSegment _)]
  refine Ctx.logsOk_of_empty rfl rfl ?_
  simp [Ctx.held, List.filter_map, Function.comp_def, List.filter_filter]

variable {x} in
theorem Ctx.logsOk_open (h : x.logsOk = true) (now : Nat) (b : Bundle) : (x.open' now b).logsOk = true := by
  unfold Ctx.open'
  extract_lets hdr flags x1 x2 x3 x4 x5 frame
  have h1 : x1.logsOk = true := by
    simp only [x1]
    split <;> exact h
  have h2 : x2.logsOk = true := by
    simp only [x2]
    split <;> exact h1
  have h3 : x3.logsOk = true := by
    simp only [x3]
    split
    · exact x2.logsOk_mark
    · exact h2
  have h4 : x4.logsOk = true := by
    simp only [x4]
    split
    · exact (Ctx.logsOk_of_entries x3.entries_boundaryCopy).trans h3
    · exact h3
  have h5 : x5.logsOk = true := by
    simp only [x5]
    split <;> exact h4
  exact h5

end

end Sys2Proof.Machine

/-! SUPPORT. The logs of a state: what a context is set to, branches and loops, and the entries that a word takes where there is
room (R279, R280). -/

namespace Sys2Proof.Machine

/-! ### The logs of a state -/

theorem State.logsOk_iff (s : State) : s.logsOk = true ↔ ∀ p ∈ s.ctxs, p.2.logsOk = true := List.all_eq_true

/-- The field that `logsOk` reads. Unfolded and folded again, it drops a record update of any other field. -/
theorem State.logsOk_def (s : State) : s.logsOk = s.ctxs.all (fun p => p.2.logsOk) := rfl

theorem State.logsOk_of_ctxs {s t : State} (h : t.ctxs = s.ctxs) : t.logsOk = s.logsOk := by rw [State.logsOk_def, h]; rfl
theorem State.logsOk_of_tasks {s t : State} (h : t.tasks = s.tasks) : t.logsOk = s.logsOk :=
  State.logsOk_of_ctxs (State.ctxs_of_tasks h)

/-- The log of every context, listed or not. -/
theorem State.logsOk_ctx {s : State} (h : s.logsOk = true) (c : Nat) : (s.ctx c).logsOk = true := by
  unfold State.ctx mgetD
  cases hc : mfind s.ctxs c with
  | none => rfl
  | some x => exact (State.logsOk_iff s).mp h _ (mem_of_mfind hc)

theorem State.logsOk_cx {s : State} (h : s.logsOk = true) : s.cx.logsOk = true := State.logsOk_ctx h _

/-! ### Setting a context -/

/-- A context set to one whose log and gate are within their entries. -/
@[simp] theorem State.logsOk_setCtx {s : State} (h : s.logsOk = true) (c : Nat) {x : Ctx} (hx : x.logsOk = true) :
    (s.setCtx c x).logsOk = true := by
  rw [State.logsOk_iff] at h ⊢
  intro p hp
  rcases mem_mput hp with rfl | hp
  · exact hx
  · exact h p hp

@[simp] theorem State.logsOk_setCx {s : State} (h : s.logsOk = true) {x : Ctx} (hx : x.logsOk = true) :
    (s.setCx x).logsOk = true := State.logsOk_setCtx h _ hx

/-- A context set to one with the same keys and entries. -/
theorem State.logsOk_setCtx_entries (s : State) (c : Nat) {x : Ctx} (hx : x.entries = (s.ctx c).entries) :
    (s.setCtx c x).logsOk = s.logsOk :=
  all_mput Ctx.logsOk s.ctxs c (x := x) (d := .reset) (by decide) (Ctx.logsOk_of_entries hx)

theorem State.logsOk_setCx_entries (s : State) {x : Ctx} (hx : x.entries = s.cx.entries) :
    (s.setCx x).logsOk = s.logsOk := s.logsOk_setCtx_entries _ hx

theorem State.logsOk_setCtx_within {s : State} (h : s.logsOk = true) (c : Nat) {x : Ctx} (hx : x.Within (s.ctx c)) :
    (s.setCtx c x).logsOk = true := State.logsOk_setCtx h c (hx.logsOk (State.logsOk_ctx h c))

/-- A change of every context that leaves the keys and the entries. -/
theorem State.logsOk_of_map {s t : State} {f : Nat × Ctx → Nat × Ctx} (ht : t.ctxs = s.ctxs.map f)
    (hf : ∀ p, (f p).2.entries = p.2.entries) : t.logsOk = s.logsOk := by
  rw [State.logsOk_def, State.logsOk_def, ht, List.all_map]
  exact congrArg (s.ctxs.all) (funext fun p => Ctx.logsOk_of_entries (hf p))

theorem State.logsOk_mapCtxs (s : State) {f : Ctx → Ctx} (hf : ∀ x, (f x).entries = x.entries) :
    (s.mapCtxs f).logsOk = s.logsOk := State.logsOk_of_map rfl fun p => hf p.2

@[simp] theorem State.logsOk_setTile (s : State) (t : Nat) (x : Tile) : (s.setTile t x).logsOk = s.logsOk := (rfl)
@[simp] theorem State.logsOk_setTl (s : State) (x : Tile) : (s.setTl x).logsOk = s.logsOk := (rfl)
@[simp] theorem State.logsOk_setTenant (s : State) (f : Nat) (x : Tenant) : (s.setTenant f x).logsOk = s.logsOk := (rfl)

/-! ### Branches and loops -/

@[simp] theorem State.logsOk_ite (c : Prop) [Decidable c] (a b : State) :
    (if c then a else b).logsOk = if c then a.logsOk else b.logsOk := apply_ite State.logsOk c a b

@[simp] theorem State.logsOk_foldl {α : Type} (f : State → α → State) (xs : List α) (s : State)
    (hf : ∀ s x, (f s x).logsOk = s.logsOk) : (xs.foldl f s).logsOk = s.logsOk := foldl_keeps hf xs s

/-- A loop whose every turn keeps the logs within their entries keeps them so. -/
theorem State.logsOk_foldl_of {α : Type} {f : State → α → State} (hf : ∀ s x, s.logsOk = true → (f s x).logsOk = true)
    (xs : List α) {s : State} (h : s.logsOk = true) : (xs.foldl f s).logsOk = true :=
  List.foldlRecOn xs f h fun s hs x _ => hf s x hs

/-! ### Entries taken after a test for room (R279, R280) -/

@[simp] theorem State.logsOk_raise (s : State) (code eaddr : Nat) : (s.raise code eaddr).logsOk = s.logsOk := by
  unfold State.raise
  split <;> rfl

@[simp] theorem State.logsOk_raisePop (s : State) (code : Nat) : (s.raisePop code).logsOk = s.logsOk := by
  unfold State.raisePop
  split <;> rfl

/-- An entry for a key of which kind there is room. -/
theorem Ctx.logsOk_snoc {x : Ctx} (h : x.logsOk = true) (key : UKey)
    (hn : (x.undo.filter (fun e => e.key.vector == key.vector)).length <
      if key.vector then Config.undoVectorMax else Config.undoScalarMax) :
    Ctx.logsOk { x with undo := x.undo ++ [⟨key, none⟩] } = true := by
  obtain ⟨hs, hv, hg⟩ := (Ctx.logsOk_iff x).mp h
  rw [← List.countP_eq_length_filter] at hn
  refine (Ctx.logsOk_iff _).mpr ⟨?_, ?_, hg⟩ <;>
  · rw [List.countP_map] at *
    rw [List.countP_append]
    cases hk : key.vector <;> simp [hk, Function.comp_def] at * <;> omega

@[simp] theorem State.logsOk_needUndo {s : State} (h : s.logsOk = true) (key : UKey) : (s.needUndo key).logsOk = true := by
  have hx := State.logsOk_cx h
  simp only [State.needUndo]
  split
  · exact h
  · split
    · rename_i hv
      split
      · simp [h]
      · exact State.logsOk_setCx h (Ctx.logsOk_snoc hx key (by rw [if_pos hv]; omega))
    · rename_i hv
      split
      · simp [h]
      · exact State.logsOk_setCx h (Ctx.logsOk_snoc hx key (by rw [if_neg hv]; omega))

@[simp] theorem State.logsOk_needUndoNow {s : State} (h : s.logsOk = true) (key : UKey) (val : Nat) :
    (s.needUndoNow key val).logsOk = true := by
  refine Eq.trans (State.logsOk_setCx_entries (s.needUndo key) ?_) (State.logsOk_needUndo h key)
  refine Prod.ext (map_key_of (fun e => ?_) _) rfl
  split <;> rfl

/-- A context that is at most one push beyond another. -/
theorem Ctx.logsOk_push {x y : Ctx} (h : x.logsOk = true) (hroom : x.gateUse < Config.gateMax) (hu : y.undo = x.undo)
    (hg : y.gateUse ≤ x.gateUse + 1) : y.logsOk = true := by
  rw [Ctx.logsOk_iff] at h ⊢
  rw [hu]
  exact ⟨h.1, h.2.1, by omega⟩

/-- A push that enters the gate where there is room. -/
theorem State.logsOk_gatePush {s : State} {k : State → State} (h : s.logsOk = true)
    (hk : s.cx.gateUse < Config.gateMax → (k s).logsOk = true) : (s.gatePush k).logsOk = true := by
  unfold State.gatePush
  split
  · simp [h]
  · exact hk (by omega)

theorem State.logsOk_pushed {s : State} (h : s.logsOk = true) (hroom : s.cx.gateUse < Config.gateMax) {f : Nat → Ctx → Ctx}
    (hu : ∀ n x, (f n x).undo = x.undo) (hg : ∀ n x, (f n x).gateUse ≤ x.gateUse + 1) : (s.pushed f).logsOk = true :=
  State.logsOk_setCx h (Ctx.logsOk_push (State.logsOk_cx h) hroom (hu _ _) (hg _ _))

/-- A push of a kind that holds no entry of the gate. -/
theorem State.logsOk_pushed_entries (s : State) {f : Nat → Ctx → Ctx} (hf : ∀ n x, (f n x).entries = x.entries) :
    (s.pushed f).logsOk = s.logsOk := s.logsOk_setCx_entries ((hf _ _).trans rfl)

theorem countP_snoc_le {α : Type} (p : α → Bool) (as : List α) (a : α) : (as ++ [a]).countP p ≤ as.countP p + 1 := by
  rw [List.countP_append]
  have := List.countP_le_length (p := p) (l := [a])
  simpa using this

/-- The gate with one push more. -/
theorem Ctx.gateUse_recs (x : Ctx) (r : CopyRec) : Ctx.gateUse { x with recs := x.recs ++ [r] } ≤ x.gateUse + 1 := by
  have := countP_snoc_le (·.held) x.recs r
  simp only [Ctx.gateUse_eq]
  omega

theorem Ctx.gateUse_cells (x : Ctx) (r : CellRec) : Ctx.gateUse { x with cells := x.cells ++ [r] } ≤ x.gateUse + 1 := by
  have := countP_snoc_le (·.held) x.cells r
  simp only [Ctx.gateUse_eq]
  omega

theorem Ctx.gateUse_drains (x : Ctx) (r : DrainRec) : Ctx.gateUse { x with drains := x.drains ++ [r] } ≤ x.gateUse + 1 := by
  have := countP_snoc_le (·.held) x.drains r
  simp only [Ctx.gateUse_eq]
  omega

theorem State.logsOk_enterCopy {s : State} (h : s.logsOk = true) (hroom : s.cx.gateUse < Config.gateMax) (mk : Nat → CopyRec) :
    (s.enterCopy mk).logsOk = true := State.logsOk_pushed h hroom (fun _ _ => rfl) fun n x => x.gateUse_recs (mk n)

@[simp] theorem State.logsOk_enterCells {s : State} (h : s.logsOk = true) (colour : Nat) (op : CellOp) :
    (s.enterCells colour op).logsOk = true :=
  State.logsOk_gatePush h fun hroom => State.logsOk_pushed h hroom (fun _ _ => rfl) fun n x =>
    x.gateUse_cells ⟨n, true, true, colour, op, 0⟩

theorem any_row_rowAdd (sp : Memory) (rows : List GateRow) (a r : Nat) :
    (rowAdd sp rows a).any (fun g => g.row == r) = (rows.any (fun g => g.row == r) || a / 64 == r) := by
  simp only [rowAdd]
  split
  · rename_i h
    rw [List.any_map]
    have hm : (fun g => g.row == r) ∘ (fun (q : GateRow) => if q.row == a / 64 && !tbit q.mask (a % 64) then
      { q with mask := q.mask + 2 ^ (a % 64), prior := q.prior + (mread sp a).toNat * 2 ^ (8 * (a % 64)) } else q) =
        fun g => g.row == r := funext fun q => by simp only [Function.comp]; split <;> rfl
    rw [hm]
    by_cases hr : a / 64 = r
    · subst hr
      simp [h]
    · simp [hr]
  · simp

/-- Rows that bytes bring to the gate: at most those of the bytes that are not in it yet. -/
theorem length_rowAdd_foldl (sp : Memory) (addrs : List Nat) (rows : List GateRow) :
    (addrs.foldl (rowAdd sp) rows).length ≤
      rows.length + ((addrs.map (· / 64)).toFinset.filter (fun r => !rows.any (fun g => g.row == r))).card := by
  induction addrs generalizing rows with
  | nil => simp
  | cons a as ih =>
    refine (ih _).trans ?_
    simp only [any_row_rowAdd, List.map_cons, List.toFinset_cons]
    cases hr : rows.any (fun g => g.row == a / 64) with
    | true =>
      have hl : (rowAdd sp rows a).length = rows.length := by simp [rowAdd, hr]
      rw [hl]
      refine Nat.add_le_add_left (Finset.card_le_card fun r hm => ?_) _
      simp_all
    | false =>
      have hl : (rowAdd sp rows a).length = rows.length + 1 := by simp [rowAdd, hr]
      rw [hl, Nat.add_assoc, Nat.add_comm 1]
      refine Nat.add_le_add_left (Finset.card_lt_card ((Finset.ssubset_iff_of_subset fun r hm => ?_).mpr ⟨a / 64, ?_, ?_⟩)) _ <;>
        simp_all

theorem State.logsOk_gateRows {s : State} {k : State → State} (h : s.logsOk = true) (addrs : List Nat)
    (hk : s.cx.gateUse + (addrs.foldl (rowAdd s.tl.sp) s.cx.rows).length ≤ Config.gateMax + s.cx.rows.length →
      (k s).logsOk = true) : (s.gateRows addrs k).logsOk = true := by
  unfold State.gateRows
  simp only
  split
  · simp [h]
  · rename_i hroom
    refine hk ?_
    have hl := length_rowAdd_foldl s.tl.sp addrs s.cx.rows
    have hf := List.toFinset_card_le ((rowsOf addrs).filter (fun r => !s.cx.rows.any (fun g => g.row == r)))
    have he : ((rowsOf addrs).filter (fun r => !s.cx.rows.any (fun g => g.row == r))).toFinset =
        (addrs.map (· / 64)).toFinset.filter (fun r => !s.cx.rows.any (fun g => g.row == r)) := by
      ext r
      simp [rowsOf]
    rw [he] at hf
    omega


/-- A context with rows for which there is room. -/
theorem Ctx.logsOk_rows {x y : Ctx} (h : x.logsOk = true) (hy : y.Within x) {rows : List GateRow}
    (hroom : x.gateUse + rows.length ≤ Config.gateMax + x.rows.length) (hrows : y.rows = x.rows) :
    Ctx.logsOk { y with rows := rows } = true := by
  obtain ⟨hs, hv, -⟩ := (Ctx.logsOk_iff x).mp h
  obtain ⟨hu, hg⟩ := hy
  refine (Ctx.logsOk_iff _).mpr ⟨hu ▸ hs, hu ▸ hv, ?_⟩
  rw [Ctx.gateUse_eq, Ctx.gateUse_eq, hrows] at hg
  rw [Ctx.gateUse_eq] at hroom
  rw [Ctx.gateUse_eq]
  simp only
  omega

theorem Ctx.keepBytes_rows (x : Ctx) (sp : Memory) (now : Nat) (addrs : List Nat) :
    (x.keepBytes sp now addrs).rows = x.rows := by
  unfold Ctx.keepBytes
  exact foldl_keeps (g := Ctx.rows) (fun _ _ => by rfl) addrs x

@[simp] theorem State.logsOk_storeBytes {s : State} (h : s.logsOk = true) (bs : List (Nat × Byte)) :
    (s.storeBytes bs).logsOk = true := by
  refine State.logsOk_gateRows h _ fun hroom => ?_
  rw [List.foldl_map] at hroom
  refine (State.logsOk_setTl _ _).trans (State.logsOk_setCx h ?_)
  split
  · refine Ctx.logsOk_rows (State.logsOk_cx h) (Ctx.keepBytes_within _ _ _ _) hroom (Ctx.keepBytes_rows _ _ _ _)
  · exact Ctx.logsOk_rows (State.logsOk_cx h) (.refl _) hroom rfl

@[simp] theorem State.logsOk_gateTouch {s : State} (h : s.logsOk = true) (a : Nat) : (s.gateTouch a).logsOk = true := by
  refine State.logsOk_gateRows h _ fun hroom => ?_
  simp only
  split
  · exact h
  · rename_i hn
    refine State.logsOk_setCx h (Ctx.logsOk_rows (State.logsOk_cx h) (.refl _) ?_ rfl)
    have hr : ([a].foldl (rowAdd s.tl.sp) s.cx.rows).length = s.cx.rows.length + 1 := by simp [rowAdd, hn]
    rw [hr] at hroom
    simpa using hroom

end Sys2Proof.Machine

/-! SUPPORT. Registers, faults and the checks of a word keep the logs and gates within their entries. -/

namespace Sys2Proof.Machine

/-! ### Registers, faults and the end of a task -/

@[simp] theorem State.logsOk_recordFailure (s : State) (l : Nat) (f : Failure) : (s.recordFailure l f).logsOk = s.logsOk := (rfl)
@[simp] theorem State.logsOk_health' (s : State) (kind data : Nat) : (s.health' kind data).logsOk = s.logsOk := (rfl)
@[simp] theorem State.logsOk_tell (s : State) (m : HostMsg) : (s.tell m).logsOk = s.logsOk := (rfl)
@[simp] theorem State.logsOk_count (s : State) (fn ctr width n : Nat) : (s.count fn ctr width n).logsOk = s.logsOk := (rfl)
@[simp] theorem State.logsOk_reserve (s : State) (bank : Nat) : (s.reserve bank).logsOk = s.logsOk := by simp [State.reserve]

@[simp] theorem State.logsOk_freeOwner (s : State) (c : Nat) : (s.freeOwner c).logsOk = s.logsOk :=
  State.logsOk_of_ctxs (s.freeOwner_ctxs c)

@[simp] theorem State.logsOk_sample (s : State) (c quantity v : Nat) : (s.sample c quantity v).logsOk = s.logsOk := by
  simp [State.sample]

@[simp] theorem State.logsOk_endBlock (s : State) (c cycles : Nat) : (s.endBlock c cycles).logsOk = s.logsOk := by
  rw [State.endBlock, State.logsOk_sample]
  exact s.logsOk_setCtx_entries c (by rfl)

@[simp] theorem State.logsOk_pend (s : State) (lat : Nat) (d : Dst) (mask val : Nat) :
    (s.pend lat d mask val).logsOk = s.logsOk := s.logsOk_setCx_entries (by rfl)

@[simp] theorem State.logsOk_advance (s : State) (taken : Option PAddr) (annuls : Bool) :
    (s.advance taken annuls).logsOk = s.logsOk := s.logsOk_setCx_entries (Ctx.entries_advance _ _ _ _ _)

@[simp] theorem State.logsOk_xStart (s : State) (op : MatOp) : (s.xStart op).logsOk = s.logsOk := s.logsOk_setCx_entries (by rfl)

@[simp] theorem State.logsOk_writeV (s : State) (lat : Nat) (r : VReg) (c mask v : Nat) :
    (s.writeV lat r c mask v).logsOk = s.logsOk := by simp [State.writeV]

@[simp] theorem State.logsOk_writeK (s : State) (lat : Nat) (r : KReg) (c mask v : Nat) :
    (s.writeK lat r c mask v).logsOk = s.logsOk := by simp [State.writeK]

@[simp] theorem State.logsOk_jumpReg (s : State) (v : Word) : (s.jumpReg v).logsOk = s.logsOk := by simp [State.jumpReg]

section
variable {s : State} (h : s.logsOk = true)
include h

@[simp] theorem State.logsOk_failTask (c reason code w2 w3 : Nat) : (s.failTask c reason code w2 w3).logsOk = true := by
  refine (State.logsOk_freeOwner _ _).trans (State.logsOk_setCtx (by exact h) c ?_)
  exact (s.ctx c).releaseAll_within.logsOk (State.logsOk_ctx h c)

@[simp] theorem State.logsOk_deliver (c cause eaddr eslot : Nat) (epc : PAddr) : (s.deliver c cause eaddr eslot epc).logsOk = true := by
  simp only [State.deliver]
  split
  · simp [h]
  · split
    · simp [h]
    · exact (s.logsOk_setCtx_entries c (by rfl)).trans h

@[simp] theorem State.logsOk_takeFault (c code eaddr eslot : Nat) (post : Bool) :
    (s.takeFault c code eaddr eslot post).logsOk = true := by
  simp only [State.takeFault]
  split
  · exact (s.logsOk_setCtx_entries c (by rfl)).trans h
  · simp [h]

@[simp] theorem State.logsOk_writeS (lat : Nat) (r : SReg) (v : Word) : (s.writeS lat r v).logsOk = true := by
  simp [State.writeS, h]

@[simp] theorem State.logsOk_writeQ (lat : Nat) (r : QReg) (b : Bool) : (s.writeQ lat r b).logsOk = true := by
  simp [State.writeQ, h]

@[simp] theorem State.logsOk_writeFlags (lat : Nat) (f : Flags) : (s.writeFlags lat f).logsOk = true := by
  simp [State.writeFlags, h]

@[simp] theorem State.logsOk_writeCr (num : Nat) (v : Word) : (s.writeCr num v).logsOk = true := by
  unfold State.writeCr
  simp only [State.logsOk_ite, State.logsOk_raise, State.logsOk_pend]
  cases (Dst.cr num).key <;> simp [h]

@[simp] theorem State.logsOk_writeImage (lat : Nat) (d : VReg) (c : Nat) (im : Image) : (s.writeImage lat d c im).logsOk = true := by
  simp [State.writeImage, h]

@[simp] theorem State.logsOk_vecImages (lat : Nat) (d : VReg) (img : Nat → Image) : (s.vecImages lat d img).logsOk = true := by
  unfold State.vecImages
  split
  · exact h
  · exact State.logsOk_foldl_of (fun s c hs => State.logsOk_writeImage hs _ _ _ _) _ (by simp [h])

@[simp] theorem State.logsOk_vecLoop (lat : Nat) (d : VReg) (t : ETy) (k : KSel) (f : Nat → Nat → Nat × Flags) :
    (s.vecLoop lat d t k f).logsOk = true := by simp [State.vecLoop, h]

@[simp] theorem State.logsOk_vecPure (lat : Nat) (d : VReg) (t : ETy) (k : KSel) (f : Nat → Nat → Nat) :
    (s.vecPure lat d t k f).logsOk = true := by simp [State.vecPure, h]

@[simp] theorem State.logsOk_maskLoop (lat : Nat) (d : KReg) (t : ETy) (k : KSel) (f : Nat → Nat → Bool × Flags) :
    (s.maskLoop lat d t k f).logsOk = true := by
  unfold State.maskLoop
  split
  · exact h
  · exact State.logsOk_foldl_of (fun s c hs => State.logsOk_writeFlags (by simp [hs]) _ _) _ (by simp [h])

@[simp] theorem State.logsOk_maskWord (d : KReg) (f : Nat → Nat) : (s.maskWord d f).logsOk = true := by
  unfold State.maskWord
  split <;> simp [h]

@[simp] theorem State.logsOk_arith2 (d a b : VReg) (t : ETy) (k : KSel) (lf li : Nat)
    (gf : XVal → XVal → XVal × Flags) (gi : Int → Int → Int) : (s.arith2 d a b t k lf li gf gi).logsOk = true := by
  simp [State.arith2, h]

@[simp] theorem State.logsOk_arith1 (d a : VReg) (t : ETy) (k : KSel) (gf : XVal → XVal) (gi : Int → Int) :
    (s.arith1 d a t k gf gi).logsOk = true := by simp [State.arith1, h]

@[simp] theorem State.logsOk_logic2 (d a b : VReg) (t : ETy) (k : KSel) (g : Nat → Nat → Nat) :
    (s.logic2 d a b t k g).logsOk = true := by simp [State.logic2, h]

@[simp] theorem State.logsOk_special (op : Nat) (d a : VReg) (t : ETy) (k : KSel) : (s.special op d a t k).logsOk = true := by
  simp [State.special, h]

@[simp] theorem State.logsOk_writeWhole (v : VReg) (img : Nat → Nat) : (s.writeWhole v img).logsOk = true := by
  simp [State.writeWhole, h]

@[simp] theorem State.logsOk_xStream (acc : ATile) (op : MatOp) : (s.xStream acc op).logsOk = true := by
  simp only [State.xStream]
  refine (State.logsOk_setCx_entries _ ?_).trans ?_
  · rfl
  · split <;> simp [h]

end

@[simp] theorem State.logsOk_startDrain (s : State) (phys rsel : Nat) : (s.startDrain phys rsel).logsOk = s.logsOk := by
  unfold State.startDrain
  exact (State.logsOk_xStart _ _).trans (by simp)

/-! ### A word's checks: what follows runs on the same state, or a fault is raised -/

section
variable {s : State} {k : State → State} (h : s.logsOk = true) (hk : (k s).logsOk = true)
include h hk

theorem State.logsOk_check (bad : Bool) (code eaddr : Nat) : (s.check bad code eaddr k).logsOk = true := by
  simp [State.check, h, hk]

theorem State.logsOk_localCheck (rs : List (Int × Nat)) (off : Option Int) (both : Bool) (bank ecc : List (Nat × Nat) → Bool) :
    (s.localCheck rs off both bank ecc k).logsOk = true := by
  unfold State.localCheck
  split
  · simp [h]
  · split <;> simp [h, hk]

theorem State.logsOk_xOwn : (s.xOwn k).logsOk = true := State.logsOk_check h hk _ _ _

theorem State.logsOk_xAcc (acc : ATile) : (s.xAcc acc k).logsOk = true :=
  State.logsOk_xOwn h (State.logsOk_check h hk _ _ _)

theorem State.logsOk_xReads (sa : Nat) (rs : List (Int × Nat)) (op : MatOp) : (s.xReads sa rs op k).logsOk = true := by
  refine State.logsOk_check h ?_ _ _ _
  split
  · simp [h]
  · split <;> simp [h, hk]

theorem State.logsOk_checkParts (fs : List PartFault) : (s.checkParts fs k).logsOk = true := by
  unfold State.checkParts
  split <;> simp [h, hk]

theorem State.logsOk_checkSp (rs : List (Int × Nat)) : (s.checkSp rs k).logsOk = true := by
  unfold State.checkSp
  split <;> simp [h, hk]

end

theorem State.logsOk_xPair {s : State} {k : Nat → Nat → State → State} (h : s.logsOk = true)
    (hk : ∀ a w, (k a w s).logsOk = true) (bands : BitVec 4) : (s.xPair bands k).logsOk = true := by
  unfold State.xPair
  split
  · simp [h]
  · exact State.logsOk_check h (hk _ _) _ _ _

/-! ### Words that load, store and hint -/

@[simp] theorem State.logsOk_atomic {s : State} (h : s.logsOk = true) (op : AOp) (d a b : SReg) (w u : Bool) :
    (s.atomic op d a b w u).logsOk = true := by
  refine State.logsOk_localCheck h ?_ _ _ _ _ _
  simp only [State.logsOk_reserve]
  split <;> simp [h]

@[simp] theorem State.logsOk_vst {s : State} (h : s.logsOk = true) (k : Nat) (d : VReg) (b : SReg) (off : BitVec 9) :
    (s.vst k d b off).logsOk = true := by
  unfold State.vst
  split
  · exact h
  · exact State.logsOk_localCheck h (State.logsOk_storeBytes h _) _ _ _ _ _

@[simp] theorem State.logsOk_enqueueAs (s : State) (c : Nat) (seq : Option Nat) (cls : Nat) (us : List Nat) :
    (s.enqueueAs c seq cls us).logsOk = s.logsOk := by
  unfold State.enqueueAs
  split <;> rfl

@[simp] theorem State.logsOk_askLine (s : State) (fn : Nat) (ln : Nat × Bool) : (s.askLine fn ln).logsOk = s.logsOk := (rfl)

@[simp] theorem State.logsOk_hint {s : State} (h : s.logsOk = true) (kind : PfhKind) (ps : List Part) :
    (s.hint kind ps).logsOk = true := by
  simp only [State.hint]
  split
  · simp [h]
  · rw [State.logsOk_def]
    simp only [← State.logsOk_def]
    exact State.logsOk_setCx (by simp [h]) (State.logsOk_cx h)

/-! ### Slot words (R81) -/

/-- An outcome keeps the logs and gates within their entries when its next state, if there is one, has them so. -/
def KeepsLogs (s : State) (r : Res) : Prop := s.logsOk = true → ∀ t, r = .next t → t.logsOk = true

theorem keepsLogs_next {s t : State} (h : s.logsOk = true → t.logsOk = true) : KeepsLogs s (.next t) := by
  rintro hs _ ⟨⟩
  exact h hs

/-- A next state whose logs are as they were. -/
theorem keepsLogs_of_eq {s t : State} (h : t.logsOk = s.logsOk) : KeepsLogs s (.next t) := keepsLogs_next fun hs => h ▸ hs

end Sys2Proof.Machine

/-! SUPPORT. Every slot word, and the issue of a bundle, keeps the logs and gates within their entries. -/

namespace Sys2Proof.Machine

/-- A context in hand that stands within what it was. -/
theorem State.logsOk_setCx_within {s : State} (h : s.logsOk = true) {x : Ctx} (hx : x.Within s.cx) :
    (s.setCx x).logsOk = true := State.logsOk_setCtx_within h _ hx

theorem State.logsOk_pushed_within {s : State} (h : s.logsOk = true) {f : Nat → Ctx → Ctx} (hf : ∀ n x, (f n x).Within x) :
    (s.pushed f).logsOk = true :=
  State.logsOk_setCx_within h ((hf _ _).trans (Ctx.within_of_entries rfl))

theorem execEret_keepsLogs (s : State) : KeepsLogs s (execEret s) := keepsLogs_next fun h => by
  split
  · simp [h]
  · split
    · simp [h]
    · split
      · simp [h]
      · exact (s.logsOk_setCx_entries (by exact (Ctx.entries_freshSegment _).trans rfl)).trans h

/-- A load into every enabled cluster of a vector register. -/
theorem State.logsOk_vecLoad {s : State} (h : s.logsOk = true) (cs : List Nat) (d : VReg) (lat : Nat) (img : Nat → Nat) :
    (cs.foldl (fun s' c => s'.writeV lat d c (ones 2048) (img c)) (s.needUndo (.v d.val))).logsOk = true := by
  simp [h]

theorem execVsts_keepsLogs (w : Width) (d : VReg) (b : SReg) (off : BitVec 9) (col : Colour) (s : State) :
    KeepsLogs s (execVsts w d b off col s) := keepsLogs_next fun h => by
  split
  · exact h
  · refine State.logsOk_localCheck h ?_ _ _ _ _ _
    exact State.logsOk_storeBytes h _

/-! ### Words of the matrix unit and the engines (R230 to R264) -/

theorem execMldw_keepsLogs (a b : SReg) (bands : BitVec 4) (s : State) : KeepsLogs s (execMldw a b bands s) :=
  keepsLogs_next fun h => by
    refine State.logsOk_xOwn h ?_
    refine State.logsOk_xPair h (fun _ w => ?_) _
    refine State.logsOk_check h ?_ _ _ _
    refine State.logsOk_check h ?_ _ _ _
    exact State.logsOk_xReads h ((s.logsOk_setCx_entries (by rfl)).trans h) _ _ _

theorem execMmul_keepsLogs (acc : ATile) (a b : SReg) (aip : Bool) (bands : BitVec 4) (s : State) :
    KeepsLogs s (execMmul acc a b aip bands s) := keepsLogs_next fun h => by
  refine State.logsOk_xAcc h ?_ _
  refine State.logsOk_xPair h (fun fa w => ?_) _
  refine State.logsOk_check h ?_ _ _ _
  refine State.logsOk_check h ?_ _ _ _
  refine State.logsOk_check h ?_ _ _ _
  refine State.logsOk_xReads h ?_ _ _ _
  simp [h]

theorem execMvec_keepsLogs (acc : ATile) (a b : SReg) (aip : Bool) (bands : BitVec 4) (s : State) :
    KeepsLogs s (execMvec acc a b aip bands s) := keepsLogs_next fun h => by
  refine State.logsOk_xAcc h ?_ _
  refine State.logsOk_xPair h (fun fa w => ?_) _
  refine State.logsOk_check h ?_ _ _ _
  refine State.logsOk_check h ?_ _ _ _
  refine State.logsOk_xReads h ?_ _ _ _
  simp [h]

theorem execMzero_keepsLogs (acc : ATile) (quarters : BitVec 4) (s : State) : KeepsLogs s (execMzero acc quarters s) :=
  keepsLogs_next fun h => by
    refine State.logsOk_xAcc h ?_ _
    simp [h]

theorem execMdrn_keepsLogs (acc : ATile) (a b : SReg) (clamp : Bool) (quarters : BitVec 4) (s : State) :
    KeepsLogs s (execMdrn acc a b clamp quarters s) := keepsLogs_next fun h => by
  refine State.logsOk_xAcc h (State.logsOk_check h (State.logsOk_check h ?_ _ _ _) _ _ _) _
  simp only
  split
  · refine State.logsOk_writeFlags ?_ _ _
    rw [State.logsOk_startDrain, State.logsOk_foldl _ _ _ fun s i => State.logsOk_foldl _ _ s fun s c => State.logsOk_pend s _ _ _ _]
    exact State.logsOk_foldl_of (fun s i hs => State.logsOk_needUndo hs _) _ h
  · refine State.logsOk_checkSp h (State.logsOk_gatePush h fun hroom => State.logsOk_writeFlags ?_ _ _) _
    rw [State.logsOk_startDrain]
    exact State.logsOk_pushed h hroom (fun _ _ => rfl) fun _ x => x.gateUse_drains _

theorem execMaccd_keepsLogs (acc : ATile) (a b : SReg) (clamp : Bool) (quarters : BitVec 4) (s : State) :
    KeepsLogs s (execMaccd acc a b clamp quarters s) := keepsLogs_next fun h => by
  refine State.logsOk_xAcc h (State.logsOk_check h (State.logsOk_check h ?_ _ _ _) _ _ _) _
  simp only
  split
  · refine State.logsOk_check h ?_ _ _ _
    refine State.logsOk_checkSp h ?_ _
    refine State.logsOk_gatePush h fun hroom => ?_
    rw [State.logsOk_startDrain]
    exact State.logsOk_pushed h hroom (fun _ _ => rfl) fun _ x => x.gateUse_drains _
  · refine State.logsOk_check h ?_ _ _ _
    refine State.logsOk_checkParts h ?_ _
    refine State.logsOk_gatePush h fun hroom => ?_
    rw [State.logsOk_startDrain]
    exact State.logsOk_pushed h hroom (fun _ _ => rfl) fun _ x => x.gateUse_drains _

theorem execXfer_keepsLogs (a : SReg) (col : Colour) (ch : Chan) (s : State) : KeepsLogs s (execXfer a col ch s) :=
  keepsLogs_next fun h => by
    refine State.logsOk_checkSp h ?_ _
    refine State.logsOk_check h ?_ _ _ _
    refine State.logsOk_check h ?_ _ _ _
    refine State.logsOk_check h ?_ _ _ _
    refine State.logsOk_check h ?_ _ _ _
    refine State.logsOk_check h ?_ _ _ _
    split
    · simp [h]
    · refine State.logsOk_checkParts h ?_ _
      exact State.logsOk_gatePush h fun hroom => State.logsOk_enterCopy h hroom _

theorem execAmog_keepsLogs (a k : SReg) (op : AmogOp) (w : Bool) (col : Colour) (ch : Chan) (s : State) :
    KeepsLogs s (execAmog a k op w col ch s) := keepsLogs_next fun h => by
  refine State.logsOk_checkParts h ?_ _
  refine State.logsOk_check h ?_ _ _ _
  refine State.logsOk_checkSp h ?_ _
  refine State.logsOk_check h ?_ _ _ _
  exact State.logsOk_gatePush h fun hroom => State.logsOk_enterCopy h hroom _

theorem execGthr_keepsLogs (v : VReg) (b : SReg) (w : Width) (s : State) : KeepsLogs s (execGthr v b w s) := by
  unfold execGthr
  refine keepsLogs_next fun h => State.logsOk_check h (State.logsOk_check h ?_ _ _ _) _ _ _
  have he (g : Nat → GatherRec) : (s.pushed fun seq x => { x with gathers := x.gathers ++ [g seq] }).logsOk = true :=
    (s.logsOk_pushed_entries fun _ _ => by rfl).trans h
  refine (State.logsOk_ite _ _ _).trans ?_
  split
  · split
    · simp [h]
    · exact he _
  · exact State.logsOk_checkParts h (he _) _

theorem execLadd_keepsLogs (v i : VReg) (p : SReg) (col : Colour) (s : State) : KeepsLogs s (execLadd v i p col s) :=
  keepsLogs_next fun h => by
    refine State.logsOk_check h (State.logsOk_checkParts h ?_ _) _ _ _
    simp [h]

theorem execLinit_keepsLogs (a n : SReg) (col : Colour) (s : State) : KeepsLogs s (execLinit a n col s) :=
  keepsLogs_next fun h => by
    split
    · exact h
    · refine State.logsOk_check h (State.logsOk_checkParts h ?_ _) _ _ _
      simp [h]

theorem execLraw_keepsLogs (a b n : SReg) (s : State) : KeepsLogs s (execLraw a b n s) :=
  keepsLogs_next fun h => by
    split
    · exact h
    · refine State.logsOk_check h (State.logsOk_check h ?_ _ _ _) _ _ _
      split
      · simp [h]
      · refine State.logsOk_checkParts h ?_ _
        simp [h]

theorem execColl_keepsLogs (a : SReg) (col : Colour) (s : State) : KeepsLogs s (execColl a col s) := keepsLogs_next fun h => by
  refine State.logsOk_check h ?_ _ _ _
  refine State.logsOk_checkSp h ?_ _
  refine State.logsOk_check h ?_ _ _ _
  refine State.logsOk_check h ?_ _ _ _
  refine State.logsOk_check h ?_ _ _ _
  refine State.logsOk_check h ?_ _ _ _
  exact State.logsOk_pushed_within h fun n x => (x.releaseAll_within).congr rfl

theorem execGpop_keepsLogs (v : VReg) (d : SReg) (s : State) : KeepsLogs s (execGpop v d s) := keepsLogs_next fun h => by
  split
  · simp [h]
  · split
    · simp [h]
    · refine State.logsOk_writeS (State.logsOk_writeWhole ?_ _ _) _ _ _
      exact (s.logsOk_setCx_entries (by rfl)).trans h

theorem execCpop_keepsLogs (v : VReg) (d : SReg) (s : State) : KeepsLogs s (execCpop v d s) := keepsLogs_next fun h => by
  split
  · simp [h]
  · split
    · simp [h]
    · simp [h]
    · refine State.logsOk_writeS (State.logsOk_writeWhole ?_ _ _) _ _ _
      exact (s.logsOk_setCx_entries (by rfl)).trans h

theorem execXwait_keepsLogs (a : SReg) (ch : Chan) (s : State) : KeepsLogs s (execXwait a ch s) := keepsLogs_next fun h => by
  have hr := State.logsOk_setCx_within h (s.cx.releaseChan_within ch.val)
  split
  · exact hr
  · split
    · simp [h]
    · simp [h, hr]

theorem execPause_keepsLogs (n : BitVec 12) (s : State) : KeepsLogs s (execPause n s) := keepsLogs_next fun h =>
  State.logsOk_check h ((s.logsOk_setCx_entries (by rfl)).trans h) _ _ _

theorem execBkpt_keepsLogs (s : State) : KeepsLogs s (execBkpt s) := keepsLogs_next fun h =>
  State.logsOk_check h ((s.logsOk_setCx_entries (by rfl)).trans h) _ _ _

theorem execSync_keepsLogs (level : Fin 4) (mask : BitVec 8) (s : State) : KeepsLogs s (execSync level mask s) :=
  keepsLogs_next fun h =>
    State.logsOk_check h (State.logsOk_setCx_within h ((s.cx.syncRelease_within _ _).congr (by rfl))) _ _ _

/-- A wait that releases the pushes of its colours. -/
theorem State.logsOk_wait {s : State} (h : s.logsOk = true) (m n : Nat) (w : Wait) :
    (s.setCx (s.cx.releaseColours m n)).logsOk = true ∧ (s.setCx { s.cx.releaseColours m n with wait := w }).logsOk = true :=
  have hw := s.cx.releaseColours_within m n
  ⟨State.logsOk_setCx_within h hw, State.logsOk_setCx_within h (hw.congr rfl)⟩

theorem execFence_keepsLogs (mask : BitVec 8) (s : State) : KeepsLogs s (execFence mask s) := keepsLogs_next fun h => by
  split
  · exact State.logsOk_check h (State.logsOk_wait h _ _ .none).1 _ _ _
  · exact (State.logsOk_wait h _ _ _).2

theorem execDrain_keepsLogs (sc : Scope) (mask : BitVec 8) (s : State) : KeepsLogs s (execDrain sc mask s) :=
  keepsLogs_next fun h => by
    split
    · exact State.logsOk_check h (State.logsOk_wait h _ _ .none).1 _ _ _
    · exact (State.logsOk_wait h _ _ _).2

theorem execEndTask_keepsLogs (status : BitVec 12) (s : State) : KeepsLogs s (execEndTask status s) := keepsLogs_next fun h => by
  refine State.logsOk_setCx ?_ ((s.cx.releaseAll_within.congr (by rfl)).logsOk (State.logsOk_cx h))
  split <;> simp [h]

theorem execTrap_keepsLogs (n : BitVec 12) (s : State) : KeepsLogs s (execTrap n s) := keepsLogs_next fun h => by
  have hd := State.logsOk_deliver ((State.logsOk_advance s none false).trans h) (s.advance none false).issue.ctx (0x380 + n.toNat)
    0 (s.advance none false).issue.slot.num (s.advance none false).cx.pc
  split
  · exact (State.logsOk_setCx_entries _ (by rfl)).trans hd
  · exact hd

theorem execMcfg_keepsLogs (a b : SReg) (s : State) : KeepsLogs s (execMcfg a b s) := keepsLogs_next fun h => by
  refine State.logsOk_xOwn h (State.logsOk_check h (State.logsOk_check h ?_ _ _ _) _ _ _)
  exact (State.logsOk_setCx_entries _ (by rfl)).trans (State.logsOk_needUndoNow h _ _)

theorem execMswap_keepsLogs (s : State) : KeepsLogs s (execMswap s) := keepsLogs_next fun h => by
  refine State.logsOk_xOwn h (State.logsOk_check h (State.logsOk_check h ?_ _ _ _) _ _ _)
  exact (State.logsOk_setCx_entries _ (by rfl)).trans (State.logsOk_needUndoNow h _ _)

/-- Every slot word keeps the logs and gates within their entries. -/
theorem wordMeaning_keepsLogs (i : Instr) (s : State) : KeepsLogs s (wordMeaning i s) := by
  cases i with
  | add | addi | and | andi | or | ori | xor | xori | sub | clz | ctz | popc | div | rem | mul | mulh | min | max | shl | shr
  | sra | rotl | sel | limm | xptr => exact keepsLogs_next fun h => State.logsOk_writeS h _ _ _
  | cmp => exact keepsLogs_next fun h => State.logsOk_writeQ h _ _ _
  | mfc =>
    refine keepsLogs_next fun h => ?_
    split <;> simp [h]
  | mtc | mtcEvent | mtcDmr | mtcAshape => exact keepsLogs_next fun h => State.logsOk_writeCr h _ _
  | trap n => exact execTrap_keepsLogs n s
  | br | brn | jmp | call | loop => exact keepsLogs_next fun h => by simp [h]
  | jmpr | ret => exact keepsLogs_of_eq (State.logsOk_jumpReg _ _)
  | eret => exact execEret_keepsLogs s
  | pause n => exact execPause_keepsLogs n s
  | bkpt => exact execBkpt_keepsLogs s
  | sync => exact execSync_keepsLogs _ _ s
  | endTask => exact execEndTask_keepsLogs _ s
  | yield =>
    refine keepsLogs_of_eq ?_
    split <;> rfl
  | fence => exact execFence_keepsLogs _ s
  | drain => exact execDrain_keepsLogs _ _ s
  | ld | st | vcsq =>
    refine keepsLogs_next fun h => State.logsOk_localCheck h ?_ _ _ _ _ _
    simp [h]
  | aadd | amin | amax | aand | aor | axor | aswap | acas => exact keepsLogs_next fun h => State.logsOk_atomic h _ _ _ _ _ _
  | vld | vldb | vlds =>
    refine keepsLogs_next fun h => ?_
    split
    · exact h
    · exact State.logsOk_localCheck h (State.logsOk_vecLoad h _ _ _ _) _ _ _ _ _
  | vstK0 | vstK1 | vstK2 | vstK3 => exact keepsLogs_next fun h => State.logsOk_vst h _ _ _ _
  | vsts _ _ _ _ col => exact execVsts_keepsLogs _ _ _ _ col s
  | vadd | vsub | vmul | vmin | vmax => exact keepsLogs_next fun h => State.logsOk_arith2 h _ _ _ _ _ _ _ _ _
  | vabs | vneg => exact keepsLogs_next fun h => State.logsOk_arith1 h _ _ _ _ _ _
  | vfma | vclamp | vdot => exact keepsLogs_next fun h => State.logsOk_vecLoop h _ _ _ _ _
  | vand | vor | vxor | vshl | vshr | vsra => exact keepsLogs_next fun h => State.logsOk_logic2 h _ _ _ _ _ _
  | vsel | vred | vscan | vcvt | vqnt | vdqnt => exact keepsLogs_next fun h => State.logsOk_vecImages h _ _ _
  | vperm | vsplat | vmov | vxch => exact keepsLogs_next fun h => State.logsOk_vecPure h _ _ _ _ _
  | vget | vput => exact keepsLogs_next fun h => by simp [h]
  | vcmp => exact keepsLogs_next fun h => State.logsOk_maskLoop h _ _ _ _ _
  | kand | kor | kxor | knot => exact keepsLogs_next fun h => State.logsOk_maskWord h _ _
  | kpopc | kfirst =>
    refine keepsLogs_next fun h => ?_
    split <;> simp [h]
  | fexp2 | flog2 | frcp | frsq | ftanh | fsig | fsin | fcos => exact keepsLogs_next fun h => State.logsOk_special h _ _ _ _ _
  | mcfg => exact execMcfg_keepsLogs _ _ s
  | mswap => exact execMswap_keepsLogs s
  | mldw => exact execMldw_keepsLogs _ _ _ s
  | mmul => exact execMmul_keepsLogs _ _ _ _ _ s
  | mvec => exact execMvec_keepsLogs _ _ _ _ _ s
  | mzero => exact execMzero_keepsLogs _ _ s
  | mdrn => exact execMdrn_keepsLogs _ _ _ _ _ s
  | maccd => exact execMaccd_keepsLogs _ _ _ _ _ s
  | xfer => exact execXfer_keepsLogs _ _ _ s
  | amog => exact execAmog_keepsLogs _ _ _ _ _ _ s
  | gthr v b w => exact execGthr_keepsLogs v b w s
  | ladd => exact execLadd_keepsLogs _ _ _ _ s
  | linit => exact execLinit_keepsLogs _ _ _ s
  | lraw a b n => exact execLraw_keepsLogs a b n s
  | coll => exact execColl_keepsLogs _ _ s
  | pfh => exact keepsLogs_next fun h => by simp [h]
  | gpop => exact execGpop_keepsLogs _ _ s
  | cpop => exact execCpop_keepsLogs _ _ s
  | xwait => exact execXwait_keepsLogs _ _ s
  | _ => exact keepsLogs_of_eq rfl

@[simp] theorem State.logsOk_word {s : State} (h : s.logsOk = true) (p : Slot × Instr) : (s.word p).logsOk = true := by
  simp only [State.word]
  split
  · rename_i s' hw
    exact wordMeaning_keepsLogs _ { s with issue := { s.issue with slot := p.1 } } h s' hw
  · exact h

@[simp] theorem State.logsOk_take (s : State) (c : Nat) (b : Bundle) (len : Nat) (pc : PAddr) (ws : List (Slot × Instr)) :
    (s.take c b len pc ws).logsOk = s.logsOk := by
  simp only [State.take]
  split <;> rfl

@[simp] theorem State.logsOk_ran {s : State} (h : s.logsOk = true) (c : Nat) (b : Bundle) (len : Nat) :
    (s.ran c b len).logsOk = true := by
  simp only [State.ran]
  refine State.logsOk_foldl_of (fun s p hs => State.logsOk_word hs p) _ ?_
  rw [State.logsOk_take]
  exact State.logsOk_setCtx h c (Ctx.logsOk_open (State.logsOk_ctx h c) _ _)

@[simp] theorem State.logsOk_issueFault {s : State} (h : s.logsOk = true) (c : Nat) (r : Raise) :
    (s.issueFault c r).logsOk = true := by
  simp only [State.issueFault]
  refine State.logsOk_takeFault ((s.logsOk_setCtx_entries c ?_).trans h) _ _ _ _ _
  split
  · exact (Ctx.entries_freshSegment _).trans rfl
  · rfl

@[simp] theorem State.logsOk_issueSamples (s : State) (c : Nat) : (s.issueSamples c).logsOk = s.logsOk := by
  simp [State.issueSamples]

@[simp] theorem State.logsOk_close {s : State} (h : s.logsOk = true) (annulled : Bool) : (s.close annulled).logsOk = true := by
  unfold State.close
  extract_lets x x1 x2 x3
  have h1 : x1.Within s.cx := by
    refine Ctx.within_of_entries ?_
    simp only [x1]
    split
    · rfl
    · split
      · exact Ctx.entries_advanceAnnulled _ _ _
      · exact Ctx.entries_advance _ _ _ _ _
  have h2 : x2.Within s.cx := by
    simp only [x2]
    split
    · exact x1.releaseAll_within.trans h1
    · exact h1
  have h3 : x3.Within s.cx := by
    simp only [x3]
    split
    · exact h2.congr (Ctx.entries_halt _ _)
    · exact h2
  exact State.logsOk_setCx_within h h3

@[simp] theorem State.logsOk_issueBundle {s : State} (h : s.logsOk = true) (c : Nat) (b : Bundle) (len : Nat) :
    (s.issueBundle c b len).logsOk = true := by
  simp only [State.issueBundle]
  split
  · simp [h]
  · split
    · simp [h]
    · split
      · simp [h]
      · split <;> simp [h]

@[simp] theorem State.logsOk_issueCtx {s : State} (h : s.logsOk = true) (c : Nat) : (s.issueCtx c).logsOk = true := by
  have hs := (s.logsOk_issueSamples c).trans h
  simp only [State.issueCtx]
  split
  · exact State.logsOk_issueBundle hs _ _ _
  · exact State.logsOk_issueFault hs _ _
  · exact State.logsOk_issueFault ((State.logsOk_setCtx_entries _ c (Ctx.entries_needSegment _ _)).trans hs) _ _

end Sys2Proof.Machine

/-! SUPPORT. The operations of engines, launches, the host and the end of a cycle keep the logs and gates within their entries: those
that set no context by an equation, the others with what they do to the context. -/

namespace Sys2Proof.Machine

/-! ### What engines and hosts do to a context -/

section
variable {x : Ctx}

@[simp] theorem Ctx.logsOk_addFault (code eaddr : Nat) (post : Bool) (ch : Option Nat) (seq colour : Nat) :
    (x.addFault code eaddr post ch seq colour).logsOk = x.logsOk := Ctx.logsOk_of_entries (x.entries_addFault _ _ _ _ _ _)

@[simp] theorem Ctx.logsOk_deliverDone (ch n : Nat) : (x.deliverDone ch n).logsOk = x.logsOk :=
  Ctx.logsOk_of_entries (x.entries_deliverDone _ _)

@[simp] theorem Ctx.logsOk_setGather (g : GatherRec) : (x.setGather g).logsOk = x.logsOk :=
  Ctx.logsOk_of_entries (x.entries_setGather _)

@[simp] theorem Ctx.logsOk_setColl (r : CollRec) : (x.setColl r).logsOk = x.logsOk :=
  Ctx.logsOk_of_entries (x.entries_setColl _)

@[simp] theorem Ctx.logsOk_setEvent (bit : Nat) : (x.setEvent bit).logsOk = x.logsOk :=
  Ctx.logsOk_of_entries (x.entries_setEvent _)

variable (h : x.logsOk = true)
include h

@[simp] theorem Ctx.logsOk_dropRec (seq : Nat) : (x.dropRec seq).logsOk = true := (x.dropRec_within seq).logsOk h
@[simp] theorem Ctx.logsOk_dropCell : x.dropCell.logsOk = true := x.dropCell_within.logsOk h
@[simp] theorem Ctx.logsOk_dropDrain : x.dropDrain.logsOk = true := x.dropDrain_within.logsOk h
@[simp] theorem Ctx.logsOk_dropRow : x.dropRow.logsOk = true := x.dropRow_within.logsOk h
@[simp] theorem Ctx.logsOk_setCell (op : CellOp) : (x.setCell op).logsOk = true := (x.setCell_within op).logsOk h
@[simp] theorem Ctx.logsOk_poll : x.poll.logsOk = true := x.poll_within.logsOk h

theorem Ctx.logsOk_setRec {r : CopyRec} (hr : r.held = false) : (x.setRec r).logsOk = true := (x.setRec_within hr).logsOk h

end

/-- The record that a channel performs is released. -/
theorem Ctx.held_of_headRec {x : Ctx} {ch : Nat} {r : CopyRec} (h : x.headRec ch = some r) : r.held = false := by
  unfold Ctx.headRec at h
  split at h
  · cases h
  · split at h
    · split at h
      · cases h
      · rename_i hr
        cases h
        simpa using hr
    · cases h

/-! ### Caches and requests -/

@[simp] theorem State.logsOk_dropTicket (s : State) (c : Nat) (seq : Option Nat) : (s.dropTicket c seq).logsOk = s.logsOk := (rfl)
@[simp] theorem State.logsOk_reachLine (s : State) (fn ln : Nat) : (s.reachLine fn ln).logsOk = s.logsOk := (rfl)
@[simp] theorem State.logsOk_fill (s : State) (fn : Nat) (t : Touch) : (s.fill fn t).logsOk = s.logsOk := (rfl)
@[simp] theorem State.logsOk_cure (s : State) (pa n : Nat) : (s.cure pa n).logsOk = s.logsOk := (rfl)

/-! ### Device memory (R169, R181, R182, R319) -/

@[simp] theorem State.logsOk_claim {s : State} (h : s.logsOk = true) (sec : Nat) : (s.claim sec).logsOk = true := by
  unfold State.claim
  split
  · exact h
  · exact h

@[simp] theorem State.logsOk_claimRange {s : State} (h : s.logsOk = true) (a n : Nat) : (s.claimRange a n).logsOk = true := by
  unfold State.claimRange
  split
  · exact h
  · exact State.logsOk_foldl_of (fun _ u hs => State.logsOk_claim hs u) _ h

@[simp] theorem State.logsOk_askBack (s : State) (sn : Nat × Bool) : (s.askBack sn).logsOk = s.logsOk := by
  unfold State.askBack
  split
  · split <;> rfl
  · rfl

@[simp] theorem State.logsOk_voidCopies (s : State) (a n : Nat) : (s.voidCopies a n).logsOk = s.logsOk := by
  unfold State.voidCopies
  refine State.logsOk_foldl _ _ _ fun s p => ?_
  exact State.logsOk_askBack s _

@[simp] theorem State.logsOk_flushFrame (s : State) (frame key : Nat) :
    (s.flushFrame frame key).logsOk = s.logsOk := State.logsOk_voidCopies s _ _

@[simp] theorem State.logsOk_sealFrame (s : State) (frame : Nat) : (s.sealFrame frame).logsOk = s.logsOk := by
  unfold State.sealFrame
  split <;> rfl

@[simp] theorem State.logsOk_assignFrame (s : State) (frame key : Nat) : (s.assignFrame frame key).logsOk = s.logsOk := by
  unfold State.assignFrame
  show State.logsOk (if _ then _ else _) = _
  simp

@[simp] theorem State.logsOk_unassignFrame (s : State) (frame : Nat) :
    (s.unassignFrame frame).logsOk = s.logsOk := State.logsOk_sealFrame s frame

@[simp] theorem State.logsOk_bindKey (s : State) (key : Nat) (fn : Option Nat) : (s.bindKey key fn).logsOk = s.logsOk := by
  unfold State.bindKey
  show State.logsOk (if _ then _ else _) = _
  split
  · rfl
  · refine State.logsOk_foldl _ _ _ fun s f => ?_
    simp

@[simp] theorem State.logsOk_fwByte {s : State} (h : s.logsOk = true) (held : List Nat) (a : Nat) (b : Byte) :
    (s.fwByte held a b).logsOk = true := by
  unfold State.fwByte
  split
  · exact h
  · have hc := State.logsOk_claim h (a / 64)
    exact hc

@[simp] theorem State.logsOk_fwBytes {s : State} (h : s.logsOk = true) (a : Nat) (bs : List Byte) :
    (s.fwBytes a bs).logsOk = true := by
  simp only [State.fwBytes]
  split
  · have hc := State.logsOk_claimRange h a bs.length
    exact hc
  · refine State.logsOk_foldl_of (fun _ p hs => State.logsOk_fwByte hs _ _ p.2) _ ?_
    simp [h]

@[simp] theorem State.logsOk_fwWrite {s : State} (h : s.logsOk = true) (a n v : Nat) :
    (s.fwWrite a n v).logsOk = true := State.logsOk_fwBytes h _ _

@[simp] theorem State.logsOk_landPend {s : State} (h : s.logsOk = true) (sec : Nat) : (s.landPend sec).logsOk = true := by
  unfold State.landPend
  simp only [State.logsOk_ite, State.logsOk_cure, ite_self]
  have hc : State.logsOk (if (s.fwPend.filter (fun p => p.1 / 64 == sec)).isEmpty then s else s.claim sec) = true := by
    simp [h]
  exact hc

@[simp] theorem State.logsOk_loseSector {s : State} (h : s.logsOk = true) (sec : Nat) :
    (s.loseSector sec).logsOk = true := State.logsOk_landPend (by exact h) sec

@[simp] theorem State.logsOk_hostData {s : State} (h : s.logsOk = true) (sec : Nat) (data : BitVec 512) :
    (s.hostData sec data).logsOk = true := by
  simp only [State.hostData]
  split
  · exact h
  · have hc := State.logsOk_claim h sec
    split <;> exact hc

@[simp] theorem State.logsOk_movePage {s : State} (h : s.logsOk = true) (old new n : Nat) :
    (s.movePage old new n).logsOk = true := by
  have hc := State.logsOk_claimRange h new n
  exact hc

/-! ### Host memory (R169, R320, R321) -/

@[simp] theorem State.logsOk_writeBack {s : State} (h : s.logsOk = true) (ln : Nat) (l : Line) :
    (s.writeBack ln l).logsOk = true := by
  unfold State.writeBack
  split
  · exact h
  · exact h

@[simp] theorem State.logsOk_dropLine {s : State} (h : s.logsOk = true) (ln : Nat) : (s.dropLine ln).logsOk = true := by
  unfold State.dropLine
  split
  · exact h
  · exact State.logsOk_writeBack h _ _

@[simp] theorem State.logsOk_atticSet (s : State) (fn a : Nat) (b : Byte) : (s.atticSet fn a b).logsOk = s.logsOk := by
  unfold State.atticSet
  split <;> rfl

@[simp] theorem State.logsOk_snooped {s : State} (h : s.logsOk = true) (ln : Nat) (invalidate : Bool) :
    (s.snooped ln invalidate).logsOk = true := by
  unfold State.snooped
  split
  · exact h
  · simp only [State.logsOk_def]
    simp only [← State.logsOk_def]
    simp [h]

@[simp] theorem State.logsOk_hostSet {s : State} (h : s.logsOk = true) (a : Nat) (b : Byte) : (s.hostSet a b).logsOk = true := by
  have hs : State.logsOk (if (mfind s.attic (a / 64)).isSome then s.snooped (a / 64) true else s) = true := by simp [h]
  exact hs

@[simp] theorem State.logsOk_atticRoom {s : State} (h : s.logsOk = true) (line : Nat) : (s.atticRoom line).logsOk = true := by
  unfold State.atticRoom
  split
  · exact h
  · split
    · exact State.logsOk_dropLine h _
    · exact h

@[simp] theorem State.logsOk_dropLines {s : State} (h : s.logsOk = true) (p : Line → Bool) :
    (s.dropLines p).logsOk = true := State.logsOk_foldl_of (fun _ q hs => State.logsOk_dropLine hs q.1) _ h

/-! ### The virtual space (R165, R169) -/

@[simp] theorem State.logsOk_vwrite {s : State} (h : s.logsOk = true) (x : Ctx) (va : Nat) (b : Byte) :
    (s.vwrite x va b).logsOk = true := by
  unfold State.vwrite
  split
  · exact h
  · rename_i e _
    split
    · have hc := State.logsOk_claim h (entPhys e va / 64)
      exact hc
    · exact State.logsOk_hostSet h _ _
    · simp [h]

@[simp] theorem State.logsOk_vwriteLE {s : State} (h : s.logsOk = true) (x : Ctx) (va : Nat) (n : Nat) (v : Nat) :
    (s.vwriteLE x va n v).logsOk = true := by
  induction n generalizing s va v with
  | zero => exact h
  | succ n ih => exact ih (State.logsOk_vwrite h x va _) _ _

@[simp] theorem State.logsOk_vcure (s : State) (x : Ctx) (va : Int) (n : Nat) : (s.vcure x va n).logsOk = s.logsOk := by
  refine State.logsOk_foldl _ _ _ fun s p => ?_
  split
  · rfl
  · simp

@[simp] theorem State.logsOk_cellPlus {s : State} (h : s.logsOk = true) (x : Ctx) (va : Nat) (v : XVal) :
    (s.cellPlus x va v).logsOk = true := State.logsOk_vwriteLE h _ _ _ _

@[simp] theorem State.logsOk_addAddends {s : State} (h : s.logsOk = true) (x : Ctx) (r : CopyRec) (k : Nat) (n : Nat) :
    (s.addAddends x r k n).logsOk = true := by
  induction n generalizing s k with
  | zero => exact h
  | succ n ih => exact ih (State.logsOk_cellPlus h _ _ _) _

@[simp] theorem State.logsOk_accdCells {s : State} (h : s.logsOk = true) (x : Ctx) (d : DrainRec) (va es : Nat) :
    (s.accdCells x d va es).logsOk = true := State.logsOk_foldl_of (fun _ _ hs => State.logsOk_cellPlus hs _ _ _) _ h

/-! ### Requests, tickets and the cache in front of device memory (R183 to R191) -/

@[simp] theorem State.logsOk_enqueue (s : State) (c : Nat) (seq : Option Nat) (nd : Need) :
    (s.enqueue c seq nd).logsOk = s.logsOk := State.logsOk_enqueueAs s _ _ _ _

@[simp] theorem State.logsOk_ask (s : State) (fn : Nat) (nd : Need) : (s.ask fn nd).logsOk = s.logsOk := by simp [State.ask]

@[simp] theorem State.logsOk_fillAll (s : State) (fn : Nat) (nd : Need) :
    (s.fillAll fn nd).logsOk = s.logsOk := by simp [State.fillAll]

theorem State.logsOk_withHome {s : State} {k : State → State} (h : s.logsOk = true) (hk : (k s).logsOk = true)
    (rs : List (Nat × Nat)) : (s.withHome rs k).logsOk = true := by
  simp [State.withHome, h, hk]

@[simp] theorem State.logsOk_hintPin (s : State) (fn : Nat) (u : HintUnit) : (s.hintPin fn u).logsOk = s.logsOk := (rfl)

@[simp] theorem State.logsOk_hintUnit (s : State) (fn : Nat) (kind : PfhKind) (u : HintUnit) :
    (s.hintUnit fn kind u).logsOk = s.logsOk := by
  unfold State.hintUnit
  split
  · simp
  · simp
  · rfl

@[simp] theorem State.logsOk_hintAdmit (s : State) (c : Nat) (seq : Option Nat) (secs : List Nat) :
    (s.hintAdmit c seq secs).logsOk = s.logsOk := by
  unfold State.hintAdmit
  split
  · rfl
  · exact State.logsOk_foldl _ _ _ fun s u => State.logsOk_hintUnit s _ _ u

/-! ### Copies, cells and drains (R196 to R202, R243 to R264) -/

@[simp] theorem State.logsOk_spSet {s : State} (h : s.logsOk = true) (t a : Nat) (b : Byte) :
    (s.spSet t a b).logsOk = true := h

@[simp] theorem State.logsOk_spWriteLE {s : State} (h : s.logsOk = true) (t a n v : Nat) :
    (s.spWriteLE t a n v).logsOk = true := h

@[simp] theorem State.logsOk_ownUpdate {s : State} (h : s.logsOk = true) (c : Nat) (post : Bool) (ks : List Kept)
    (a n v : Nat) : (s.ownUpdate c post ks a n v).logsOk = true := by
  unfold State.ownUpdate
  split
  · exact State.logsOk_spWriteLE h _ _ _ _
  · refine State.logsOk_foldl_of (fun s i hs => ?_) _ h
    split
    · exact State.logsOk_setCtx_within hs c (Ctx.underStore_within _ _ _ _)
    · exact State.logsOk_spSet hs _ _ _

@[simp] theorem State.logsOk_dstByte {s : State} (h : s.logsOk = true) (c : Nat) (x : Ctx) (r : CopyRec) (a : Nat) (b : Byte) :
    (s.dstByte c x r a b).logsOk = true := by
  unfold State.dstByte
  split
  · exact State.logsOk_spSet h _ _ _
  · exact State.logsOk_spSet h _ _ _
  · exact State.logsOk_vwrite h _ _ _

@[simp] theorem State.logsOk_moveBytes {s : State} (h : s.logsOk = true) (c : Nat) (x : Ctx) (r : CopyRec) (i : Nat) (n : Nat) :
    (s.moveBytes c x r i n).logsOk = true := by
  induction n generalizing s i with
  | zero => exact h
  | succ n ih => exact ih (State.logsOk_dstByte h c x r _ _) _

@[simp] theorem State.logsOk_dstWord {s : State} (h : s.logsOk = true) (c : Nat) (x : Ctx) (r : CopyRec) (i v : Nat) :
    (s.dstWord c x r i v).logsOk = true := State.logsOk_foldl_of (fun _ _ hs => State.logsOk_dstByte hs c x r _ _) _ h

@[simp] theorem State.logsOk_moveCells {s : State} (h : s.logsOk = true) (c : Nat) (x : Ctx) (r : CopyRec) (i : Nat) (n : Nat) :
    (s.moveCells c x r i n).logsOk = true := by
  induction n generalizing s i with
  | zero => exact h
  | succ n ih => exact ih (State.logsOk_dstWord h c x r _ _) _

@[simp] theorem State.logsOk_moveTo {s : State} (h : s.logsOk = true) (c : Nat) (x : Ctx) (r : CopyRec) (i e : Nat) :
    (s.moveTo c x r i e).logsOk = true := by simp [State.moveTo, h]

@[simp] theorem State.logsOk_moveRec {s : State} (h : s.logsOk = true) (c : Nat) (x : Ctx) (r : CopyRec) (e : Nat) :
    (s.moveRec c x r e).logsOk = true := by
  simp only [State.moveRec]
  split
  · exact State.logsOk_addAddends h x r _ _
  · simp [h]

@[simp] theorem State.logsOk_failRec {s : State} (h : s.logsOk = true) (c : Nat) (r : CopyRec) (code eaddr : Nat) :
    (s.failRec c r code eaddr).logsOk = true := by simp [State.failRec, h, State.logsOk_ctx h]

@[simp] theorem State.logsOk_countTo (s : State) (c : Nat) (r : CopyRec) (e : Nat) : (s.countTo c r e).logsOk = s.logsOk :=
  s.logsOk_setCtx_entries c (by rfl)

@[simp] theorem State.logsOk_finishRec {s : State} (h : s.logsOk = true) (c : Nat) (r : CopyRec) (io : Option Nat) :
    (s.finishRec c r io).logsOk = true := by
  have hd := (s.ctx c).dropRec_within r.seq
  simp only [State.finishRec, State.logsOk_sample]
  refine State.logsOk_setCtx_within h c ?_
  split
  · exact hd.congr rfl
  · exact hd

theorem State.logsOk_partDone {s : State} (h : s.logsOk = true) (c : Nat) {r : CopyRec} (hr : r.held = false) (e : Nat)
    (counts more : Bool) : (s.partDone c r e counts more).logsOk = true := by
  have hs : (if counts then s.countTo c r e else s).logsOk = true := by simp [h]
  exact State.logsOk_setCtx hs c (Ctx.logsOk_setRec (State.logsOk_ctx hs c) hr)

@[simp] theorem State.logsOk_giveOld {s : State} (h : s.logsOk = true) (c : Nat) (r : CopyRec) (old : Nat) :
    (s.giveOld c r old).logsOk = true := by
  have hs : (if r.nores then s else s.spWriteLE (tileOf c) r.src r.width old).logsOk = true := by simp [h]
  exact State.logsOk_finishRec ((State.logsOk_setCtx_entries _ c (by rfl)).trans hs) c r none

@[simp] theorem State.logsOk_virtAtomic {s : State} (h : s.logsOk = true) (c : Nat) (x : Ctx) (r : CopyRec) :
    (s.virtAtomic c x r).logsOk = true := by
  refine State.logsOk_giveOld ?_ c r _
  split
  · exact State.logsOk_vwriteLE h x _ _ _
  · exact h

@[simp] theorem State.logsOk_atticAtomic {s : State} (h : s.logsOk = true) (c : Nat) (x : Ctx) (r : CopyRec) (pa : Nat) :
    (s.atticAtomic c x r pa).logsOk = true := by
  refine State.logsOk_giveOld ?_ c r _
  split <;> simp [h]

theorem State.logsOk_giveAnswer {s : State} (h : s.logsOk = true) (c : Nat) {r : CopyRec} (hr : r.held = false) (old : Nat) :
    (s.giveAnswer c r old).logsOk = true := by
  unfold State.giveAnswer
  split
  · exact State.logsOk_setCtx h c (Ctx.logsOk_setRec (State.logsOk_ctx h c) hr)
  · exact State.logsOk_giveOld h c r old

theorem State.logsOk_waitRec {s : State} (h : s.logsOk = true) (c : Nat) {r : CopyRec} (hr : r.held = false) (nd : Need) :
    (s.waitRec c r nd).logsOk = true := by
  refine State.logsOk_setCtx (by simp [h]) c (Ctx.logsOk_setRec (State.logsOk_ctx h c) ?_)
  split <;> exact hr

section
variable {s : State} (c : Nat) (nd : Need) {k : State → State} (h : s.logsOk = true)
  (hk : ∀ s : State, s.logsOk = true → (k s).logsOk = true)
include h hk

/-- A record's turn: a fault, a wait, or the work on a state in which only caches have moved. -/
theorem State.logsOk_withNeed {r : CopyRec} (hr : r.held = false) : (s.withNeed c r nd k).logsOk = true := by
  unfold State.withNeed
  split
  · simp [h]
  · split
    · exact State.logsOk_waitRec h c hr nd
    · exact hk _ (by simp [h])

theorem State.logsOk_withCell (r : CellRec) : (s.withCell c r nd k).logsOk = true := by
  unfold State.withCell
  split
  · simp [h, State.logsOk_ctx h]
  · split
    · exact h
    · split
      · simp [h]
      · exact hk _ (by simp [h])

end

/-! ### The end of a task, its faults and the rollback (R271 to R283) -/

@[simp] theorem State.logsOk_undoRows (s : State) (c : Nat) : (s.undoRows c).logsOk = s.logsOk := (rfl)

@[simp] theorem State.logsOk_refuseOne {s : State} (h : s.logsOk = true) (c : Nat) (src : EngSrc) (ln : Nat) :
    (s.refuseOne c src ln).logsOk = true := by
  simp only [State.refuseOne]
  split
  · split <;> simp [h]
  · split
    · split <;> simp [h, State.logsOk_ctx h]
    · exact h
  · exact h

@[simp] theorem State.logsOk_refuseLine {s : State} (h : s.logsOk = true) (ln : Nat) : (s.refuseLine ln).logsOk = true :=
  State.logsOk_foldl_of (fun _ p hs => State.logsOk_refuseOne hs p.1 p.2 ln) _ h

/-! ### Records for the host, launches and queues (R296 to R301, R326 to R331) -/

@[simp] theorem State.logsOk_record {s : State} (h : s.logsOk = true) (fn kind reason tag code w1 w2 w3 : Nat) :
    (s.record fn kind reason tag code w1 w2 w3).logsOk = true := by
  simp only [State.record]
  split
  · exact h
  · simp only [State.logsOk_def]
    simp only [← State.logsOk_def]
    exact State.logsOk_fwWrite (State.logsOk_fwWrite (State.logsOk_fwWrite (State.logsOk_fwWrite h _ _ _) _ _ _) _ _ _) _ _ _

@[simp] theorem State.logsOk_followVotes (s : State) : s.followVotes.logsOk = s.logsOk := by
  refine State.logsOk_foldl _ _ _ fun s r => ?_
  simp only
  split <;> rfl

@[simp] theorem State.logsOk_launchRecord {s : State} (h : s.logsOk = true) (l : Launch) : (s.launchRecord l).logsOk = true := by
  unfold State.launchRecord
  split <;> simp [h]

@[simp] theorem State.logsOk_completeLaunch {s : State} (h : s.logsOk = true) (n : Nat) : (s.completeLaunch n).logsOk = true := by
  unfold State.completeLaunch
  split
  · exact h
  · split
    · exact h
    · rw [State.logsOk_followVotes, State.logsOk_def]
      simp only [← State.logsOk_def]
      simp [h]

@[simp] theorem State.logsOk_refuseLaunch {s : State} (h : s.logsOk = true) (n : Nat) (l : Launch) (reason : Nat) :
    (s.refuseLaunch n l reason).logsOk = true := by
  simp only [State.refuseLaunch, State.logsOk_def]
  simp only [← State.logsOk_def]
  simp [h]

@[simp] theorem State.logsOk_takeEngines (s : State) (l : Launch) (tasks : List Nat) :
    (s.takeEngines l tasks).logsOk = s.logsOk := by simp [State.takeEngines]

@[simp] theorem State.logsOk_prepareAll {s : State} (h : s.logsOk = true) (n : Nat) (l : Launch) :
    (s.prepareAll n l).logsOk = true :=
  State.logsOk_foldl_of (fun _ p hs => State.logsOk_setCtx hs p.2.2 (Ctx.logsOk_of_empty rfl rfl rfl)) _ h

@[simp] theorem State.logsOk_takeTurn (s : State) (plane cls fn : Nat) : (s.takeTurn plane cls fn).logsOk = s.logsOk := (rfl)

@[simp] theorem State.logsOk_acceptLaunch {s : State} (h : s.logsOk = true) (n : Nat) (l : Launch) :
    (s.acceptLaunch n l).logsOk = true := by
  unfold State.acceptLaunch
  split
  · simp [h]
  · have hs (ls : AMap Launch) : State.logsOk { s with launches := ls } = true := h
    simp [hs]

theorem State.logsOk_leaveL {s : State} {k : State → State} (h : s.logsOk = true)
    (hk : ∀ s : State, s.logsOk = true → (k s).logsOk = true) (l : Launch) : (s.leaveL l k).logsOk = true := by
  unfold State.leaveL
  rw [State.logsOk_followVotes]
  exact hk _ (by simp [h])

/-- What happens at L: a refusal, a wait for a reply, or the start itself. -/
theorem State.logsOk_atL {s : State} {away : Option (State → State)} {k : State → State} (h : s.logsOk = true)
    (ha : ∀ f ∈ away, ∀ s : State, s.logsOk = true → (f s).logsOk = true)
    (hk : ∀ s : State, s.logsOk = true → (k s).logsOk = true) (n : Nat) (l : Launch) (nd : Need) :
    (s.atL n l nd away k).logsOk = true := by
  unfold State.atL
  split
  · exact State.logsOk_leaveL h (fun s hs => State.logsOk_refuseLaunch hs _ _ _) l
  · split
    · exact State.logsOk_leaveL h (ha _ rfl) l
    · split
      · exact h
      · split
        · simp [h]
        · exact hk _ (by simp [h])

@[simp] theorem State.logsOk_loadSp (s : State) (t lo size : Nat) (ims : List (Nat × Nat × Nat)) :
    (s.loadSp t lo size ims).logsOk = s.logsOk := (rfl)

@[simp] theorem State.logsOk_clearAcc (s : State) (t base cnt : Nat) :
    (s.clearAcc t base cnt).logsOk = s.logsOk := by simp [State.clearAcc]

@[simp] theorem State.logsOk_clearDebug (s : State) (t fn : Nat) : (s.clearDebug t fn).logsOk = s.logsOk := by
  refine State.logsOk_foldl _ _ _ fun s c => ?_
  simp only
  split
  · exact s.logsOk_setCtx_entries c (by rfl)
  · rfl

@[simp] theorem State.logsOk_startTile {s : State} (h : s.logsOk = true) (l : Launch) (c : Nat) :
    (s.startTile l c).logsOk = true := State.logsOk_setCtx (by simp [h]) c (Ctx.logsOk_goLive _ _ _ _)

@[simp] theorem State.logsOk_countStart (s : State) (l : Launch) : (s.countStart l).logsOk = s.logsOk := by simp [State.countStart]
/-- The refusal for images that are out of reach keeps the memories canonical. -/
theorem State.logsOk_imagesAway (s : State) (n : Nat) (l : Launch) :
    ∀ f ∈ s.imagesAway n l, ∀ u : State, u.logsOk = true → (f u).logsOk = true := by
  intro f hf u hu
  obtain ⟨a, -, rfl⟩ := Option.map_eq_some_iff.mp hf
  exact State.logsOk_refuseLaunch hu _ _ _

@[simp] theorem State.logsOk_startLaunch {s : State} (h : s.logsOk = true) (n : Nat) (l : Launch) :
    (s.startLaunch n l).logsOk = true := by
  have hs : (l.spots.foldl (fun (s : State) p => s.startTile l p.2.2) s).logsOk = true :=
    State.logsOk_foldl_of (fun s p hs => State.logsOk_startTile hs _ _) _ h
  exact (State.logsOk_countStart _ l).trans hs

@[simp] theorem State.logsOk_cellarWrite {s : State} (h : s.logsOk = true) (a : Nat) (bs : List Byte) :
    (s.cellarWrite a bs).logsOk = true := by simp [State.cellarWrite, h]

@[simp] theorem State.logsOk_requestEviction (s : State) (n : Nat) : (s.requestEviction n).logsOk = s.logsOk := by
  unfold State.requestEviction
  split
  · rfl
  · simp only
    split
    · rfl
    · refine (State.logsOk_foldl _ _ _ fun s c => ?_).trans rfl
      split
      · exact s.logsOk_setCtx_entries c (by rfl)
      · rfl

@[simp] theorem State.logsOk_dropCopy (s : State) (c : Nat) : (s.dropCopy c).logsOk = s.logsOk := by
  unfold State.dropCopy
  split <;> simp

@[simp] theorem State.logsOk_stopWith {s : State} (h : s.logsOk = true) (c : Nat) (l : Launch) (m : Option (Nat × Nat)) :
    (s.stopWith c l m).logsOk = true := by
  have hx : (s.ctx c).landEvery.logsOk = true := (Ctx.logsOk_of_entries (Ctx.entries_landEvery _)).trans (State.logsOk_ctx h c)
  simp only [State.stopWith]
  split
  · simp [h]
  · rw [State.logsOk_def]
    simp only [← State.logsOk_def]
    simp only [State.logsOk_enqueueAs, State.logsOk_dropTicket, State.logsOk_freeOwner]
    exact State.logsOk_setCtx (by simp [h]) c hx

@[simp] theorem State.logsOk_recordsDone (s : State) (l : Launch) :
    (s.recordsDone l).logsOk = s.logsOk := by simp [State.recordsDone]

@[simp] theorem State.logsOk_freeRegion {s : State} (h : s.logsOk = true) (n : Nat) (l : Launch) :
    (s.freeRegion n l).logsOk = true := by
  simp only [State.freeRegion]
  rw [State.logsOk_followVotes, State.logsOk_def]
  simp only [← State.logsOk_def]
  refine (State.logsOk_foldl _ _ _ fun s c => ?_).trans ((State.logsOk_recordsDone _ l).trans ?_)
  · split
    · exact s.logsOk_setCtx_entries c (by rfl)
    · rfl
  · exact State.logsOk_foldl_of (fun s p hs => State.logsOk_cellarWrite hs _ _) _ h

@[simp] theorem State.logsOk_restoreTile {s : State} (h : s.logsOk = true) (l : Launch) (ry rx c : Nat) :
    (s.restoreTile l ry rx c).logsOk = true := by
  have h0 : (((s.loadSp (tileOf c) l.spBase l.spSize []).clearAcc (tileOf c) l.accBase l.accCnt).clearDebug
      (tileOf c) l.fn).logsOk = true := by simp [h]
  simp only [State.restoreTile]
  split
  · exact h0
  · exact State.logsOk_setCtx ((State.logsOk_setTile _ _ _).trans h0) c (Ctx.logsOk_goLive _ _ _ _)

@[simp] theorem State.logsOk_failResume {s : State} (h : s.logsOk = true) (n : Nat) (l : Launch) (a : Nat) :
    (s.failResume n l a).logsOk = true := by
  have hs (ls : AMap Launch) : State.logsOk { s with launches := ls } = true := h
  simp [State.failResume, hs]

theorem State.logsOk_recordsAway (s : State) (n : Nat) (l : Launch) :
    ∀ f ∈ s.recordsAway n l, ∀ u : State, u.logsOk = true → (f u).logsOk = true := by
  intro f hf u hu
  obtain ⟨a, -, rfl⟩ := Option.map_eq_some_iff.mp hf
  exact State.logsOk_failResume hu _ _ _

@[simp] theorem State.logsOk_acceptResume {s : State} (h : s.logsOk = true) (n : Nat) (l : Launch) :
    (s.acceptResume n l).logsOk = true := by
  unfold State.acceptResume
  split
  · exact State.logsOk_failResume h _ _ _
  · split
    · simp [h]
    · split
      · simp [h]
      · have hs (ls : AMap Launch) : State.logsOk { s with launches := ls } = true := h
        simp [hs]

@[simp] theorem State.logsOk_setQueue (s : State) (fn q : Nat) (x : Queue) : (s.setQueue fn q x).logsOk = s.logsOk := (rfl)
@[simp] theorem State.logsOk_pop (s : State) (fn q : Nat) (p : Packet) : (s.pop fn q p).logsOk = s.logsOk := (rfl)
@[simp] theorem State.logsOk_placeQueue (s : State) (fn q base size : Nat) : (s.placeQueue fn q base size).logsOk = s.logsOk := (rfl)

@[simp] theorem State.logsOk_haltQueue {s : State} (h : s.logsOk = true) (fn q reason tag : Nat) :
    (s.haltQueue fn q reason tag).logsOk = true := by simp [State.haltQueue, h]

@[simp] theorem State.logsOk_setSetting (s : State) (reg f : Nat) (v : Nat) : (s.setSetting reg f v).logsOk = s.logsOk := by
  simp only [State.setSetting]
  split <;> simp

@[simp] theorem State.logsOk_manage (s : State) (reg : Nat) (v : Nat) : (s.manage reg v).logsOk = s.logsOk := by
  simp only [State.manage]
  split
  · simp
  · simp
  · split <;> rfl
  · rfl
  · rfl
  · simp
  · simp

theorem State.logsOk_runPacket {s : State} {k : Packet → State → State} (h : s.logsOk = true)
    (hk : ∀ p, (k p s).logsOk = true) (fn q type : Nat) (bad : Packet → Bool) :
    (s.runPacket fn q type bad k).logsOk = true := by
  unfold State.runPacket
  split
  · exact h
  · split
    · exact h
    · refine State.logsOk_withHome h ?_ _
      split <;> simp [h, hk]

/-! ### Keys, tenants, power and the calendar (R182, R302 to R315, R332 to R338) -/

@[simp] theorem State.logsOk_endConsent (s : State) (fn tid : Nat) : (s.endConsent fn tid).logsOk = s.logsOk := by
  refine (State.logsOk_mapCtxs _ fun x => ?_).trans rfl
  split
  · split <;> rfl
  · rfl

@[simp] theorem State.logsOk_mapEntries (s : State) (base lsize : Nat) (f : Nat → Nat) :
    (s.mapEntries base lsize f).logsOk = s.logsOk := by
  refine State.logsOk_mapCtxs s fun x => ?_
  split <;> rfl

@[simp] theorem State.logsOk_markMigrations (s : State) : s.markMigrations.logsOk = s.logsOk := by
  unfold State.markMigrations
  split
  · rfl
  · exact State.logsOk_foldl _ _ _ fun s m => State.logsOk_mapEntries s _ _ _

@[simp] theorem State.logsOk_barredRead (s : State) (fn addr : Nat) (b : HostBar) : (s.barredRead fn addr b).logsOk = s.logsOk := by
  unfold State.barredRead
  split <;> rfl

@[simp] theorem State.logsOk_evictFilter (s : State) : s.evictFilter.logsOk = s.logsOk := by
  unfold State.evictFilter
  split
  · rfl
  · split
    · exact State.logsOk_askBack s _
    · rfl

@[simp] theorem State.logsOk_hostRead (s : State) (fn addr : Nat) (excl : Bool) : (s.hostRead fn addr excl).logsOk = s.logsOk := by
  simp only [State.hostRead]
  split
  · simp
  · split
    · exact State.logsOk_evictFilter s
    · rfl

@[simp] theorem State.logsOk_serveReads (s : State) : s.serveReads.logsOk = s.logsOk := by
  refine (State.logsOk_foldl _ _ _ fun s r => ?_).trans rfl
  simp

@[simp] theorem State.logsOk_killLaunch {s : State} (h : s.logsOk = true) (n reason : Nat) :
    (s.killLaunch n reason).logsOk = true := by
  have hs (ls : AMap Launch) {u : State} (hu : u.logsOk = true) : State.logsOk { u with launches := ls } = true := hu
  have ht (ts : List Ticket) (hs : List Hint) {u : State} (hu : u.logsOk = true) :
      State.logsOk { u with tickets := ts, hints := hs } = true := hu
  unfold State.killLaunch
  split
  · exact h
  · split
    · exact h
    · rw [State.logsOk_followVotes, State.logsOk_count]
      refine State.logsOk_launchRecord (hs _ (ht _ _ ?_)) _
      refine State.logsOk_foldl_of (fun s c hc => ?_) _ h
      refine (State.logsOk_freeOwner _ _).trans (State.logsOk_setCtx_within hc c (Ctx.within_of rfl le_rfl ?_ ?_ ?_)) <;>
        exact Nat.zero_le _

@[simp] theorem State.logsOk_killWhere {s : State} (h : s.logsOk = true) (p : Launch → Bool) (reason : Nat) :
    (s.killWhere p reason).logsOk = true := State.logsOk_foldl_of (fun _ q hs => State.logsOk_killLaunch hs q.1 reason) _ h

@[simp] theorem State.logsOk_loseFrame (s : State) (frame : Nat) : (s.loseFrame frame).logsOk = s.logsOk := by
  simp only [State.loseFrame]
  show State.logsOk (State.voidCopies _ _ _) = _
  simp

@[simp] theorem State.logsOk_loseKeys (s : State) (fn : Nat) : (s.loseKeys fn).logsOk = s.logsOk := by
  simp only [State.loseKeys]
  exact State.logsOk_foldl _ _ _ fun s f => State.logsOk_loseFrame s f

@[simp] theorem State.logsOk_endSessions (s : State) (fn : Nat) : (s.endSessions fn).logsOk = s.logsOk := by simp [State.endSessions]

@[simp] theorem State.logsOk_resetTenant {s : State} (h : s.logsOk = true) (fn : Nat) : (s.resetTenant fn).logsOk = true := by
  simp only [State.resetTenant]
  simp only [State.logsOk_def]
  simp only [← State.logsOk_def]
  simp [h]

@[simp] theorem State.logsOk_evictQuiet (s : State) : s.evictQuiet.logsOk = s.logsOk := by simp [State.evictQuiet]

@[simp] theorem State.logsOk_debugSet (s : State) (c reg : Nat) (v : Word) : (s.debugSet c reg v).logsOk = s.logsOk := by
  simp only [State.debugSet]
  split
  · exact s.logsOk_setCtx_entries c (Ctx.entries_debugWrite _ _ _)
  · split
    · exact s.logsOk_setCtx_entries c (Ctx.entries_debugPlane _ _ _)
    · split <;> rfl

@[simp] theorem State.logsOk_recadence (s : State) : s.recadence.logsOk = s.logsOk := by
  refine State.logsOk_mapCtxs s fun x => ?_
  split
  · dsimp only
    split <;> rfl
  · rfl

@[simp] theorem State.logsOk_shedMore (s : State) : s.shedMore.logsOk = s.logsOk := by
  unfold State.shedMore
  split
  · rfl
  · exact State.logsOk_foldl _ _ _ fun s p => State.logsOk_requestEviction s p.1
  · rfl
  · split <;> rfl
  · rfl

@[simp] theorem State.logsOk_shedRaise (s : State) : s.shedRaise.logsOk = s.logsOk := (rfl)

@[simp] theorem State.logsOk_shedLess (s : State) : s.shedLess.logsOk = s.logsOk := by
  unfold State.shedLess
  split <;> rfl

@[simp] theorem State.logsOk_trip {s : State} (h : s.logsOk = true) : s.trip.logsOk = true := by
  simp only [State.trip, State.logsOk_def]
  simp only [← State.logsOk_def]
  have hk := State.logsOk_killWhere (State.logsOk_killWhere h (fun l => l.st.placed') 3) (fun _ => true) 3
  simp [hk]

@[simp] theorem State.logsOk_sampleRails (s : State) : s.sampleRails.logsOk = s.logsOk := by
  refine State.logsOk_foldl _ _ _ fun s t => ?_
  simp

@[simp] theorem State.logsOk_loseRow {s : State} (h : s.logsOk = true) (t bank row : Nat) :
    (s.loseRow t bank row).logsOk = true := h

@[simp] theorem State.logsOk_retire (s : State) (row col : Nat) : (s.retire row col).logsOk = s.logsOk := by
  simp only [State.retire]
  split
  · split <;> rfl
  · split <;> rfl

@[simp] theorem State.logsOk_payInteractive (s : State) (slice plane fn : Nat) :
    (s.payInteractive slice plane fn).logsOk = s.logsOk := by
  simp only [State.payInteractive]
  split
  · rfl
  · split
    · rfl
    · split
      · rfl
      · simp

@[simp] theorem State.logsOk_payToken (s : State) (slice k : Nat) : (s.payToken slice k).logsOk = s.logsOk := by
  simp only [State.payToken]
  split <;> rfl

@[simp] theorem State.logsOk_payRequest (s : State) (slice plane cls sectors fn : Nat) :
    (s.payRequest slice plane cls sectors fn).logsOk = s.logsOk := by simp [State.payRequest]

@[simp] theorem State.logsOk_afterPower (s : State) (p : Power) : (s.afterPower p).logsOk = true := (rfl)

/-! ### Bundles (R39, R92, R194, R268) -/

@[simp] theorem State.logsOk_watch (s : State) (c : Nat) : (s.watch c).logsOk = s.logsOk := by
  have hy {y : Ctx} (h : y.entries = (s.ctx c).entries) : (s.setCtx c y).logsOk = s.logsOk := s.logsOk_setCtx_entries c h
  simp only [State.watch]
  generalize hx : (if (s.ctx c).strict && s.unready c (s.ctx c) then _ else _ : Ctx) = y
  have he : y.entries = (s.ctx c).entries := by
    subst hx
    split <;> rfl
  split
  · rfl
  · split
    · refine hy ?_
      split
      · exact he
      · exact he
    · split <;> simp [hy he]

@[simp] theorem State.logsOk_watchTile (s : State) (t : Nat) : (s.watchTile t).logsOk = s.logsOk := by simp [State.watchTile]
@[simp] theorem State.logsOk_pollTile {s : State} (h : s.logsOk = true) (t : Nat) : (s.pollTile t).logsOk = true := by
  refine State.logsOk_foldl_of (fun s c hs => ?_) _ h
  split <;> simp [hs, State.logsOk_ctx hs]

@[simp] theorem State.logsOk_takeSlot (s : State) (c : Nat) : (s.takeSlot c).logsOk = s.logsOk := by
  refine Eq.trans (State.logsOk_of_ctxs ?_) (s.logsOk_watchTile (tileOf c))
  simp only [State.takeSlot, State.setTile_ctxs]

@[simp] theorem State.logsOk_overrun {s : State} (h : s.logsOk = true) (c : Nat) : (s.overrun c).logsOk = true := by
  simp only [State.overrun]
  split
  · exact h
  · split
    · simp [h, State.logsOk_ctx h]
    · split
      · exact h
      · refine State.logsOk_issueFault ((State.logsOk_takeSlot _ _).trans ?_) _ _
        split
        · exact (s.logsOk_setCtx_entries c (Ctx.entries_needSegment _ _)).trans h
        · exact h

/-! ### The end of a cycle -/

@[simp] theorem State.logsOk_takeReads (s : State) : s.takeReads.logsOk = s.logsOk := by
  refine State.logsOk_of_map (s := s) rfl fun p => ?_
  split
  · rfl
  · exact Ctx.entries_takeReads _ _ _

@[simp] theorem State.logsOk_readUnit (s : State) (fn t u : Nat) : (s.readUnit fn t u).logsOk = s.logsOk := by
  simp only [State.readUnit]
  split
  · rfl
  · split <;> simp

@[simp] theorem State.logsOk_input {s : State} (h : s.logsOk = true) (i : Input) : (s.input i).logsOk = true := by
  cases i with
  | hostStore a n v => exact State.logsOk_foldl_of (fun s i hs => State.logsOk_hostSet hs _ _) _ h
  | spError t w fatal => simp [State.input, h]
  | devError sec fatal =>
    simp only [State.input]
    split
    · exact h
    · split <;> exact h
  | readMonitor fn t u => simp [State.input, h]
  | readCounter fn n => simp [State.input, h]
  | readFwstatus => exact h
  | readHealth i => exact h

@[simp] theorem State.logsOk_takeInputs {s : State} (h : s.logsOk = true) : s.takeInputs.logsOk = true := by
  exact State.logsOk_foldl_of (fun s p hs => State.logsOk_input hs p.2) _ h

@[simp] theorem State.logsOk_tickPorts (s : State) : s.tickPorts.logsOk = s.logsOk := (rfl)

@[simp] theorem State.logsOk_tickLate {s : State} (h : s.logsOk = true) : s.tickLate.logsOk = true := by
  simp only [State.tickLate, State.logsOk_serveReads]
  exact State.logsOk_foldl_of (fun _ p hs => State.logsOk_loseSector hs p.1) (s.backInv.filter _) h

@[simp] theorem State.logsOk_tidy {s : State} (h : s.logsOk = true) : s.tidy.logsOk = true := by simp [State.tidy, h]
@[simp] theorem State.logsOk_sampleBlocks (s : State) : s.sampleBlocks.logsOk = s.logsOk := by simp [State.sampleBlocks]

@[simp] theorem State.logsOk_countEnergy (s : State) (fn n : Nat) :
    (s.countEnergy fn n).logsOk = s.logsOk := by simp [State.countEnergy]

@[simp] theorem State.logsOk_payBand (s : State) (c : Nat) (l : Launch) (b : Nat) :
    (s.payBand c l b).logsOk = s.logsOk := by simp [State.payBand]

@[simp] theorem State.logsOk_countIssue (s : State) : s.countIssue.logsOk = s.logsOk := by
  refine State.logsOk_foldl _ _ _ fun s p => ?_
  split <;> simp

@[simp] theorem State.logsOk_payEnergy (s : State) : s.payEnergy.logsOk = s.logsOk := by
  refine State.logsOk_foldl _ _ _ fun s p => ?_
  split <;> simp

@[simp] theorem State.logsOk_count1 (s : State) : s.count1.logsOk = s.logsOk := by
  have h0 : (s.countIssue.payEnergy.sampleBlocks).logsOk = s.logsOk := by simp
  exact (State.logsOk_of_map (s := s.countIssue.payEnergy.sampleBlocks) rfl fun p => State.entries_tickCtx _ _ _).trans h0

@[simp] theorem State.logsOk_tick {s : State} (h : s.logsOk = true) : s.tick.logsOk = true := by
  simp only [State.tick]
  split
  · exact h
  · rw [State.logsOk_takeReads, State.logsOk_def]
    simp only [← State.logsOk_def]
    simp [h]

end Sys2Proof.Machine

/-! SUPPORT. Every step keeps the logs and gates within their entries. -/

namespace Sys2Proof.Machine

/-! ### Engine steps (R196 to R264, R284 to R287, R325) -/

theorem execCopyRecordPerform_keepsLogs (ctx : Nat) (ch : Chan) (n : Nat) (s : State) :
    KeepsLogs s (execCopyRecordPerform ctx ch n s) := keepsLogs_next fun h => by
  split
  · exact h
  · rename_i r hr
    have hr := Ctx.held_of_headRec hr
    have hp (u : State) (hu : u.logsOk = true) (e f : Nat) (a b : Bool) :
        ((u.moveRec ctx (s.ctx ctx) r e).partDone ctx r f a b).logsOk = true :=
      State.logsOk_partDone (State.logsOk_moveRec hu ctx _ r e) ctx hr f a b
    split
    · exact h
    · split
      · simp [h]
      · split
        · exact h
        · refine State.logsOk_withNeed _ _ h (fun u hu => ?_) hr
          simp only
          split
          · split
            · simp [hu]
            · exact hp u hu _ _ _ _
          · split
            · simp [hu]
            · exact hp u hu _ _ _ _

theorem execRemoteAtomicPerform_keepsLogs (ctx : Nat) (ch : Chan) (s : State) :
    KeepsLogs s (execRemoteAtomicPerform ctx ch s) := keepsLogs_next fun h => by
  split
  · exact h
  · rename_i r hr
    split
    · exact h
    · split
      · exact State.logsOk_withNeed _ _ h (fun u hu => State.logsOk_virtAtomic hu _ _ _) (Ctx.held_of_headRec hr)
      · simp only
        split
        · simp [h]
        · refine State.logsOk_giveOld ?_ _ _ _
          split
          · split <;> simp [h]
          · exact h

theorem execHostAtomicPerform_keepsLogs (ctx : Nat) (ch : Chan) (s : State) : KeepsLogs s (execHostAtomicPerform ctx ch s) :=
  keepsLogs_next fun h => by
    split
    · exact h
    · rename_i r hr
      have hr := Ctx.held_of_headRec hr
      have hset (q : CopyRec) (hq : q.held = false) : ((s.ctx ctx).setRec q).logsOk = true :=
        Ctx.logsOk_setRec (State.logsOk_ctx h ctx) hq
      have hv (nd : Need) : (s.withNeed ctx r nd fun u => u.virtAtomic ctx (s.ctx ctx) r).logsOk = true :=
        State.logsOk_withNeed _ _ h (fun u hu => State.logsOk_virtAtomic hu _ _ _) hr
      have ha (u : State) (hu : u.logsOk = true) (q : CopyRec) (hq : q.held = false) (pa : Nat) (nd : Need) :
          (u.withNeed ctx q nd fun u => u.atticAtomic ctx (s.ctx ctx) q pa).logsOk = true :=
        State.logsOk_withNeed _ _ hu (fun u hu => State.logsOk_atticAtomic hu _ _ _ _) hq
      split
      · exact h
      · split
        · simp [h]
        · simp only
          split
          · exact hv _
          · split
            · exact h
            · exact h
            · exact State.logsOk_giveOld h _ _ _
            · exact ha _ h _ hr _ _
            · split
              · simp [h]
              · split
                · refine ha _ (State.logsOk_setCtx h ctx ?_) _ (by exact hr) _ _
                  exact (Ctx.logsOk_setEvent _).trans (hset _ (by exact hr))
                · exact State.logsOk_setCtx h ctx (hset _ (by exact hr))
          · exact ha _ h _ hr _ _

theorem execHostAtomicopCompletion_keepsLogs (ctx : Nat) (ch : Chan) (st : Completion) (s : State) :
    KeepsLogs s (execHostAtomicopCompletion ctx ch st s) := keepsLogs_next fun h => by
  split
  · exact h
  · rename_i r hr
    have hr := Ctx.held_of_headRec hr
    split
    · split
      · exact h
      · simp only
        split
        · refine State.logsOk_giveAnswer ?_ _ hr _
          split
          · exact State.logsOk_foldl_of (fun u i hu => State.logsOk_hostSet hu _ _) _ h
          · exact h
        · split
          · refine State.logsOk_setCtx (by simp [h]) ctx ((Ctx.logsOk_setEvent _).trans ?_)
            exact Ctx.logsOk_setRec (State.logsOk_ctx h ctx) hr
          · simp [h]
        · simp [h]
        · simp [h]
    · exact h

/-- An element of the cell queue that is done leaves the rest of its push, or nothing. -/
theorem State.logsOk_cellDone {s : State} (h : s.logsOk = true) (c : Nat) (p : Prop) [Decidable p] (op : CellOp) :
    (s.setCtx c (if p then (s.ctx c).dropCell else (s.ctx c).setCell op)).logsOk = true := by
  refine State.logsOk_setCtx_within h c ?_
  split
  · exact (s.ctx c).dropCell_within
  · exact (s.ctx c).setCell_within op

theorem execCellAddPerform_keepsLogs (ctx : Nat) (s : State) : KeepsLogs s (execCellAddPerform ctx s) :=
  keepsLogs_next fun h => by
    split
    · exact h
    · split
      · exact State.logsOk_withCell _ _ h (fun u hu => State.logsOk_cellDone (State.logsOk_cellPlus hu _ _ _) ctx _ _) _
      · simp [h, State.logsOk_ctx h]
      · exact h

theorem execCellInitPerform_keepsLogs (ctx : Nat) (s : State) : KeepsLogs s (execCellInitPerform ctx s) :=
  keepsLogs_next fun h => by
    split
    · exact h
    · split
      · split
        · simp [h, State.logsOk_ctx h]
        · exact State.logsOk_withCell _ _ h (fun u hu => State.logsOk_cellDone (State.logsOk_vwriteLE hu _ _ _ _) ctx _ _) _
      · exact h

theorem execLrawPerform_keepsLogs (ctx : Nat) (s : State) : KeepsLogs s (execLrawPerform ctx s) := keepsLogs_next fun h => by
  split
  · exact h
  · split
    · split
      · simp [h, State.logsOk_ctx h]
      · exact State.logsOk_withCell _ _ h (fun u hu => State.logsOk_cellDone (State.logsOk_spWriteLE hu _ _ _ _) ctx _ _) _
    · exact h

theorem execGatherComplete_keepsLogs (ctx : Nat) (s : State) : KeepsLogs s (execGatherComplete ctx s) := keepsLogs_next fun h => by
  have hx := State.logsOk_ctx h ctx
  split
  · exact h
  · split
    · simp [h, hx]
    · simp only
      split
      · simp [h, hx]
      · split <;> simp [h, hx]

theorem execCollectiveComplete_keepsLogs (ctx : Nat) (s : State) : KeepsLogs s (execCollectiveComplete ctx s) :=
  keepsLogs_next fun h => by
    split
    · exact h
    · split
      · exact h
      · simp only
        split
        · refine State.logsOk_foldl_of (fun u p hu => ?_) _ h
          split
          · exact hu
          · exact State.logsOk_setCtx (by simp [hu]) _ ((Ctx.logsOk_setColl _).trans (State.logsOk_ctx hu _))
        · refine State.logsOk_foldl_of (fun u p hu => ?_) _ h
          split
          · exact hu
          · refine State.logsOk_setCtx hu _ ?_
            split <;> simp [State.logsOk_ctx hu]

theorem execDrainPushPerform_keepsLogs (ctx : Nat) (s : State) : KeepsLogs s (execDrainPushPerform ctx s) :=
  keepsLogs_next fun h => by
    have hx := State.logsOk_ctx h ctx
    split
    · exact h
    · split
      · exact h
      · split
        · simp [h, hx]
        · split
          · simp only
            split
            · split
              · simp [h, hx]
              · have ho := State.logsOk_ownUpdate h
                exact State.logsOk_setCtx (ho _ _ _ _ _ _) ctx (Ctx.logsOk_dropRow (State.logsOk_ctx (ho _ _ _ _ _ _) ctx))
            · simp [h, hx]
          · simp only
            split
            · simp [h, hx]
            · split
              · simp [h]
              · refine State.logsOk_setCtx ?_ ctx (Ctx.logsOk_dropRow hx)
                split <;> simp [h]

theorem execSegmentResident_keepsLogs (ctx : Nat) (s : State) : KeepsLogs s (execSegmentResident ctx s) :=
  keepsLogs_next fun h => by
    have hx := State.logsOk_ctx h ctx
    split
    · exact h
    · rename_i cp _
      extract_lets im failed nd u bytes go
      have hf (code va : Nat) : (failed code va).logsOk = true := State.logsOk_setCtx h ctx hx
      have hgo : go.logsOk = true := by
        simp only [go]
        split
        · exact hf _ _
        · split
          · exact State.logsOk_setCtx (s := (s.ask (s.ctx ctx).tenant nd).enqueue ctx (some cp.seq) nd) (by simp [h]) ctx hx
          · refine State.logsOk_setCtx (s := u) (by simp [u, h]) ctx ?_
            exact (Ctx.logsOk_of_entries ((Ctx.entries_setHalf _ _ _).trans (Ctx.entries_fillHalf _ _ _))).trans hx
      split
      · split
        · exact hf _ _
        · split
          · exact hgo
          · exact h
      · exact hgo

theorem execHostRequestCompletion_keepsLogs (ctx : Nat) (src : EngSrc) (st : Completion) (s : State) :
    KeepsLogs s (execHostRequestCompletion ctx src st s) := keepsLogs_next fun h => by
  have hx := State.logsOk_ctx h ctx
  cases src with
  | chan ch =>
    simp only
    split
    · exact h
    · rename_i r hr
      have hr := Ctx.held_of_headRec hr
      split
      · split
        · exact h
        · split
          · exact State.logsOk_setCtx h ctx (Ctx.logsOk_setRec hx hr)
          · simp [h]
      · split <;> simp [h]
      · exact h
  | gather =>
    simp only
    split
    · exact h
    · split
      · split <;> simp [h, hx]
      · exact h
  | posted =>
    simp only
    split
    · exact h
    · refine State.logsOk_setCtx h ctx ?_
      split
      · exact hx
      · exact (Ctx.logsOk_addFault _ _ _ _ _ _).trans hx
  | cells => exact h
  | drains => exact h

theorem execHostCompletionTimeout_keepsLogs (ctx : Nat) (src : EngSrc) (s : State) :
    KeepsLogs s (execHostCompletionTimeout ctx src s) := keepsLogs_next fun h => by
  have hx := State.logsOk_ctx h ctx
  cases src with
  | chan ch =>
    simp only
    split
    · exact h
    · split <;> simp [h]
  | gather =>
    simp only
    split
    · exact h
    · split <;> simp [h, hx]
  | cells =>
    simp only
    split
    · exact h
    · split <;> simp [h, hx]
  | drains =>
    simp only
    split
    · exact h
    · split <;> simp [h, hx]
  | posted =>
    simp only
    split
    · exact h
    · split
      · exact State.logsOk_setCtx h ctx ((Ctx.logsOk_addFault _ _ _ _ _ _).trans hx)
      · exact h

theorem execAtticLineFill_keepsLogs (line : Nat) (own : Bool) (s : State) : KeepsLogs s (execAtticLineFill line own s) :=
  keepsLogs_next fun h => by
    split
    · exact h
    · split
      · exact h
      · simp only
        split
        · exact State.logsOk_refuseLine (by exact h) _
        · have hq (m : AMap LineReq) : State.logsOk { s with atticReq := m } = true := h
          exact State.logsOk_atticRoom (hq _) line

/-! ### Steps of the issue, of events and of tasks (R39 to R62, R271 to R283) -/

theorem execBundleIssue_keepsLogs (tile : Nat) (s : State) : KeepsLogs s (execBundleIssue tile s) := keepsLogs_next fun h => by
  have hi (ts : List Nat) : State.logsOk { (s.pollTile tile).watchTile tile with issued := ts } = true := by
    simp only [State.logsOk_def]
    simp only [← State.logsOk_def]
    simp [h]
  split
  · exact h
  · simp only
    split <;> simp [hi]

theorem execEngineFaultDelivery_keepsLogs (ctx : Nat) (s : State) : KeepsLogs s (execEngineFaultDelivery ctx s) :=
  keepsLogs_next fun h => by
    split
    · exact h
    · split
      · exact h
      · rename_i f _
        have hs := State.logsOk_setCtx_within h ctx ((s.ctx ctx).stopSource_within f)
        split <;> simp [hs]

theorem execRollback_keepsLogs (ctx : Nat) (s : State) : KeepsLogs s (execRollback ctx s) := keepsLogs_next fun h => by
  have hx := State.logsOk_ctx h ctx
  split
  · exact h
  · split
    · exact h
    · split
      · exact State.logsOk_deliver (State.logsOk_setCtx h ctx (by exact hx)) _ _ _ _ _
      · have hs := State.logsOk_setCtx ((State.logsOk_undoRows s ctx).trans h) ctx ((s.ctx ctx).logsOk_toMark s.cycle)
        split
        · exact State.logsOk_deliver hs _ _ _ _ _
        · split
          · exact State.logsOk_failTask hs _ _ _ _ _
          · split
            · exact State.logsOk_setCtx hs ctx ((s.ctx ctx).logsOk_toMark s.cycle)
            · exact hs

theorem execMatrixResultLands_keepsLogs (ctx : Nat) (s : State) : KeepsLogs s (execMatrixResultLands ctx s) :=
  keepsLogs_of_eq (by
    split
    · rfl
    · refine (State.logsOk_setCtx_entries _ ctx ?_).trans (State.logsOk_setTile _ _ _)
      split
      · rfl
      · exact (Ctx.entries_land _ _).trans rfl)

theorem execMldwComplete_keepsLogs (ctx : Nat) (s : State) : KeepsLogs s (execMldwComplete ctx s) :=
  keepsLogs_of_eq (by
    split
    · rfl
    · exact s.logsOk_setCtx_entries ctx ((Ctx.entries_setPlane _ _ _).trans rfl))

theorem execCadenceChange_keepsLogs (ctx : Nat) (s : State) : KeepsLogs s (execCadenceChange ctx s) :=
  keepsLogs_of_eq (by
    split
    · rfl
    · split
      · rfl
      · rw [State.logsOk_sample]
        exact s.logsOk_setCtx_entries ctx (by rfl))

theorem execSyncRelease_keepsLogs (ctx : Nat) (s : State) : KeepsLogs s (execSyncRelease ctx s) :=
  keepsLogs_of_eq (by
    split
    · rfl
    · split
      · exact State.logsOk_foldl _ _ _ fun s c => s.logsOk_setCtx_entries c (Ctx.entries_release _ _)
      · rfl)

theorem execTaskEnd_keepsLogs (ctx : Nat) (s : State) : KeepsLogs s (execTaskEnd ctx s) := keepsLogs_next fun h => by
  refine State.logsOk_completeLaunch ?_ _
  split
  · exact h
  · rw [State.logsOk_freeOwner]
    exact State.logsOk_setCtx h ctx (State.logsOk_ctx h ctx)

theorem execLaunchFailureStop_keepsLogs (ctx : Nat) (s : State) : KeepsLogs s (execLaunchFailureStop ctx s) :=
  keepsLogs_next fun h => by
    split
    · exact h
    · refine State.logsOk_completeLaunch ((State.logsOk_freeOwner _ _).trans ?_) _
      exact State.logsOk_setCtx_within h ctx ((s.ctx ctx).releaseAll_within.congr rfl)

theorem execDebugConsent_keepsLogs (tenant tid expiry : Nat) (ok : Bool) (s : State) :
    KeepsLogs s (execDebugConsent tenant tid expiry ok s) := keepsLogs_of_eq (by
  split
  · rfl
  · refine (State.logsOk_mapCtxs _ fun x => ?_).trans rfl
    split
    · split <;> rfl
    · rfl)

theorem execPrepare_keepsLogs (s : State) : KeepsLogs s (execPrepare s) := keepsLogs_of_eq (by
  split
  · rfl
  · exact (State.logsOk_mapCtxs _ fun x => x.entries_undebug _).trans rfl)

theorem execExtendedFrameAnnounce_keepsLogs (ahead : Nat) (s : State) : KeepsLogs s (execExtendedFrameAnnounce ahead s) :=
  keepsLogs_of_eq (by
    split
    · rfl
    · refine (State.logsOk_mapCtxs _ fun x => ?_).trans rfl
      split <;> rfl)

theorem execPauseEnd_keepsLogs (ctx : Nat) (s : State) : KeepsLogs s (execPauseEnd ctx s) := keepsLogs_of_eq (by
  split
  · exact s.logsOk_setCtx_entries ctx (by rfl)
  · rfl)

theorem execDebugHalt_keepsLogs (ctx : Nat) (s : State) : KeepsLogs s (execDebugHalt ctx s) := keepsLogs_of_eq (by
  split
  · exact s.logsOk_setCtx_entries ctx (Ctx.entries_halt _ _)
  · rfl)

/-- A task that runs again leaves its log and its gate. -/
theorem State.logsOk_unhalt (s : State) (c : Nat) (once : Bool) :
    (s.setCtx c ((s.ctx c).unhalt s.cycle once)).logsOk = s.logsOk := s.logsOk_setCtx_entries c (Ctx.entries_unhalt _ _ _)

/-! ### Launches, evictions and resumes (R295 to R300) -/

theorem execLaunchStart_keepsLogs (n plane y0 x0 : Nat) (s : State) : KeepsLogs s (execLaunchStart n plane y0 x0 s) :=
  keepsLogs_next fun h => by
    split
    · exact h
    · split
      · split
        · exact h
        · refine State.logsOk_withHome h ?_ _
          exact State.logsOk_acceptLaunch h _ _
      · split
        · refine State.logsOk_atL h (State.logsOk_imagesAway s _ _) (fun u hu => ?_) _ _ _
          exact State.logsOk_startLaunch hu _ _
        · exact h
      · exact h

theorem execEvictionStop_keepsLogs (ctx : Nat) (s : State) : KeepsLogs s (execEvictionStop ctx s) := keepsLogs_next fun h => by
  split
  · exact h
  · split
    · exact h
    · refine State.logsOk_withHome h ?_ _
      split
      · simp [h]
      · split <;> simp [h]

theorem execEvictionComplete_keepsLogs (n : Nat) (s : State) : KeepsLogs s (execEvictionComplete n s) := keepsLogs_next fun h => by
  split
  · exact h
  · split
    · split
      · exact h
      · split
        · simp [h]
        · simp [h]
    · exact h

theorem execResume_keepsLogs (n plane y0 x0 : Nat) (s : State) : KeepsLogs s (execResume n plane y0 x0 s) :=
  keepsLogs_next fun h => by
    split
    · exact h
    · split
      · simp only
        split
        · exact h
        · exact State.logsOk_withHome h (State.logsOk_acceptResume h _ _) _
      · split
        · refine State.logsOk_atL h (State.logsOk_recordsAway s _ _) (fun u hu => ?_) _ _ _
          exact State.logsOk_foldl_of (fun u p hu => State.logsOk_restoreTile hu _ _ _ _) _ hu
        · exact h
      · exact h

/-! ### Queues and packets (R301, R326 to R331) -/

theorem execHostRegisterWrite_keepsLogs (fn reg : Nat) (v : Word) (s : State) : KeepsLogs s (execHostRegisterWrite fn reg v s) := by
  simp only [execHostRegisterWrite]
  split
  · exact keepsLogs_of_eq rfl
  · split
    · exact keepsLogs_of_eq (by simp)
    · split
      · exact keepsLogs_of_eq (by simp)
      · split
        · exact keepsLogs_of_eq rfl
        · split
          · exact keepsLogs_of_eq (by split <;> rfl)
          · split
            · exact keepsLogs_of_eq (by simp)
            · exact fun _ _ ht => nomatch ht

theorem execNop_keepsLogs (fn q : Nat) (s : State) : KeepsLogs s (execNop fn q s) := keepsLogs_next fun h => by
  split
  · split
    · exact State.logsOk_withHome h h _
    · exact h
  · split
    · simp [h]
    · simp [h]

theorem Ctx.entries_signal (x : Ctx) (v : BitVec 16) : Ctx.entries { x.setEvent 0 with sigval := v } = x.entries := rfl

theorem execSignal_keepsLogs (fn q : Nat) (s : State) : KeepsLogs s (execSignal fn q s) := keepsLogs_next fun h => by
  refine State.logsOk_runPacket h (fun p => ?_) _ _ _ _
  dsimp only
  split
  · simp [h]
  · refine State.logsOk_foldl_of (fun u m hu => State.logsOk_foldl_of (fun v c hv => ?_) _ hu) _ (by simp [h])
    split
    · exact (v.logsOk_setCtx_entries c (Ctx.entries_signal _ _)).trans hv
    · exact hv

theorem execLaunch_keepsLogs (fn q : Nat) (s : State) : KeepsLogs s (execLaunch fn q s) := keepsLogs_next fun h => by
  refine State.logsOk_runPacket h (fun p => ?_) _ _ _ _
  simp only
  split
  · exact h
  · split
    · simp [h]
    · split
      · simp [h]
      · exact h

theorem execMigrate_keepsLogs (fn q : Nat) (s : State) : KeepsLogs s (execMigrate fn q s) := keepsLogs_next fun h => by
  refine State.logsOk_runPacket h (fun p => ?_) _ _ _ _
  simp only
  split
  · exact h
  · refine State.logsOk_withHome h ?_ _
    split
    · simp [h]
    · exact h

theorem execMigrationCopy_keepsLogs (tenant : Nat) (s : State) : KeepsLogs s (execMigrationCopy tenant s) :=
  keepsLogs_next fun h => by
    split
    · exact h
    · rename_i m _
      simp only
      split
      · exact h
      · split
        · simp [h]
        · exact State.logsOk_movePage h m.old m.new (pageBytes m.lsize)

/-- Device memory alone is new. -/
theorem State.logsOk_dev (s : State) (m : Memory) : State.logsOk { s with dev := m } = s.logsOk := rfl

theorem execMigrationCommit_keepsLogs (tenant : Nat) (s : State) : KeepsLogs s (execMigrationCommit tenant s) :=
  keepsLogs_next fun h => by
    split
    · exact h
    · simp only
      split
      · simp [h]
      · refine State.logsOk_record ?_ _ _ _ _ _ _ _ _
        refine State.logsOk_foldl_of (fun u a hu => ?_) _ ((State.logsOk_mapEntries s _ _ _).trans h)
        exact (State.logsOk_dev _ _).trans (State.logsOk_claimRange hu a 16)

/-! ### The host (R317 to R325) -/

theorem execBackInvalidateResponse_keepsLogs (sector : Nat) (data : BitVec 512) (s : State) :
    KeepsLogs s (execBackInvalidateResponse sector data s) := keepsLogs_next fun h => by
  split
  · exact h
  · rename_i b _
    have hd : State.logsOk (if mgetD s.snoop sector false then s.hostData sector data else s) = true := by simp [h]
    have hm (u : State) (hu : u.logsOk = true) (bi : AMap BackInv) (sn : AMap Bool) :
        State.logsOk { u with backInv := bi, snoop := sn } = true := hu
    simp only [State.logsOk_serveReads]
    split
    · exact State.logsOk_landPend (hm _ hd _ _) _
    · exact hm _ hd _ _

theorem execHostMemWrite_keepsLogs (fn addr : Nat) (enables : BitVec 64) (data : BitVec 512) (s : State) :
    KeepsLogs s (execHostMemWrite fn addr enables data s) := keepsLogs_next fun h => by
  split
  · simp [h]
  · simp [h]
  · have hc := State.logsOk_claim h (addr / 64)
    simp only
    split <;> exact hc

/-! ### Firmware, debug, the calendar and power (R302 to R315, R332 to R338) -/

theorem execUnannouncedExtension_keepsLogs (cycles : Nat) (s : State) : KeepsLogs s (execUnannouncedExtension cycles s) :=
  keepsLogs_next fun h => by
    have hc (k : Calendar) :
        State.logsOk { (if cycles = 0 then s else s.health' healthExtension cycles) with cal := k } = true :=
      Eq.trans (b := s.logsOk) ((State.logsOk_ite _ _ _).trans (ite_self _)) h
    split
    · exact h
    · simp only
      split
      · exact hc _
      · split
        · exact h
        · split
          · exact State.logsOk_foldl_of (fun u c hu => State.logsOk_overrun hu c) _ (hc _)
          · exact hc _

theorem execSensorSweep_keepsLogs (junction watts : Nat) (s : State) : KeepsLogs s (execSensorSweep junction watts s) :=
  keepsLogs_next fun h => by
    have hc (u : State) (k : Nat) : State.logsOk { u with calm := k } = u.logsOk := rfl
    split
    · exact h
    · simp only
      split
      · simp [h]
      · split
        · simp [hc, h]
        · split
          · simp [hc, h]
          · simp [hc, h]

theorem execSpareBringIn_keepsLogs (sp : Spare) (s : State) : KeepsLogs s (execSpareBringIn sp s) := keepsLogs_next fun h => by
  split
  · exact h
  · cases sp with
    | tile row col => simp [h]
    | bankRow t bank row =>
      simp only
      split
      · exact State.logsOk_loseRow h t bank row
      · exact h
    | bank t bank =>
      have hb (rs : List Nat) (u : Spares) : State.logsOk { rs.foldl (fun s r => s.loseRow t bank r) s with spares := u } = true :=
        State.logsOk_foldl_of (fun _ r hs => State.logsOk_loseRow hs t bank r) rs h
      simp [hb, h]
    | dqLane n =>
      simp only
      split <;> exact h
    | core n =>
      simp only
      split <;> exact h

theorem execTokenRefill_keepsLogs (slice bucket : Nat) (s : State) : KeepsLogs s (execTokenRefill slice bucket s) :=
  keepsLogs_of_eq (by
    split
    · rfl
    · simp only
      split
      · rfl
      · split <;> rfl)

theorem execSlcRequestAdmit_keepsLogs (slice plane cls sectors : Nat) (s : State) :
    KeepsLogs s (execSlcRequestAdmit slice plane cls sectors s) := keepsLogs_of_eq (by
  split
  · rfl
  · split
    · rfl
    · rw [State.logsOk_hintAdmit, State.logsOk_def]
      simp only [← State.logsOk_def]
      simp)

theorem execD3hotEntry_keepsLogs (s : State) : KeepsLogs s (execD3hotEntry s) := keepsLogs_next fun h => by
  split
  · exact h
  · split
    · refine (State.logsOk_foldl _ _ _ fun s p => ?_).trans h
      simp
    · rfl

/-- Every instruction keeps the logs and gates within their entries: a word as its meaning does, a step as its own lemma says. -/
theorem exec_keepsLogs (i : Instr) (s : State) : KeepsLogs s (exec i s) := by
  have hw := wordMeaning_keepsLogs i s
  cases i with
  | bundleIssue tile => exact execBundleIssue_keepsLogs tile s
  | registerWriteLands => exact keepsLogs_of_eq (s.logsOk_setCtx_entries _ (Ctx.entries_landAll _ _))
  | segmentResident ctx => exact execSegmentResident_keepsLogs ctx s
  | copyRecordPerform ctx ch n => exact execCopyRecordPerform_keepsLogs ctx ch n s
  | remoteAtomicPerform ctx ch => exact execRemoteAtomicPerform_keepsLogs ctx ch s
  | hostAtomicPerform ctx ch => exact execHostAtomicPerform_keepsLogs ctx ch s
  | cellAddPerform ctx => exact execCellAddPerform_keepsLogs ctx s
  | cellInitPerform ctx => exact execCellInitPerform_keepsLogs ctx s
  | lrawPerform ctx => exact execLrawPerform_keepsLogs ctx s
  | gatherComplete ctx => exact execGatherComplete_keepsLogs ctx s
  | collectiveComplete ctx => exact execCollectiveComplete_keepsLogs ctx s
  | drainPushPerform ctx => exact execDrainPushPerform_keepsLogs ctx s
  | engineFaultDelivery ctx => exact execEngineFaultDelivery_keepsLogs ctx s
  | rollback ctx => exact execRollback_keepsLogs ctx s
  | quantumExpiry | qreset | paused | consentExpiry | debugRegisterAccess => exact keepsLogs_of_eq (by simp)
  | debugSingleStep | debugResume =>
    refine keepsLogs_of_eq ?_
    simp only [State.logsOk_ite, State.logsOk_unhalt, ite_self]
  | eventTaken | watchdogExpiry | drainLimitExceeded | doorbell => exact keepsLogs_next fun h => by simp [h]
  | evictionRequest =>
    refine keepsLogs_of_eq ?_
    split <;> simp
  | pauseEnd c => exact execPauseEnd_keepsLogs c s
  | debugHalt c => exact execDebugHalt_keepsLogs c s
  | matrixResultLands c => exact execMatrixResultLands_keepsLogs c s
  | mldwComplete c => exact execMldwComplete_keepsLogs c s
  | cadenceChange c => exact execCadenceChange_keepsLogs c s
  | syncRelease c => exact execSyncRelease_keepsLogs c s
  | taskEnd c => exact execTaskEnd_keepsLogs c s
  | launchFailureStop c => exact execLaunchFailureStop_keepsLogs c s
  | launchStart n p y x => exact execLaunchStart_keepsLogs n p y x s
  | evictionStop ctx => exact execEvictionStop_keepsLogs ctx s
  | evictionComplete n => exact execEvictionComplete_keepsLogs n s
  | resume n p y x => exact execResume_keepsLogs n p y x s
  | hostRegisterWrite fn reg v => exact execHostRegisterWrite_keepsLogs fn reg v s
  | nop fn q => exact execNop_keepsLogs fn q s
  | launch fn q => exact execLaunch_keepsLogs fn q s
  | signal fn q => exact execSignal_keepsLogs fn q s
  | barrier | evict | timestamp | release =>
    refine keepsLogs_next fun h => State.logsOk_runPacket h (fun p => ?_) _ _ _ _
    simp [h]
  | migrate fn q => exact execMigrate_keepsLogs fn q s
  | migrationCopy t => exact execMigrationCopy_keepsLogs t s
  | migrationCommit t => exact execMigrationCommit_keepsLogs t s
  | hostReadShared | hostReadOwn => exact keepsLogs_of_eq (State.logsOk_hostRead _ _ _ _)
  | hostMemWrite fn addr e d => exact execHostMemWrite_keepsLogs fn addr e d s
  | backInvalidateResponse sec d => exact execBackInvalidateResponse_keepsLogs sec d s
  | hostSnoop => exact keepsLogs_next fun h => State.logsOk_snooped h _ _
  | atticLineFill line own => exact execAtticLineFill_keepsLogs line own s
  | hostAtomicopCompletion ctx ch st => exact execHostAtomicopCompletion_keepsLogs ctx ch st s
  | hostCompletionTimeout ctx src => exact execHostCompletionTimeout_keepsLogs ctx src s
  | tenantReset fn => exact keepsLogs_next fun h => State.logsOk_resetTenant h fn
  | functionLevelReset fn =>
    refine keepsLogs_next fun h => ?_
    simp only [State.logsOk_def]
    simp only [← State.logsOk_def]
    exact State.logsOk_resetTenant h fn
  | linkDown => exact keepsLogs_of_eq ((State.logsOk_mapCtxs _ Ctx.entries_losePosted).trans rfl)
  | spdmRequest => exact keepsLogs_of_eq (State.logsOk_tell _ _)
  | d3hotEntry => exact execD3hotEntry_keepsLogs s
  | powerLoss => exact keepsLogs_next fun _ => State.logsOk_afterPower s _
  | prepare => exact execPrepare_keepsLogs s
  | extendedFrameAnnounce a => exact execExtendedFrameAnnounce_keepsLogs a s
  | linkTraining | fwrangeWrite | activate | firmwareRestart | maintenanceFrameBoundary | guardBandStart
  | maintenanceSlotStart | railSettled | d3hotExit =>
    refine keepsLogs_of_eq ?_
    split <;> rfl
  | debugConsent t tid e ok => exact execDebugConsent_keepsLogs t tid e ok s
  | sensorSweep j w => exact execSensorSweep_keepsLogs j w s
  | unannouncedExtension n => exact execUnannouncedExtension_keepsLogs n s
  | spareBringIn sp => exact execSpareBringIn_keepsLogs sp s
  | tokenRefill sl b => exact execTokenRefill_keepsLogs sl b s
  | slcRequestAdmit sl p c n => exact execSlcRequestAdmit_keepsLogs sl p c n s
  | hostRequestCompletion ctx src st => exact execHostRequestCompletion_keepsLogs ctx src st s
  | reset => exact keepsLogs_next fun h => by simp [h]
  | _ => exact hw

/-! ### Every step -/

/-- What comes next is chosen on a machine with the same contexts. -/
theorem State.logsOk_pick (s : State) : s.pick.2.logsOk = s.logsOk := by
  unfold State.pick
  split
  · rfl
  · split
    · split
      · rfl
      · simp only
        split <;> rfl
    · rfl

/-- Settles O57: the event that comes next takes entries of a log or a gate only where there is room, and the end of the cycle
takes none. -/
theorem stepKeepsLogs : Obligations.StepKeepsLogs := by
  intro s t h ht
  have hp := (State.logsOk_pick s).trans h
  unfold step at ht
  split at ht
  · rename_i i s' hs
    rw [hs] at hp
    exact exec_keepsLogs i s' hp t ht
  · rename_i s' hs
    rw [hs] at hp
    cases ht
    exact State.logsOk_tick hp

end Sys2Proof.Machine

/-! SUPPORT. What is delivered to service code (R271, R272): the context alone changes, and it keeps its registers and its pending events. -/

namespace Sys2Proof.Machine

/-- What is delivered outside service mode, where SVCV is set, enters service code. -/
theorem State.deliver_enters {s : State} {c : Nat} (hv : (s.ctx c).svcv = true) (hm : (s.ctx c).svcMode = false)
    (cause ea es : Nat) (epc : PAddr) :
    s.deliver c cause ea es epc = s.setCtx c ((s.ctx c).enterService s.cycle cause ea es epc) := by
  simp [State.deliver, hv, hm]

/-- What is no restartable fault after the mark is delivered as it stands. -/
theorem State.takeFault_delivers {s : State} {code : Nat} {post : Bool} (h : (restartable code && post) = false)
    (c ea es : Nat) : s.takeFault c code ea es post = s.deliver c code ea es (s.ctx c).pc := by
  simp [State.takeFault, h]

/-- An engine fault's channel stops with its code, and the later records of the channel go (R463). -/
theorem Ctx.stopSource_chan {x : Ctx} {f : EngFault} {ch : Nat} (h : f.ch = some ch) :
    x.stopSource f = { x with engFaults := x.engFaults.erase f, recs := x.recs.filter (fun r => r.ch != ch)
                              stopped := mput x.stopped ch f.code } := by
  simp [Ctx.stopSource, h]

/-- What a fault's source takes with it is no register, and no return state. -/
theorem Ctx.stopSource_leaves (x : Ctx) (f : EngFault) :
    ((x.stopSource f).svcv = x.svcv ∧ (x.stopSource f).svcMode = x.svcMode ∧ (x.stopSource f).svcAddr = x.svcAddr) ∧
      ((x.stopSource f).pc = x.pc ∧ (x.stopSource f).pend = x.pend ∧ (x.stopSource f).annul = x.annul) ∧
      (x.stopSource f).s = x.s ∧ (x.stopSource f).v = x.v ∧ (x.stopSource f).engFaults = x.engFaults.erase f := by
  unfold Ctx.stopSource
  simp only
  split <;> exact ⟨⟨rfl, rfl, rfl⟩, ⟨rfl, rfl, rfl⟩, rfl, rfl, rfl⟩

/-- Outside service mode a context that does not wait takes its first engine fault. -/
theorem Ctx.nextFault_of_no_wait {x : Ctx} (hw : x.wait = .none) (hm : x.svcMode = false) : x.nextFault = x.engFaults.head? := by
  have hp (f : EngFault) : x.faultPasses f = true := by simp [Ctx.faultPasses, hw, hm]
  unfold Ctx.nextFault
  cases x.engFaults with
  | nil => rfl
  | cons f fs => exact List.find?_cons_of_pos (hp f)

theorem exec_eventTaken {s : State} {c : Nat} (h : (s.ctx c).eventDue = true) :
    exec (.eventTaken c) s = .next (s.deliver c 0 0 10 (s.ctx c).pc) := congrArg Host.Outcome.next (if_pos h)

theorem exec_engineFaultDelivery {s : State} {c : Nat} {f : EngFault} (hd : (s.ctx c).engineFaultDue = true)
    (hf : (s.ctx c).nextFault = some f) (he : (s.ctx c).ending = none) :
    exec (.engineFaultDelivery c) s = .next ((s.setCtx c ((s.ctx c).stopSource f)).takeFault c f.code f.eaddr 12 f.post) := by
  show execEngineFaultDelivery c s = _
  simp [execEngineFaultDelivery, hd, hf, he]

end Sys2Proof.Machine

namespace Sys2Proof

open Machine

/-- Settles O29: an event and an engine fault are delivered outside service mode with SVCV set, so they enter service code; what the
fault's source takes with it is none of what service code is given. -/
theorem boundariesDeliver : Obligations.BoundariesDeliver := by
  intro s c x hv hm entered
  refine ⟨fun hdue => ?_, fun f hdue hf hend hpost => ?_⟩
  · refine ⟨_, (exec_eventTaken hdue).trans (congrArg Host.Outcome.next (State.deliver_enters hv hm _ _ _ _)), ?_⟩
    simp only [entered, State.ctx_setCtx]
    exact ⟨⟨trivial, rfl, rfl, rfl, rfl, rfl, rfl, rfl, rfl, rfl⟩, rfl⟩
  · obtain ⟨⟨hsv, hsm, hsa⟩, ⟨hpc, hpend, han⟩, hs, hvr, herase⟩ := x.stopSource_leaves f
    have hdel : (s.setCtx c (x.stopSource f)).takeFault c f.code f.eaddr 12 f.post =
        s.setCtx c ((x.stopSource f).enterService s.cycle f.code f.eaddr 12 x.pc) := by
      rw [State.takeFault_delivers hpost, State.deliver_enters (by simp [hsv, hv]) (by simp [hsm, hm])]
      simp [hpc]
    refine ⟨_, (exec_engineFaultDelivery hdue hf hend).trans (congrArg Host.Outcome.next hdel), ?_⟩
    simp only [entered, State.ctx_setCtx]
    refine ⟨⟨trivial, rfl, rfl, rfl, rfl, hsa, congrArg etgtOf hpend, ?_, hs, hvr⟩, rfl, herase, List.mem_of_find?_eq_some hf,
      fun hw => ?_, fun ch hch => ?_⟩
    · exact congrArg₂ edlyOf hpend han
    · rw [← Ctx.nextFault_of_no_wait hw hm]
      exact hf
    · have hst := Ctx.stopSource_chan (x := x) hch
      refine ⟨?_, fun r hr => ?_⟩
      · show mfind (x.stopSource f).stopped ch = _
        rw [hst]
        simp
      · have hr : r ∈ (x.stopSource f).recs := hr
        rw [hst] at hr
        simpa using hr

end Sys2Proof

/-! SUPPORT. What a rollback gives back (R279, R280, R283): the value that an undo entry keeps, the registers from the log, and the bytes
from the rows of the gate. -/

namespace Sys2Proof.Machine

/-! ### The value of a register key -/

/-- The control registers that the log can hold. -/
def undoCrs : List Nat := [0x005, 0x006, 0x020, 0x021, 0x023, 0x024]

theorem mgetD_foldl_packed {w : Nat} (m : AMap (BitVec w)) (f : Nat → BitVec w) (n k a : Nat) (d : BitVec w) :
    mgetD ((List.range k).foldl (fun m c => mput m (n + c) (f c)) m) a d = if n ≤ a ∧ a < n + k then f (a - n) else mgetD m a d := by
  induction k with
  | zero => simp
  | succ k ih =>
    rw [List.range_succ, List.foldl_append]
    simp only [List.foldl_cons, List.foldl_nil]
    by_cases ha : a = n + k
    · subst ha
      simp
    · rw [mgetD_mput_ne _ _ _ ha, ih]
      by_cases hr : n ≤ a ∧ a < n + k
      · rw [if_pos hr, if_pos (by omega)]
      · rw [if_neg hr, if_neg (by omega)]

section
variable (x : Ctx)

theorem Ctx.rs_setKey {n : Nat} (hn : 0 < n) (key : UKey) (v : Nat) :
    (x.setKey key v).rs n = if key = .s n then BitVec.ofNat 64 v else x.rs n := by
  cases key with
  | s m =>
    by_cases h : m = n
    · simp [Ctx.rs, Ctx.setKey, h, hn.ne']
    · simp [Ctx.rs, Ctx.setKey, h, hn.ne', mgetD_mput_ne _ _ _ (Ne.symm h)]
  | cr num => simp [Ctx.rs, Ctx.setKey]
  | _ => rfl

theorem Ctx.rq_setKey {n : Nat} (hn : 0 < n) (h8 : n < 8) (key : UKey) (v : Nat) :
    (x.setKey key v).rq n = if key = .q n then v == 1 else x.rq n := by
  cases key with
  | q m =>
    have hz : (n == 0) = false := by simpa using hn.ne'
    simp only [Ctx.rq, Ctx.setKey, hz, Bool.false_or, getLsbD_setQ _ _ _ h8, UKey.q.injEq]
  | cr num => simp [Ctx.rq, Ctx.setKey]
  | _ => rfl

theorem Ctx.rv_setKey {n d : Nat} (hd : d < 8) (key : UKey) (v : Nat) :
    (x.setKey key v).rv n d = if key = .v n then BitVec.ofNat 2048 (v / 2 ^ (2048 * d)) else x.rv n d := by
  cases key with
  | v m =>
    simp only [Ctx.rv, Ctx.setKey, mgetD_foldl_packed, UKey.v.injEq]
    by_cases h : m = n
    · subst h
      rw [if_pos (by omega), if_pos rfl, Nat.add_sub_cancel_left]
    · rw [if_neg (by omega), if_neg h]
  | cr num => simp [Ctx.rv, Ctx.setKey]
  | _ => rfl

theorem Ctx.rk_setKey {n d : Nat} (hn : 0 < n) (hd : d < 8) (key : UKey) (v : Nat) :
    (x.setKey key v).rk n d = if key = .k n then BitVec.ofNat 256 (v / 2 ^ (256 * d)) else x.rk n d := by
  cases key with
  | k m =>
    simp only [Ctx.rk, Ctx.setKey, if_neg hn.ne', mgetD_foldl_packed, UKey.k.injEq]
    by_cases h : m = n
    · subst h
      rw [if_pos (by omega), if_pos rfl, Nat.add_sub_cancel_left]
    · rw [if_neg (by omega), if_neg h]
  | cr num => simp [Ctx.rk, Ctx.setKey]
  | _ => rfl

theorem Ctx.crNat_setCr {num w : Nat} (h : (num, w) ∈ [(0x005, 4), (0x006, 18), (0x020, 64), (0x021, 64), (0x023, 64), (0x024, 5)])
    (m v : Nat) : (x.setCr m v).crNat num = if m = num then v % 2 ^ w else x.crNat num := by
  simp only [List.mem_cons, Prod.mk.injEq, List.not_mem_nil, or_false] at h
  obtain ⟨rfl, rfl⟩ | ⟨rfl, rfl⟩ | ⟨rfl, rfl⟩ | ⟨rfl, rfl⟩ | ⟨rfl, rfl⟩ | ⟨rfl, rfl⟩ := h <;>
  · unfold Ctx.setCr
    split <;> simp_all [Ctx.crNat]

theorem Ctx.crNat_setKey {num w : Nat} (h : (num, w) ∈ [(0x005, 4), (0x006, 18), (0x020, 64), (0x021, 64), (0x023, 64), (0x024, 5)])
    (key : UKey) (v : Nat) : (x.setKey key v).crNat num = if key = .cr num then v % 2 ^ w else x.crNat num := by
  cases key with
  | cr m => simp only [Ctx.setKey, x.crNat_setCr h, UKey.cr.injEq]
  | _ => rfl

@[simp] theorem Ctx.setCr_pair (m v : Nat) : (x.setCr m v).pair = x.pair := by
  unfold Ctx.setCr
  split <;> rfl

@[simp] theorem Ctx.setCr_sel (m v : Nat) : (x.setCr m v).sel = x.sel := by
  unfold Ctx.setCr
  split <;> rfl

theorem Ctx.pair_setKey (key : UKey) (v : Nat) :
    (x.setKey key v).pair = if key = .pair then (if v = 0 then none else some (v / 2 % 32, v / 64 % 32)) else x.pair := by
  cases key with
  | cr m => exact x.setCr_pair m v
  | _ => rfl

theorem Ctx.sel_setKey (key : UKey) (v : Nat) : (x.setKey key v).sel = if key = .sel then v == 1 else x.sel := by
  cases key with
  | cr m => exact x.setCr_sel m v
  | _ => rfl

end

/-- The number that a key keeps of eight clusters, by its digits. -/
theorem Ctx.keyVal_v (x : Ctx) (n : Nat) : x.keyVal (.v n) = packed (2 ^ 2048) 8 (fun d => (x.rv n d).toNat) := rfl

theorem Ctx.keyVal_k (x : Ctx) (n : Nat) : x.keyVal (.k n) = packed (2 ^ 256) 8 (fun d => (x.rk n d).toNat) := rfl

/-- A digit of a number packed from words is its word. -/
theorem ofNat_packed {w n d : Nat} (g : Nat → BitVec w) (hd : d < n) :
    BitVec.ofNat w (packed (2 ^ w) n (fun i => (g i).toNat) / 2 ^ (w * d)) = g d := by
  refine BitVec.eq_of_toNat_eq ?_
  rw [BitVec.toNat_ofNat, Nat.pow_mul, packed_digit (fun i _ => (g i).isLt) hd]

/-- The number that the log keeps of a format pair. -/
def pairKept : Option (Nat × Nat) → Nat
  | none => 0
  | some (a, w) => 1 + 2 * a + 64 * w

theorem Ctx.keyVal_pair (x : Ctx) : x.keyVal .pair = pairKept x.pair := rfl

theorem pairKept_restored {p : Option (Nat × Nat)} (hp : ∀ a w, p = some (a, w) → a < 32 ∧ w < 32) :
    pairKept (if pairKept p = 0 then none else some (pairKept p / 2 % 32, pairKept p / 64 % 32)) = pairKept p := by
  cases p with
  | none => rfl
  | some q =>
    obtain ⟨ha, hw⟩ := hp q.1 q.2 rfl
    rw [if_neg (by simp only [pairKept]; omega)]
    simp only [pairKept]
    omega

/-- Setting a register to the value that a key keeps of a context gives it that context's value (R279). -/
theorem Ctx.keyVal_setKey (x y : Ctx) (key : UKey) (hcr : ∀ num, key = .cr num → num ∈ undoCrs)
    (hpos : ∀ n, key = .s n ∨ key = .k n → 0 < n) (hq : ∀ n, key = .q n → 0 < n ∧ n < 8)
    (hpair : ∀ a w, x.pair = some (a, w) → a < 32 ∧ w < 32) : (y.setKey key (x.keyVal key)).keyVal key = x.keyVal key := by
  cases key with
  | s n =>
    show BitVec.toNat _ = BitVec.toNat _
    rw [Ctx.rs_setKey _ (hpos n (.inl rfl)), if_pos rfl]
    simp [Ctx.keyVal]
  | q n =>
    obtain ⟨h0, h8⟩ := hq n rfl
    show Bool.toNat _ = Bool.toNat _
    rw [Ctx.rq_setKey _ h0 h8, if_pos rfl]
    cases h : x.rq n <;> simp [Ctx.keyVal, h]
  | cr num =>
    have hnum := hcr num rfl
    simp only [undoCrs, List.mem_cons, List.not_mem_nil, or_false] at hnum
    obtain rfl | rfl | rfl | rfl | rfl | rfl := hnum <;> simp [Ctx.keyVal, Ctx.setKey, Ctx.setCr, Ctx.crNat]
  | v n =>
    rw [Ctx.keyVal_v, Ctx.keyVal_v]
    refine packed_congr fun d hd => congrArg BitVec.toNat ?_
    rw [Ctx.rv_setKey _ hd, if_pos rfl]
    exact ofNat_packed (x.rv n) hd
  | k n =>
    rw [Ctx.keyVal_k, Ctx.keyVal_k]
    refine packed_congr fun d hd => congrArg BitVec.toNat ?_
    rw [Ctx.rk_setKey _ (hpos n (.inr rfl)) hd, if_pos rfl]
    exact ofNat_packed (x.rk n) hd
  | pair =>
    rw [Ctx.keyVal_pair, Ctx.keyVal_pair, Ctx.pair_setKey, if_pos rfl, pairKept_restored hpair]
  | sel =>
    show Bool.toNat _ = Bool.toNat _
    rw [Ctx.sel_setKey, if_pos rfl]
    cases h : x.sel <;> simp [Ctx.keyVal, h]

/-! ### The undo log, entry by entry -/

/-- An entry that kept a value gives it back. -/
def Ctx.undoOne (x : Ctx) (e : UndoEntry) : Ctx :=
  match e.prior with
  | some v => x.setKey e.key v
  | none => x

theorem Ctx.undoAll_eq (x : Ctx) : x.undoAll = x.undo.foldl Ctx.undoOne x := rfl

/-- What a register reads after a rollback: the value of its entry, or its value now. -/
theorem Ctx.read_undoAll {β : Type} {g : Ctx → β} {key : UKey} {val : Nat → β}
    (hg : ∀ (y : Ctx) k v, g (y.setKey k v) = if k = key then val v else g y) (x : Ctx) (hn : (x.undo.map (·.key)).Nodup) :
    g x.undoAll = match x.undo.find? (fun e => e.key == key) with
      | some ⟨_, some v⟩ => val v
      | _ => g x := by
  rw [Ctx.undoAll_eq]
  generalize x.undo = es at hn ⊢
  induction es generalizing x with
  | nil => rfl
  | cons e es ih =>
    obtain ⟨k, prior⟩ := e
    rw [List.map_cons, List.nodup_cons] at hn
    rw [List.foldl_cons, ih _ hn.2]
    by_cases hk : k = key
    · subst hk
      have hnone : es.find? (fun e => e.key == k) = none := by
        rw [List.find?_eq_none]
        intro e he heq
        exact hn.1 (List.mem_map.mpr ⟨e, he, by simpa using heq⟩)
      rw [hnone, List.find?_cons_of_pos (by simp)]
      cases prior with
      | none => rfl
      | some v => exact (hg _ _ _).trans (if_pos rfl)
    · rw [List.find?_cons_of_neg (by simpa using hk)]
      have hx : g (x.undoOne ⟨k, prior⟩) = g x := by
        cases prior with
        | none => rfl
        | some v => exact (hg _ _ _).trans (if_neg hk)
      rw [hx]

/-- What no register write changes, a rollback of the log leaves. -/
theorem Ctx.undoAll_leaves {β : Type} {g : Ctx → β} (hg : ∀ (y : Ctx) k v, g (y.setKey k v) = g y) (x : Ctx) :
    g x.undoAll = g x :=
  foldl_keeps (f := Ctx.undoOne) (fun y e => by
    unfold Ctx.undoOne
    split
    · exact hg y e.key _
    · rfl) x.undo x

/-! ### The rows of the gate -/

theorem mread_writeMasked {m : Memory} (hw : Memory.wf m = true) (a n mask v b : Nat) : mread (writeMasked m a n mask v) b =
    if (a ≤ b ∧ b < a + n) ∧ mask.testBit (b - a) = true then byteOf v (b - a) else mread m b := by
  induction n generalizing m a mask v with
  | zero => simp [writeMasked]
  | succ n ih =>
    have hm : Memory.wf (if mask % 2 = 1 then mwrite m a (BitVec.ofNat 8 v) else m) = true := by
      split
      · exact wf_mwrite _ _ hw
      · exact hw
    rw [writeMasked, ih hm]
    by_cases hb : b = a
    · subst hb
      rw [if_neg (by omega)]
      by_cases h1 : mask % 2 = 1
      · simp [h1, mread_mwrite_self _ _ hw, byteOf]
      · simp [h1]
    · have hrest : mread (if mask % 2 = 1 then mwrite m a (BitVec.ofNat 8 v) else m) b = mread m b := by
        split
        · exact mread_mwrite_ne _ _ hb
        · rfl
      rw [hrest]
      by_cases hlt : a < b
      · obtain ⟨i, rfl⟩ := Nat.exists_eq_add_of_lt hlt
        have hbyte : byteOf (v / 256) i = byteOf v (i + 1) := by
          rw [byteOf, byteOf, Nat.div_div_eq_div_mul, Nat.mul_add, Nat.pow_add, Nat.mul_comm 256]
        rw [show a + i + 1 - (a + 1) = i by omega, show a + i + 1 - a = i + 1 by omega, hbyte, Nat.testBit_div_two]
        simp only [show (a + 1 ≤ a + i + 1 ∧ a + i + 1 < a + 1 + n) = (a ≤ a + i + 1 ∧ a + i + 1 < a + (n + 1)) by
          rw [eq_iff_iff]; omega]
      · rw [if_neg (by omega), if_neg (by omega)]

theorem wf_rowUndo {m : Memory} (r : GateRow) (h : Memory.wf m = true) : Memory.wf (rowUndo m r) = true :=
  wf_writeMasked _ _ _ _ h

theorem mread_rowUndo {m : Memory} (hw : Memory.wf m = true) (r : GateRow) (a : Nat) : mread (rowUndo m r) a =
    if r.row = a / 64 ∧ r.mask.testBit (a % 64) = true then byteOf r.prior (a % 64) else mread m a := by
  rw [rowUndo, mread_writeMasked hw]
  by_cases h : r.row = a / 64
  · have hi : a - 64 * r.row = a % 64 := by omega
    rw [hi]
    simp [h, show 64 * (a / 64) ≤ a ∧ a < 64 * (a / 64) + 64 by omega]
  · rw [if_neg (by omega), if_neg (by simp [h])]

/-- The bytes with rows of the gate undone, the oldest row last. -/
def rowsBack (m : Memory) (rows : List GateRow) : Memory := rows.foldr (fun r m => rowUndo m r) m

theorem rowsBack_cons (m : Memory) (r : GateRow) (rs : List GateRow) : rowsBack m (r :: rs) = rowUndo (rowsBack m rs) r := by
  rw [rowsBack, rowsBack, List.foldr_cons]

theorem rowsBack_eq (m : Memory) (rows : List GateRow) : rows.reverse.foldl rowUndo m = rowsBack m rows := List.foldl_reverse

theorem wf_rowsBack {m : Memory} (hw : Memory.wf m = true) (rows : List GateRow) : Memory.wf (rowsBack m rows) = true := by
  induction rows with
  | nil => exact hw
  | cons r rs ih =>
    rw [rowsBack_cons]
    exact wf_rowUndo r ih

/-- A byte after the rows of the gate are undone: what its row keeps of it, or what it is (R283). -/
theorem mread_rowsBack {rows : List GateRow} (hn : (rows.map (·.row)).Nodup) {m : Memory} (hw : Memory.wf m = true) (a : Nat) :
    mread (rowsBack m rows) a = match rows.find? (fun g => g.row == a / 64) with
      | some g => if g.mask.testBit (a % 64) then byteOf g.prior (a % 64) else mread m a
      | none => mread m a := by
  induction rows with
  | nil => rfl
  | cons r rs ih =>
    rw [List.map_cons, List.nodup_cons] at hn
    rw [rowsBack_cons, mread_rowUndo (wf_rowsBack hw rs), ih hn.2]
    by_cases hr : r.row = a / 64
    · have hnone : rs.find? (fun g => g.row == a / 64) = none := by
        rw [List.find?_eq_none]
        intro g hg heq
        exact hn.1 (List.mem_map.mpr ⟨g, hg, by simpa [hr] using heq⟩)
      rw [hnone, List.find?_cons_of_pos (by simpa using hr)]
      simp only [hr, true_and]
    · rw [List.find?_cons_of_neg (by simpa using hr), if_neg (fun h => hr h.1)]

/-! ### The context at its mark -/

section
variable (x : Ctx) (now : Nat)

theorem Ctx.setKey_leaves (key : UKey) (v : Nat) :
    ((x.setKey key v).markPc, (x.setKey key v).markPend, (x.setKey key v).markAnnul, (x.setKey key v).svcMode, (x.setKey key v).segtab) =
      (x.markPc, x.markPend, x.markAnnul, x.svcMode, x.segtab) := by
  cases key with
  | cr num =>
    simp only [Ctx.setKey, Ctx.setCr]
    split <;> rfl
  | _ => rfl

theorem Ctx.freshSegment_leaves : (x.freshSegment.pc, x.freshSegment.pend, x.freshSegment.annul, x.freshSegment.svcMode,
    x.freshSegment.segtab) = (x.pc, x.pend, x.annul, x.svcMode, x.segtab) := by
  unfold Ctx.freshSegment
  split <;> rfl

/-- A rollback goes on at the mark, in the mode and with the segments that it finds. -/
theorem Ctx.toMark_place : ((x.toMark now).pc, (x.toMark now).pend, (x.toMark now).annul, (x.toMark now).svcMode, (x.toMark now).segtab) =
    (x.markPc, x.markPend, x.markAnnul, x.svcMode, x.segtab) :=
  (Ctx.freshSegment_leaves _).trans
    (Ctx.undoAll_leaves (g := fun y => (y.markPc, y.markPend, y.markAnnul, y.svcMode, y.segtab)) Ctx.setKey_leaves x)

/-- A context with the registers that a rollback gives back, with an empty log and gate, and nothing left to roll back. -/
structure Ctx.Restored (y x : Ctx) : Prop where
  rs : y.rs = x.undoAll.rs
  rq : y.rq = x.undoAll.rq
  rv : y.rv = x.undoAll.rv
  rk : y.rk = x.undoAll.rk
  crNat : y.crNat = x.undoAll.crNat
  pair : y.pair = x.undoAll.pair
  sel : y.sel = x.undoAll.sel
  held : y.held = []
  undo : y.undo = []
  rows : y.rows = []
  rollback : y.rollback = none

theorem Ctx.Restored.freshSegment {x y : Ctx} (h : y.Restored x) : y.freshSegment.Restored x := by
  obtain ⟨h1, h2, h3, h4, h5, h6, h7, h8, h9, h10, h11⟩ := h
  unfold Ctx.freshSegment
  split <;> exact ⟨h1, h2, h3, h4, h5, h6, h7, h8, h9, h10, h11⟩

theorem Ctx.toMark_restored : (x.toMark now).Restored x := by
  refine Ctx.Restored.freshSegment ⟨rfl, rfl, rfl, rfl, rfl, rfl, rfl, ?_, rfl, rfl, rfl⟩
  simp [Ctx.held, List.filter_map, Function.comp_def, List.filter_filter]

theorem Ctx.Restored.enterService {x y : Ctx} (h : y.Restored x) (now cause ea es : Nat) (epc : PAddr) :
    (y.enterService now cause ea es epc).Restored x :=
  ⟨h.rs, h.rq, h.rv, h.rk, h.crNat, h.pair, h.sel, h.held, h.undo, h.rows, h.rollback⟩

end

/-! ### The step -/

section
variable {s : State} {c : Nat} {r : RollbackReq} (hr : (s.ctx c).rollback = some r) (hl : (s.ctx c).isLive = true)
  (hq : (s.ctx c).quiet = true)
include hr hl hq

theorem exec_rollback_hazard (hz : (s.ctx c).hazard = true) : exec (.rollback c) s =
    .next ((s.setCtx c { s.ctx c with rollback := none }).deliver c (r.code + 2048) r.eaddr r.eslot r.pc) := by
  show execRollback c s = _
  simp [execRollback, hr, hl, hq, hz]

/-- A rollback without a hazard, before it is delivered or goes on. -/
def State.rolledBack (s : State) (c : Nat) : State := (s.undoRows c).setCtx c ((s.ctx c).toMark s.cycle)

theorem exec_rollback (hz : (s.ctx c).hazard = false) : exec (.rollback c) s =
    .next (if (s.ctx c).svcv then (s.rolledBack c).deliver c (r.code + 1024) r.eaddr r.eslot ((s.ctx c).toMark s.cycle).pc
      else if r.code = 0x185 then (s.rolledBack c).failTask c 1 0x185 ((s.ctx c).toMark s.cycle).pc.toNat r.eaddr
      else if r.code = 0x183 then (s.rolledBack c).setCtx c { (s.ctx c).toMark s.cycle with wait := .transit r.eaddr }
      else s.rolledBack c) := by
  have hcycle : (s.undoRows c).cycle = s.cycle := rfl
  show execRollback c s = _
  simp [execRollback, State.rolledBack, hr, hl, hq, hz, hcycle]

end

end Sys2Proof.Machine

namespace Sys2Proof

open Machine

/-- Settles O28: an entry of the log gives its register the value that the key keeps, and touches no other; the rows of the gate give
their bytes back; the context goes on at its mark, in service code where SVCV is set. -/
theorem rollbackRestores : Obligations.RollbackRestores := by
  intro s c r x hr hl hq hcode hm
  have hc (n : Nat) (hn : n = 1024 ∨ n = 2048) : (BitVec.ofNat 12 (r.code + n)).toNat = r.code + n := by
    rw [BitVec.toNat_ofNat]
    obtain h | h | h := hcode <;> rcases hn with rfl | rfl <;> simp [h]
  refine ⟨fun key y hcr hpos hq hpair => x.keyVal_setKey y key hcr hpos hq hpair, fun hz hv => ?_, fun hz hu hrows hw hgo => ?_⟩
  · refine ⟨_, (exec_rollback_hazard hr hl hq hz).trans (congrArg Host.Outcome.next (State.deliver_enters ?_ ?_ _ _ _ _)), ?_⟩
    · rw [State.ctx_setCtx]
      exact hv
    · rw [State.ctx_setCtx]
      exact hm
    · simp only [State.ctx_setCtx, State.setCtx_setCtx]
      exact ⟨trivial, hc _ (.inr rfl), rfl, rfl, rfl, rfl⟩
  · have hplace := x.toMark_place s.cycle
    simp only [Prod.mk.injEq] at hplace
    obtain ⟨hpc, hpend, hannul, hmode, hseg⟩ := hplace
    have hctx : (s.rolledBack c).ctx c = x.toMark s.cycle := State.ctx_setCtx _ _ _
    have hback : ∃ y, exec (.rollback c) s = .next ((s.undoRows c).setCtx c y) ∧ y.Restored x ∧
        (x.svcv = true → y.svcMode = true ∧ y.ecause.toNat = r.code + 1024 ∧ y.eaddr = BitVec.ofNat 64 r.eaddr ∧
          y.epc = x.markPc ∧ y.etgt = etgtOf x.markPend ∧ y.edly = edlyOf x.markPend x.markAnnul ∧ y.pc = x.svcAddr) ∧
        (x.svcv = false → y.pc = x.markPc ∧ y.pend = x.markPend ∧ y.annul = x.markAnnul ∧ y.svcMode = false ∧
          (r.code = 0x183 → y.wait = .transit r.eaddr)) := by
      rw [exec_rollback hr hl hq hz]
      cases hv : x.svcv with
      | true =>
        refine ⟨(x.toMark s.cycle).enterService s.cycle (r.code + 1024) r.eaddr r.eslot (x.toMark s.cycle).pc, ?_,
          (x.toMark_restored _).enterService _ _ _ _ _, fun _ => ?_, nofun⟩
        · rw [if_pos rfl, State.deliver_enters]
          · rw [hctx]
            exact congrArg Host.Outcome.next (State.setCtx_setCtx _ _ _ _)
          · rw [hctx]
            exact (congrArg (BitVec.getLsbD · 0) hseg).trans hv
          · rw [hctx]
            exact hmode.trans hm
        · exact ⟨rfl, hc _ (.inl rfl), rfl, hpc, congrArg etgtOf hpend, congrArg₂ edlyOf hpend hannul,
            congrArg (fun g : BitVec 49 => BitVec.ofNat 32 (bits g.toNat 2 30 * 4)) hseg⟩
      | false =>
        have hn : r.code ≠ 0x185 := by
          rw [hv] at hgo
          obtain h | h | h := hgo <;> simp_all
        rw [if_neg Bool.false_ne_true, if_neg hn]
        by_cases h3 : r.code = 0x183
        · refine ⟨{ x.toMark s.cycle with wait := .transit r.eaddr }, ?_, ?_, nofun, fun _ => ?_⟩
          · rw [if_pos h3]
            exact congrArg Host.Outcome.next (State.setCtx_setCtx _ _ _ _)
          · obtain ⟨h1, h2, h3, h4, h5, h6, h7, h8, h9, h10, h11⟩ := x.toMark_restored s.cycle
            exact ⟨h1, h2, h3, h4, h5, h6, h7, h8, h9, h10, h11⟩
          · exact ⟨hpc, hpend, hannul, hmode.trans hm, fun _ => rfl⟩
        · refine ⟨x.toMark s.cycle, ?_, x.toMark_restored _, nofun, fun _ => ?_⟩
          · rw [if_neg h3]
            rfl
          · exact ⟨hpc, hpend, hannul, hmode.trans hm, fun h => absurd h h3⟩
    obtain ⟨y, hexec, hy, hsvc, hgoes⟩ := hback
    refine ⟨_, hexec, ?_⟩
    rw [State.ctx_setCtx]
    refine ⟨fun n hn => ?_, fun n hn h8 => ?_, fun n d hd => ?_, fun n d hn hd => ?_, fun num w hnum => ?_, ?_, ?_, fun a => ?_,
      hy.held, hy.undo, hy.rows, hy.rollback, hsvc, hgoes⟩
    · exact (congrFun hy.rs n).trans
        (Ctx.read_undoAll (g := fun y => y.rs n) (val := BitVec.ofNat 64) (fun y k v => y.rs_setKey hn k v) x hu)
    · exact (congrFun hy.rq n).trans
        (Ctx.read_undoAll (g := fun y => y.rq n) (val := (· == 1)) (fun y k v => y.rq_setKey hn h8 k v) x hu)
    · exact (congrFun (congrFun hy.rv n) d).trans (Ctx.read_undoAll (g := fun y => y.rv n d)
        (val := fun v => BitVec.ofNat 2048 (v / 2 ^ (2048 * d))) (fun y k v => y.rv_setKey hd k v) x hu)
    · exact (congrFun (congrFun hy.rk n) d).trans (Ctx.read_undoAll (g := fun y => y.rk n d)
        (val := fun v => BitVec.ofNat 256 (v / 2 ^ (256 * d))) (fun y k v => y.rk_setKey hn hd k v) x hu)
    · exact (congrFun hy.crNat num).trans
        (Ctx.read_undoAll (g := fun y => y.crNat num) (val := (· % 2 ^ w)) (fun y k v => y.crNat_setKey hnum k v) x hu)
    · exact hy.pair.trans (Ctx.read_undoAll (g := Ctx.pair)
        (val := fun v => if v = 0 then none else some (v / 2 % 32, v / 64 % 32)) (fun y k v => y.pair_setKey k v) x hu)
    · exact hy.sel.trans (Ctx.read_undoAll (g := Ctx.sel) (val := (· == 1)) (fun y k v => y.sel_setKey k v) x hu)
    · have htile : ((s.undoRows c).setCtx c y).tile (tileOf c) = (s.undoRows c).tile (tileOf c) := rfl
      rw [htile, State.undoRows, State.tile_setTile]
      simp only [rowsBack_eq]
      exact mread_rowsBack hrows hw a

end Sys2Proof

/-! SUPPORT. A word that finds no undo entry (R279): it raises the fault of its kind of register, and what follows leaves the registers, the
fault and the entries of that kind as they are. -/

namespace Sys2Proof.Machine

/-! ### What an entry that is not there leaves -/

/-- The registers of a context. -/
def Ctx.regs (x : Ctx) : (AMap Word × BitVec 8) × AMap (BitVec 2048) × AMap (BitVec 256) × BitVec 5 := ((x.s, x.q), x.v, x.k, x.vstat)

/-- The entries of one kind in the log of a context. -/
def Ctx.logOf (x : Ctx) (vector : Bool) : List UndoEntry := x.undo.filter (fun e => e.key.vector == vector)

section
variable (s : State)

@[simp] theorem State.regs_pend (lat : Nat) (d : Dst) (mask val : Nat) : (s.pend lat d mask val).cx.regs = s.cx.regs := by
  rw [State.setCtx_ctx_pend, State.cx_setCx]
  rfl

@[simp] theorem State.undo_pend (lat : Nat) (d : Dst) (mask val : Nat) : (s.pend lat d mask val).cx.undo = s.cx.undo := by
  rw [State.setCtx_ctx_pend, State.cx_setCx]

@[simp] theorem State.issue_pend (lat : Nat) (d : Dst) (mask val : Nat) : (s.pend lat d mask val).issue = s.issue := rfl

@[simp] theorem State.cx_raises (code ea : Nat) : (s.raises code ea).cx = s.cx := rfl

@[simp] theorem State.cx_raise (code ea : Nat) : (s.raise code ea).cx = s.cx := by
  unfold State.raise
  split <;> rfl

@[simp] theorem State.regs_needUndo (key : UKey) : (s.needUndo key).cx.regs = s.cx.regs := by
  cases h : s.cx.undoFits key with
  | true =>
    rw [State.needUndo_eq h]
    split
    · rfl
    · rw [State.cx_setCx, Ctx.logged]
      split <;> rfl
  | false => rw [State.needUndo_full h, State.cx_raise]

/-- An entry is of one kind. -/
theorem State.logOf_needUndo {key : UKey} {b : Bool} (hb : key.vector ≠ b) : (s.needUndo key).cx.logOf b = s.cx.logOf b := by
  cases h : s.cx.undoFits key with
  | true =>
    rw [State.needUndo_eq h]
    split
    · rfl
    · next hk =>
      rw [State.cx_setCx, Ctx.logged_new hk]
      simp [Ctx.logOf, hb]
  | false => rw [State.needUndo_full h, State.cx_raise]

@[simp] theorem State.regs_writeFlags (lat : Nat) (f : Flags) : (s.writeFlags lat f).cx.regs = s.cx.regs := by
  unfold State.writeFlags
  split <;> simp

@[simp] theorem State.regs_writeS (lat : Nat) (r : SReg) (v : Word) : (s.writeS lat r v).cx.regs = s.cx.regs := by
  unfold State.writeS
  split <;> simp

@[simp] theorem State.regs_writeV (lat : Nat) (r : VReg) (c mask v : Nat) : (s.writeV lat r c mask v).cx.regs = s.cx.regs :=
  s.regs_pend _ _ _ _

theorem State.logOf_pend (lat : Nat) (d : Dst) (mask val : Nat) (b : Bool) : (s.pend lat d mask val).cx.logOf b = s.cx.logOf b := by
  simp [Ctx.logOf]

theorem State.logOf_writeFlags (lat : Nat) (f : Flags) : (s.writeFlags lat f).cx.logOf true = s.cx.logOf true := by
  unfold State.writeFlags
  split
  · rfl
  · rw [State.logOf_pend, State.logOf_needUndo]
    exact Bool.false_ne_true

theorem State.logOf_writeS (lat : Nat) (r : SReg) (v : Word) : (s.writeS lat r v).cx.logOf true = s.cx.logOf true := by
  unfold State.writeS
  split
  · rfl
  · rw [State.logOf_pend, State.logOf_needUndo]
    exact Bool.false_ne_true

end

section
variable {s : State} {r : Raise} (h : s.issue.raised = some r)
include h

/-- The first fault stands. -/
theorem State.raise_of_raised (code ea : Nat) : s.raise code ea = s := by simp [State.raise, h]

theorem State.raised_needUndo (key : UKey) : (s.needUndo key).issue.raised = some r := by
  cases hk : s.cx.undoFits key with
  | true =>
    rw [State.needUndo_eq hk]
    split <;> exact h
  | false =>
    rw [State.needUndo_full hk, State.raise_of_raised h]
    exact h

theorem State.raised_writeFlags (lat : Nat) (f : Flags) : (s.writeFlags lat f).issue.raised = some r := by
  unfold State.writeFlags
  split
  · exact h
  · exact State.raised_needUndo h _

theorem State.raised_writeS (lat : Nat) (d : SReg) (v : Word) : (s.writeS lat d v).issue.raised = some r := by
  unfold State.writeS
  split
  · exact h
  · exact State.raised_needUndo h _

end

/-! ### A word that traps for want of an entry -/

/-- A state with a fault of the word in hand, in which the registers and the entries of the fault's kind are those of another. -/
structure State.TrapsFull (s : State) (code : Nat) (t : State) : Prop where
  raised : t.issue.raised = some ⟨code, 0, s.issue.slot.num, false⟩
  regs : t.cx.regs = s.cx.regs
  vector : t.cx.logOf true = s.cx.logOf true
  scalar : code = 0x105 → t.cx.logOf false = s.cx.logOf false

section
variable {s t : State} {code : Nat}

theorem State.TrapsFull.pend (h : s.TrapsFull code t) (lat : Nat) (d : Dst) (mask val : Nat) :
    s.TrapsFull code (t.pend lat d mask val) :=
  ⟨h.raised, (t.regs_pend ..).trans h.regs, (t.logOf_pend ..).trans h.vector, fun hc => (t.logOf_pend ..).trans (h.scalar hc)⟩

/-- The bundle goes on with its address. -/
theorem State.TrapsFull.advance (h : s.TrapsFull code t) (taken : Option PAddr) (annuls : Bool) :
    s.TrapsFull code (t.advance taken annuls) := by
  have hleaves : ∀ x : Ctx, x.regs = t.cx.regs ∧ x.undo = t.cx.undo →
      (x.advance t.issue.pc t.issue.len taken annuls).regs = t.cx.regs ∧
        (x.advance t.issue.pc t.issue.len taken annuls).undo = t.cx.undo := fun x hx => by
    unfold Ctx.advance Ctx.nextAddr
    simp only
    split <;> exact hx
  obtain ⟨hregs, hundo⟩ := hleaves t.cx ⟨rfl, rfl⟩
  have hcx : (t.advance taken annuls).cx = t.cx.advance t.issue.pc t.issue.len taken annuls := t.cx_turned _
  have hlog (b : Bool) : (t.advance taken annuls).cx.logOf b = t.cx.logOf b := by rw [hcx, Ctx.logOf, hundo, Ctx.logOf]
  exact ⟨h.raised, (congrArg Ctx.regs hcx).trans (hregs.trans h.regs), (hlog _).trans h.vector,
    fun hc => (hlog _).trans (h.scalar hc)⟩

/-- A register write of a vector word after its fault: the entry of a scalar register or of VSTAT is asked for, and changes neither. -/
theorem State.TrapsFull.writeS (h : s.TrapsFull 0x106 t) (lat : Nat) (d : SReg) (v : Word) : s.TrapsFull 0x106 (t.writeS lat d v) :=
  ⟨State.raised_writeS h.raised .., (t.regs_writeS ..).trans h.regs, (t.logOf_writeS ..).trans h.vector, nofun⟩

theorem State.TrapsFull.writeFlags (h : s.TrapsFull 0x106 t) (lat : Nat) (f : Flags) : s.TrapsFull 0x106 (t.writeFlags lat f) :=
  ⟨State.raised_writeFlags h.raised .., (t.regs_writeFlags ..).trans h.regs, (t.logOf_writeFlags ..).trans h.vector, nofun⟩

theorem State.TrapsFull.foldl {α : Type} {f : State → α → State} (hf : ∀ u a, s.TrapsFull code u → s.TrapsFull code (f u a))
    (h : s.TrapsFull code t) (as : List α) : s.TrapsFull code (as.foldl f t) :=
  List.foldlRecOn as f h fun u hu a _ => hf u a hu

/-- No entry left for a key: the fault of its kind of register. -/
theorem State.trapsFull_needUndo (hr : s.issue.raised = none) {key : UKey} (h : s.cx.undoFits key = false) :
    s.TrapsFull (if key.vector then 0x106 else 0x105) (s.needUndo key) := by
  rw [State.needUndo_full h, State.raise_eq hr]
  exact ⟨rfl, rfl, rfl, fun _ => rfl⟩

theorem State.trapsFull_scalar (hr : s.issue.raised = none) {key : UKey} (hk : key.vector = false) (h : s.cx.undoFits key = false) :
    s.TrapsFull 0x105 (s.needUndo key) := by
  have := State.trapsFull_needUndo hr h
  rwa [hk, if_neg Bool.false_ne_true] at this

theorem State.trapsFull_vector (hr : s.issue.raised = none) {key : UKey} (hk : key.vector = true) (h : s.cx.undoFits key = false) :
    s.TrapsFull 0x106 (s.needUndo key) := by
  have := State.trapsFull_needUndo hr h
  rwa [hk, if_pos rfl] at this

theorem State.trapsFull_writeS (hr : s.issue.raised = none) {d : SReg} (h : s.scalarFits d = false) (lat : Nat) (v : Word) :
    s.TrapsFull 0x105 (s.writeS lat d v) := by
  obtain ⟨hd, hu⟩ := Bool.or_eq_false_iff.mp h
  rw [State.writeS, if_neg (by simpa using hd)]
  exact (State.trapsFull_scalar hr rfl hu).pend ..

theorem State.trapsFull_writeQ (hr : s.issue.raised = none) {d : QReg} (h : s.qFits d = false) (lat : Nat) (b : Bool) :
    s.TrapsFull 0x105 (s.writeQ lat d b) := by
  obtain ⟨hd, hu⟩ := Bool.or_eq_false_iff.mp h
  rw [State.writeQ, if_neg (by simpa using hd)]
  exact (State.trapsFull_scalar hr rfl hu).pend ..

theorem State.trapsFull_writeImage (h : s.TrapsFull 0x106 t) (lat : Nat) (d : VReg) (c : Nat) (im : Image) :
    s.TrapsFull 0x106 (t.writeImage lat d c im) := by
  refine State.TrapsFull.writeFlags ?_ lat im.flags
  split
  · exact h
  · exact h.pend ..

theorem State.clusters_of_not_vecFits {d : VReg} (h : s.vecFits d = false) : s.clusters ≠ [] ∧ s.cx.undoFits (.v d.val) = false := by
  obtain ⟨hc, hu⟩ := Bool.or_eq_false_iff.mp h
  exact ⟨by simpa using hc, hu⟩

theorem State.trapsFull_vecImages (hr : s.issue.raised = none) {d : VReg} (h : s.vecFits d = false) (lat : Nat) (img : Nat → Image) :
    s.TrapsFull 0x106 (s.vecImages lat d img) := by
  obtain ⟨hc, hu⟩ := State.clusters_of_not_vecFits h
  unfold State.vecImages
  split
  · contradiction
  · exact (State.trapsFull_vector hr rfl hu).foldl (fun u c hu => State.trapsFull_writeImage hu lat d c (img c)) _

theorem State.clusters_of_not_maskFits {d : KReg} (h : s.maskFits d = false) :
    d.val ≠ 0 ∧ s.clusters ≠ [] ∧ s.cx.undoFits (.k d.val) = false := by
  obtain ⟨hdc, hu⟩ := Bool.or_eq_false_iff.mp h
  obtain ⟨hd, hc⟩ := Bool.or_eq_false_iff.mp hdc
  exact ⟨by simpa using hd, by simpa using hc, hu⟩

theorem State.TrapsFull.writeK (h : s.TrapsFull code t) (lat : Nat) (d : KReg) (c mask v : Nat) :
    s.TrapsFull code (t.writeK lat d c mask v) := by
  unfold State.writeK
  split
  · exact h
  · exact h.pend ..

theorem State.trapsFull_maskLoop (hr : s.issue.raised = none) {d : KReg} (h : s.maskFits d = false) (lat : Nat) (t : ETy) (k : KSel)
    (f : Nat → Nat → Bool × Flags) : s.TrapsFull 0x106 (s.maskLoop lat d t k f) := by
  obtain ⟨hd, hc, hu⟩ := State.clusters_of_not_maskFits h
  unfold State.maskLoop
  split
  · contradiction
  · simp only [if_neg hd]
    exact (State.trapsFull_vector hr rfl hu).foldl (fun u c hu => (hu.writeK ..).writeFlags ..) _

theorem State.trapsFull_maskWord (hr : s.issue.raised = none) {d : KReg} (h : s.maskFits d = false) (f : Nat → Nat) :
    s.TrapsFull 0x106 (s.maskWord d f) := by
  obtain ⟨hd, hc, hu⟩ := State.clusters_of_not_maskFits h
  unfold State.maskWord
  split
  · contradiction
  · simp only [if_neg hd]
    exact (State.trapsFull_vector hr rfl hu).foldl (fun u c hu => hu.writeK ..) _

/-- A fault against a state with the same registers and log. -/
theorem State.TrapsFull.of_same {u : State} (h : u.TrapsFull code t) (hslot : u.issue.slot = s.issue.slot) (hregs : u.cx.regs = s.cx.regs)
    (hundo : u.cx.undo = s.cx.undo) : s.TrapsFull code t :=
  have hlog (b : Bool) : u.cx.logOf b = s.cx.logOf b := by rw [Ctx.logOf, hundo, Ctx.logOf]
  ⟨by rw [h.raised, hslot], h.regs.trans hregs, h.vector.trans (hlog _), fun hc => (h.scalar hc).trans (hlog _)⟩

end

/-! ### Flags without an entry of VSTAT -/

/-- No write of flags is in flight. -/
def State.flagless (s : State) : Prop := ∀ w ∈ s.cx.inFlight, w.dst ≠ .flags

theorem State.flagless_pend {s : State} (h : s.flagless) (lat : Nat) {d : Dst} (hd : d ≠ .flags) (mask val : Nat) :
    (s.pend lat d mask val).flagless := by
  intro w hw
  rw [State.setCtx_ctx_pend, State.cx_setCx] at hw
  simp only [List.mem_append, List.mem_singleton] at hw
  rcases hw with hw | rfl
  · exact h w hw
  · exact hd

theorem State.flagless_needUndo {s : State} (h : s.flagless) (key : UKey) : (s.needUndo key).flagless := by
  have hf : (s.needUndo key).cx.inFlight = s.cx.inFlight := by
    cases hk : s.cx.undoFits key with
    | true =>
      rw [State.needUndo_eq hk]
      split
      · rfl
      · rw [State.cx_setCx, Ctx.logged_inFlight]
    | false => rw [State.needUndo_full hk, State.cx_raise]
  intro w hw
  exact h w (hf ▸ hw)

section
variable {α : Type} {put : State → α → State} {fl : α → Flags} {lat : Nat}

/-- A loop whose turns write a register and set some flags writes no flags where every turn sets none. -/
theorem State.flagless_loop (hput : ∀ s a, s.flagless → (put s a).flagless) {as : List α} (hfl : ∀ a ∈ as, fl a = 0#5)
    {s : State} (h : s.flagless) : (as.foldl (fun s a => (put s a).writeFlags lat (fl a)) s).flagless :=
  List.foldlRecOn as _ h fun s hs a ha => by
    rw [State.writeFlags, if_pos (hfl a ha)]
    exact hput s a hs

/-- Where VSTAT has no entry, a loop that sets a flag raises 0x105. -/
theorem State.loop_traps {n : Nat} (hput : ∀ s a, (put s a).cx.undo = s.cx.undo ∧ (put s a).issue = s.issue) (as : List α) :
    ∀ {s : State}, s.cx.undoFits (.cr 0x024) = false → s.issue.slot.num = n →
      s.issue.raised = some ⟨0x105, 0, n, false⟩ ∨ s.issue.raised = none ∧ (∃ a ∈ as, fl a ≠ 0#5) →
      (as.foldl (fun s a => (put s a).writeFlags lat (fl a)) s).issue.raised = some ⟨0x105, 0, n, false⟩ := by
  induction as with
  | nil =>
    rintro s - - (h | ⟨-, a, ha, -⟩)
    · exact h
    · simp at ha
  | cons a as ih =>
    intro s hfull hslot hcase
    obtain ⟨hundo, hissue⟩ := hput s a
    have hfull' : (put s a).cx.undoFits (.cr 0x024) = false := by simpa [Ctx.undoFits, hundo] using hfull
    rw [List.foldl_cons]
    by_cases hz : fl a = 0#5
    · rw [State.writeFlags, if_pos hz]
      refine ih hfull' (by rw [hissue, hslot]) ?_
      rw [hissue]
      rcases hcase with h | ⟨h, b, hb, hbz⟩
      · exact .inl h
      · rcases List.mem_cons.mp hb with rfl | hb
        · exact absurd hz hbz
        · exact .inr ⟨h, b, hb, hbz⟩
    · have hrise : ((put s a).writeFlags lat (fl a)).issue.raised = some ⟨0x105, 0, n, false⟩ ∧
          ((put s a).writeFlags lat (fl a)).issue.slot.num = n := by
        rw [State.writeFlags, if_neg hz, State.needUndo_full hfull', State.issue_pend]
        rcases hcase with h | ⟨h, -⟩
        · rw [State.raise_of_raised (hissue ▸ h), hissue]
          exact ⟨h, hslot⟩
        · rw [State.raise_eq (hissue ▸ h)]
          simp [State.raises, hissue, hslot, UKey.vector]
      refine ih ?_ hrise.2 (.inl hrise.1)
      rw [State.writeFlags, if_neg hz, State.needUndo_full hfull']
      simpa [Ctx.undoFits] using hfull'

end

end Sys2Proof.Machine

/-! SUPPORT. Vector words by what they compute of the registers: the trap of a full log, and of flags that find no entry of VSTAT
(R279). -/

namespace Sys2Proof.Machine

/-! ### The state with an empty log -/

/-- The state with an empty log and nothing in flight. -/
def State.emptied (s : State) : State := s.setCx { s.cx with undo := [], inFlight := [] }

section
variable (s : State)

theorem State.emptied_cx : s.emptied.cx = { s.cx with undo := [], inFlight := [] } := State.cx_setCx s _

@[simp] theorem State.emptied_rs : s.emptied.rs = s.rs :=
  funext fun r => (congrArg (fun x : Ctx => x.rs r.val) s.emptied_cx).trans rfl

@[simp] theorem State.emptied_rv : s.emptied.rv = s.rv :=
  funext fun r => funext fun c => (congrArg (fun x : Ctx => (x.rv r.val c).toNat) s.emptied_cx).trans rfl

@[simp] theorem State.emptied_rk : s.emptied.rk = s.rk :=
  funext fun n => funext fun c => (congrArg (fun x : Ctx => (x.rk n c).toNat) s.emptied_cx).trans rfl

@[simp] theorem State.emptied_issue : s.emptied.issue = s.issue := rfl
@[simp] theorem State.emptied_clusters : s.emptied.clusters = s.clusters := rfl

@[simp] theorem State.emptied_draw : s.emptied.draw = s.draw :=
  funext fun n => funext fun e =>
    (congrArg (fun x : Ctx => srbits x.srseed.toNat s.issue.pc.toNat n e x.loopc0.toNat) s.emptied_cx).trans rfl

theorem State.emptied_flagless : s.emptied.flagless := by
  intro w hw
  rw [State.emptied_cx] at hw
  simp at hw

end

/-! ### Vector words -/

/-- A word that writes a vector register with images of the registers, which neither the log nor the writes in flight enter. -/
def WritesImages (i : Instr) (d : VReg) : Prop :=
  ∃ (lat : Nat) (img : State → Nat → Image), (∀ s, exec i s = .next (s.vecImages lat d (img s))) ∧ ∀ s, img s.emptied = img s

section
variable {i : Instr} {d a b : VReg} {t t' : ETy} {k : KSel} {lat : Nat}

theorem writesImages_loop {f : State → Nat → Nat → Nat × Flags} (hi : ∀ s, exec i s = .next (s.vecLoop lat d t k (f s)))
    (hf : ∀ s, f s.emptied = f s) : WritesImages i d :=
  ⟨lat, fun s c => imageOf (eltCount t) t.cw (active (s.rk k.val c) t.cw) (f s c), hi, fun s => by simp only [hf, State.emptied_rk]⟩

theorem writesImages_arith2 {lf li : Nat} {gf : XVal → XVal → XVal × Flags} {gi : Int → Int → Int}
    (hi : ∀ s, exec i s = .next (s.arith2 d a b t k lf li gf gi)) : WritesImages i d :=
  writesImages_loop hi fun s => by simp only [State.emptied_rv]

theorem writesImages_arith1 {gf : XVal → XVal} {gi : Int → Int} (hi : ∀ s, exec i s = .next (s.arith1 d a t k gf gi)) :
    WritesImages i d :=
  writesImages_loop hi fun s => by simp only [State.emptied_rv]

theorem writesImages_logic2 {g : Nat → Nat → Nat} (hi : ∀ s, exec i s = .next (s.logic2 d a b t k g)) : WritesImages i d :=
  writesImages_loop hi fun s => by simp only [State.emptied_rv]

theorem writesImages_pure {f : State → Nat → Nat → Nat} (hi : ∀ s, exec i s = .next (s.vecPure lat d t k (f s)))
    (hf : ∀ s, f s.emptied = f s) : WritesImages i d :=
  writesImages_loop hi fun s => by simp only [hf]

theorem writesImages_special {op : Nat} (hi : ∀ s, exec i s = .next (s.special op d a t k)) : WritesImages i d :=
  writesImages_loop hi fun s => by simp only [State.emptied_rv]

end

section
variable (d a b : VReg) (r : SReg) (n : Fin 8) (op : RedOp) (m : RMode) (iov : Bool) (kind aty : Fin 4) (ts t : ETy) (k : KSel)

/-- R428 to R432: sums, products, extremes, bits and shifts. -/
theorem arithmeticWords_writeImages :
    ∀ i ∈ [Instr.vadd d a b t k, .vsub d a b t k, .vmul d a b t k, .vmin d a b t k, .vmax d a b t k, .vabs d a t k,
        .vneg d a t k, .vand d a b t k, .vor d a b t k, .vxor d a b t k, .vshl d a b t k, .vshr d a b t k, .vsra d a b t k],
      WritesImages i d := by
  simp only [List.forall_mem_cons, List.not_mem_nil, IsEmpty.forall_iff, implies_true, and_true]
  exact ⟨writesImages_arith2 fun s => rfl, writesImages_arith2 fun s => rfl, writesImages_arith2 fun s => rfl,
    writesImages_arith2 fun s => rfl, writesImages_arith2 fun s => rfl, writesImages_arith1 fun s => rfl,
    writesImages_arith1 fun s => rfl, writesImages_logic2 fun s => rfl, writesImages_logic2 fun s => rfl,
    writesImages_logic2 fun s => rfl, writesImages_logic2 fun s => rfl, writesImages_logic2 fun s => rfl,
    writesImages_logic2 fun s => rfl⟩

/-- R454, R455, R458, R459, R433. -/
theorem movingWords_writeImages :
    ∀ i ∈ [Instr.vmov d a t k, .vsplat d r t k, .vperm d a b t k, .vxch d a n t k, .vsel d a b t k, .vclamp d a b t k],
      WritesImages i d := by
  simp only [List.forall_mem_cons, List.not_mem_nil, IsEmpty.forall_iff, implies_true, and_true]
  exact ⟨writesImages_pure (fun s => by rfl) fun s => by simp only [State.emptied_rv],
    writesImages_pure (fun s => by rfl) fun s => by simp only [State.emptied_rs],
    writesImages_pure (fun s => by rfl) fun s => by simp only [State.emptied_rv],
    writesImages_pure (fun s => by rfl) fun s => by simp only [State.emptied_rv],
    ⟨2, _, fun s => by rfl, fun s => by simp only [State.emptied_rv, State.emptied_rk]⟩,
    writesImages_loop (fun s => by rfl) fun s => by simp only [State.emptied_rv]⟩

theorem State.quantImage_emptied (s : State) (m : RMode) (a : VReg) (kind aty : Nat) (t : ETy) (k : KSel) :
    s.emptied.quantImage m a kind aty t k = s.quantImage m a kind aty t k := by
  funext c
  simp only [State.quantImage, State.emptied_rv, State.emptied_rk, State.emptied_draw]

/-- R438 to R445, R456, R457: fused products, reductions, conversions and blocks. -/
theorem reducingWords_writeImages :
    ∀ i ∈ [Instr.vfma d a b t k, .vdot d a b t k, .vred d a op t k, .vscan d a op t k, .vcvt m d a iov ts t k,
        .vqnt m d a kind aty t k, .vdqnt d a kind ts t k], WritesImages i d := by
  simp only [List.forall_mem_cons, List.not_mem_nil, IsEmpty.forall_iff, implies_true, and_true]
  exact ⟨writesImages_loop (fun s => by rfl) fun s => by simp only [State.emptied_rv],
    writesImages_loop (fun s => by rfl) fun s => by simp only [State.emptied_rv],
    ⟨7, _, fun s => by rfl, fun s => by simp only [State.emptied_rv, State.emptied_rk, State.emptied_issue]⟩,
    ⟨7, _, fun s => by rfl, fun s => by simp only [State.emptied_rv, State.emptied_rk, State.emptied_issue]⟩,
    ⟨3, _, fun s => by rfl, fun s => by simp only [State.emptied_rv, State.emptied_rk, State.emptied_draw]⟩,
    ⟨6, fun s => s.quantImage m a kind.val aty.val t k, fun s => by rfl, fun s => s.quantImage_emptied ..⟩,
    ⟨6, _, fun s => by rfl, fun s => by simp only [State.emptied_rv, State.emptied_rk]⟩⟩

/-- R371. -/
theorem specialWords_writeImages :
    ∀ i ∈ [Instr.fexp2 d a t k, .flog2 d a t k, .frcp d a t k, .frsq d a t k, .ftanh d a t k, .fsig d a t k, .fsin d a t k,
        .fcos d a t k], WritesImages i d := by
  simp only [List.forall_mem_cons, List.not_mem_nil, IsEmpty.forall_iff, implies_true, and_true]
  exact ⟨writesImages_special fun s => rfl, writesImages_special fun s => rfl, writesImages_special fun s => rfl,
    writesImages_special fun s => rfl, writesImages_special fun s => rfl, writesImages_special fun s => rfl,
    writesImages_special fun s => rfl, writesImages_special fun s => rfl⟩

/-- R428 to R432, R438 to R447, R454 to R459: the words of a vector result. -/
theorem vectorWords_writeImages :
    ∀ i ∈ [Instr.vadd d a b t k, .vsub d a b t k, .vmul d a b t k, .vmin d a b t k, .vmax d a b t k, .vabs d a t k,
        .vneg d a t k, .vand d a b t k, .vor d a b t k, .vxor d a b t k, .vshl d a b t k, .vshr d a b t k, .vsra d a b t k,
        .vmov d a t k, .vsplat d r t k, .vperm d a b t k, .vxch d a n t k, .vsel d a b t k, .vclamp d a b t k, .vfma d a b t k,
        .vdot d a b t k, .vred d a op t k, .vscan d a op t k, .vcvt m d a iov ts t k, .vqnt m d a kind aty t k,
        .vdqnt d a kind ts t k, .fexp2 d a t k, .flog2 d a t k, .frcp d a t k, .frsq d a t k, .ftanh d a t k, .fsig d a t k,
        .fsin d a t k, .fcos d a t k], WritesImages i d :=
  List.forall_mem_append.mpr ⟨arithmeticWords_writeImages d a b t k, List.forall_mem_append.mpr
    ⟨movingWords_writeImages d a b r n t k, List.forall_mem_append.mpr
      ⟨reducingWords_writeImages d a b op m iov kind aty ts t k, specialWords_writeImages d a t k⟩⟩⟩

end

/-! ### Their traps -/

/-- Writing a vector register leaves the log and the bundle in hand. -/
theorem State.writeV_leaves (s : State) (lat : Nat) (d : VReg) (c : Nat) (im : Image) :
    (if im.mask = 0 then s else s.writeV lat d c im.mask im.val).cx.undo = s.cx.undo ∧
      (if im.mask = 0 then s else s.writeV lat d c im.mask im.val).issue = s.issue := by
  split
  · exact ⟨rfl, rfl⟩
  · exact ⟨s.undo_pend .., rfl⟩

section
variable {s : State}

theorem State.vecImages_eq (h : s.clusters ≠ []) (lat : Nat) (d : VReg) (img : Nat → Image) :
    s.vecImages lat d img = s.clusters.foldl (fun s' c => s'.writeImage lat d c (img c)) (s.needUndo (.v d.val)) := by
  unfold State.vecImages
  split
  · contradiction
  · rfl

/-- Images without flags write none. -/
theorem State.flagless_vecImages (h : s.flagless) {lat : Nat} {d : VReg} {img : Nat → Image}
    (hz : ∀ c ∈ s.clusters, (img c).flags = 0#5) : (s.vecImages lat d img).flagless := by
  by_cases hc : s.clusters = []
  · unfold State.vecImages
    rw [hc]
    exact h
  rw [State.vecImages_eq hc]
  refine State.flagless_loop (put := fun s c => if (img c).mask = 0 then s else s.writeV lat d c (img c).mask (img c).val)
    (fl := fun c => (img c).flags) (fun u c hu => ?_) hz (State.flagless_needUndo h _)
  split
  · exact hu
  · exact State.flagless_pend (d := .v d.val c) hu lat (by simp) _ _

theorem State.regs_vecImages (s : State) (lat : Nat) (d : VReg) (img : Nat → Image) :
    (s.vecImages lat d img).cx.regs = s.cx.regs := by
  unfold State.vecImages
  split
  · rfl
  · refine List.foldlRecOn _ _ (motive := fun u : State => u.cx.regs = s.cx.regs) (s.regs_needUndo _) fun u hu c _ => ?_
    rw [State.writeImage, State.regs_writeFlags]
    split
    · exact hu
    · exact (State.regs_writeV ..).trans hu

/-- A vector entry leaves the room for scalar entries as it is. -/
theorem State.undoFits_scalar_needUndo {key k2 : UKey} (h : s.cx.undoFits key = true) (hne : key.vector ≠ k2.vector) :
    (s.needUndo key).cx.undoFits k2 = s.cx.undoFits k2 := by
  rw [State.needUndo_eq h]
  split
  · rfl
  next hk =>
    have hkv : (key.vector == k2.vector) = false := by simpa using hne
    have hk2 : (key == k2) = false := beq_eq_false_iff_ne.mpr fun he => hne (congrArg UKey.vector he)
    rw [State.cx_setCx, Ctx.logged_new hk]
    simp [Ctx.undoFits, hasKey, hk2, hkv]

/-- A set flag without an entry of VSTAT raises 0x105. -/
theorem State.vecImages_traps (hr : s.issue.raised = none) {d : VReg} (h : s.vecFits d = true)
    (hfull : s.cx.undoFits (.cr 0x024) = false) {lat : Nat} {img : Nat → Image} (hf : ∃ c ∈ s.clusters, (img c).flags ≠ 0#5) :
    (s.vecImages lat d img).issue.raised = some ⟨0x105, 0, s.issue.slot.num, false⟩ := by
  obtain ⟨c, hc, hcf⟩ := hf
  have hne : s.clusters ≠ [] := List.ne_nil_of_mem hc
  have hfit : s.cx.undoFits (.v d.val) = true := by simpa [State.vecFits, hne] using h
  have hfull' : (s.needUndo (.v d.val)).cx.undoFits (.cr 0x024) = false :=
    (State.undoFits_scalar_needUndo hfit (by simp [UKey.vector])).trans hfull
  have hissue : (s.needUndo (.v d.val)).issue = s.issue := needUndo_issue hfit
  rw [State.vecImages_eq hne]
  exact State.loop_traps (put := fun s c => if (img c).mask = 0 then s else s.writeV lat d c (img c).mask (img c).val)
    (fl := fun c => (img c).flags) (fun u c => u.writeV_leaves lat d c (img c)) s.clusters hfull' (by rw [hissue])
    (.inr ⟨by rw [hissue, hr], c, hc, hcf⟩)

end

section
variable {s : State} {i : Instr} {d : VReg} (hr : s.issue.raised = none) (hi : WritesImages i d)
include hr hi

theorem WritesImages.traps_full (h : s.vecFits d = false) : ∃ t, exec i s = .next t ∧ s.TrapsFull 0x106 t := by
  obtain ⟨lat, img, he, -⟩ := hi
  exact ⟨_, he s, State.trapsFull_vecImages hr h lat (img s)⟩

/-- A word that would set a flag, were the log empty, finds no entry of VSTAT. -/
theorem WritesImages.traps_flagged (h : s.vecFits d = true) (hfull : s.cx.undoFits (.cr 0x024) = false)
    (hflag : ∃ u, exec i s.emptied = .next u ∧ ∃ w ∈ u.cx.inFlight, w.dst = .flags) :
    ∃ t, exec i s = .next t ∧ t.issue.raised = some ⟨0x105, 0, s.issue.slot.num, false⟩ ∧ t.cx.regs = s.cx.regs := by
  obtain ⟨lat, img, he, himg⟩ := hi
  obtain ⟨u, hu, w, hw, hdst⟩ := hflag
  rw [he, himg] at hu
  cases hu
  refine ⟨_, he s, State.vecImages_traps hr h hfull ?_, s.regs_vecImages ..⟩
  by_contra hno
  push Not at hno
  exact State.flagless_vecImages s.emptied_flagless hno w hw hdst

end

/-! ### The comparison of vectors -/

/-- What VCMP writes of one cluster. -/
def State.maskImage (s : State) (t : ETy) (k : KSel) (f : Nat → Nat → Bool × Flags) (c : Nat) : Image :=
  imageOf (eltCount t) (t.cw / 8) (active (s.rk k.val c) t.cw) (fun i => (if (f c i).1 then ones (t.cw / 8) else 0, (f c i).2))

section
variable {s : State}

theorem State.maskLoop_eq (h : s.clusters ≠ []) (lat : Nat) (d : KReg) (t : ETy) (k : KSel) (f : Nat → Nat → Bool × Flags) :
    s.maskLoop lat d t k f = s.clusters.foldl (fun s' c =>
      (s'.writeK lat d c (s.maskImage t k f c).mask (s.maskImage t k f c).val).writeFlags lat (s.maskImage t k f c).flags)
      (if d.val = 0 then s else s.needUndo (.k d.val)) := by
  unfold State.maskLoop
  split
  · contradiction
  · rfl

theorem State.writeK_leaves (s : State) (lat : Nat) (d : KReg) (c mask v : Nat) :
    (s.writeK lat d c mask v).cx.undo = s.cx.undo ∧ (s.writeK lat d c mask v).issue = s.issue ∧
      (s.writeK lat d c mask v).cx.regs = s.cx.regs := by
  unfold State.writeK
  split
  · exact ⟨rfl, rfl, rfl⟩
  · exact ⟨s.undo_pend .., rfl, s.regs_pend ..⟩

theorem State.flagless_maskLoop (h : s.flagless) {lat : Nat} {d : KReg} {t : ETy} {k : KSel} {f : Nat → Nat → Bool × Flags}
    (hz : ∀ c ∈ s.clusters, (s.maskImage t k f c).flags = 0#5) : (s.maskLoop lat d t k f).flagless := by
  by_cases hc : s.clusters = []
  · unfold State.maskLoop
    rw [hc]
    exact h
  rw [State.maskLoop_eq hc]
  refine State.flagless_loop (put := fun u c => u.writeK lat d c (s.maskImage t k f c).mask (s.maskImage t k f c).val)
    (fl := fun c => (s.maskImage t k f c).flags) (fun u c hu => ?_) hz ?_
  · unfold State.writeK
    split
    · exact hu
    · exact State.flagless_pend (d := .k d.val c) hu lat (by simp) _ _
  · split
    · exact h
    · exact State.flagless_needUndo h _

theorem State.regs_maskLoop (s : State) (lat : Nat) (d : KReg) (t : ETy) (k : KSel) (f : Nat → Nat → Bool × Flags) :
    (s.maskLoop lat d t k f).cx.regs = s.cx.regs := by
  unfold State.maskLoop
  split
  · rfl
  · refine List.foldlRecOn _ _ (motive := fun u : State => u.cx.regs = s.cx.regs) ?_ fun u hu c _ => ?_
    · split
      · rfl
      · exact s.regs_needUndo _
    · exact (State.regs_writeFlags ..).trans ((u.writeK_leaves ..).2.2.trans hu)

theorem State.maskLoop_traps (hr : s.issue.raised = none) {d : KReg} (h : s.maskFits d = true)
    (hfull : s.cx.undoFits (.cr 0x024) = false) {lat : Nat} {t : ETy} {k : KSel} {f : Nat → Nat → Bool × Flags}
    (hf : ∃ c ∈ s.clusters, (s.maskImage t k f c).flags ≠ 0#5) :
    (s.maskLoop lat d t k f).issue.raised = some ⟨0x105, 0, s.issue.slot.num, false⟩ := by
  obtain ⟨c, hc, hcf⟩ := hf
  have hne : s.clusters ≠ [] := List.ne_nil_of_mem hc
  have hstart : (if d.val = 0 then s else s.needUndo (.k d.val)).cx.undoFits (.cr 0x024) = false ∧
      (if d.val = 0 then s else s.needUndo (.k d.val)).issue = s.issue := by
    split
    · exact ⟨hfull, rfl⟩
    next hd =>
      have hfit : s.cx.undoFits (.k d.val) = true := by simpa [State.maskFits, hne, hd] using h
      exact ⟨(State.undoFits_scalar_needUndo hfit (by simp [UKey.vector])).trans hfull, needUndo_issue hfit⟩
  obtain ⟨hfull', hissue⟩ := hstart
  rw [State.maskLoop_eq hne]
  exact State.loop_traps (put := fun u c => u.writeK lat d c (s.maskImage t k f c).mask (s.maskImage t k f c).val)
    (fl := fun c => (s.maskImage t k f c).flags)
    (fun u c => ⟨(u.writeK_leaves ..).1, (u.writeK_leaves ..).2.1⟩) s.clusters hfull' (by rw [hissue])
    (.inr ⟨by rw [hissue, hr], c, hc, hcf⟩)

/-- R434, R435: what VCMP finds of an element. -/
def State.vcmpElem (s : State) (vc : VCond) (a b : VReg) (t : ETy) (c i : Nat) : Bool × Flags :=
  let x := elem (s.rv a c) t.cw i
  let y := elem (s.rv b c) t.cw i
  if t.isF then vcondFloat vc (elemVal t x) (elemVal t y) else (vcondInt vc (intVal t x) (intVal t y), 0#5)

theorem exec_vcmp (vc : VCond) (d : KReg) (a b : VReg) (t : ETy) (k : KSel) (s : State) :
    exec (.vcmp vc d a b t k) s = .next (s.maskLoop (fpLat t 3 2) d t k (s.vcmpElem vc a b t)) := rfl

theorem vcmp_traps_flagged (hr : s.issue.raised = none) (vc : VCond) (d : KReg) (a b : VReg) (t : ETy) (k : KSel)
    (h : s.maskFits d = true) (hfull : s.cx.undoFits (.cr 0x024) = false)
    (hflag : ∃ u, exec (.vcmp vc d a b t k) s.emptied = .next u ∧ ∃ w ∈ u.cx.inFlight, w.dst = .flags) :
    ∃ t', exec (.vcmp vc d a b t k) s = .next t' ∧ t'.issue.raised = some ⟨0x105, 0, s.issue.slot.num, false⟩ ∧
      t'.cx.regs = s.cx.regs := by
  obtain ⟨u, hu, w, hw, hdst⟩ := hflag
  rw [exec_vcmp] at hu
  cases hu
  refine ⟨_, exec_vcmp .., State.maskLoop_traps hr h hfull ?_, s.regs_maskLoop ..⟩
  by_contra hno
  push Not at hno
  refine State.flagless_maskLoop s.emptied_flagless (fun c hc => ?_) w hw hdst
  have he : s.emptied.vcmpElem vc a b t = s.vcmpElem vc a b t := by
    funext c i
    simp only [State.vcmpElem, State.emptied_rv]
  rw [State.maskImage, he, State.emptied_rk]
  exact hno c hc

end

end Sys2Proof.Machine

/-! SUPPORT. Scalar, control, mask and memory words that find no undo entry (R279). -/

namespace Sys2Proof.Machine

/-- A word raises the fault of a full log and leaves the registers. -/
def State.wordTraps (s : State) (code : Nat) (i : Instr) : Prop := ∃ t, exec i s = .next t ∧ s.TrapsFull code t

/-! ### Scalar results -/

/-- A word whose whole effect is one scalar result. -/
def WritesScalar (i : Instr) (d : SReg) : Prop := ∀ s, ∃ (lat : Nat) (v : Word), exec i s = .next (s.writeS lat d v)

theorem WritesScalar.traps {i : Instr} {d : SReg} (hi : WritesScalar i d) {s : State} (hr : s.issue.raised = none)
    (h : s.scalarFits d = false) : s.wordTraps 0x105 i := by
  obtain ⟨lat, v, he⟩ := hi s
  exact ⟨_, he, State.trapsFull_writeS hr h lat v⟩

section
variable (d a b : SReg) (g : Src) (imm : BitVec 12) (limm : BitVec 18) (p : LPos) (u : Bool) (q : QReg) (ch : Chan)

theorem logicWords_writeScalar :
    ∀ i ∈ [Instr.add d a b, .addi d a imm, .sub d a b, .and d a b, .andi d a imm, .or d a b, .ori d a imm, .xor d a b,
        .xori d a imm, .shl d a g, .shr d a g, .sra d a g, .rotl d a g], WritesScalar i d := by
  simp only [List.forall_mem_cons, List.not_mem_nil, IsEmpty.forall_iff, implies_true, and_true]
  exact ⟨fun s => ⟨_, _, by rfl⟩, fun s => ⟨_, _, by rfl⟩, fun s => ⟨_, _, by rfl⟩, fun s => ⟨_, _, by rfl⟩, fun s => ⟨_, _, by rfl⟩,
    fun s => ⟨_, _, by rfl⟩, fun s => ⟨_, _, by rfl⟩, fun s => ⟨_, _, by rfl⟩, fun s => ⟨_, _, by rfl⟩, fun s => ⟨_, _, by rfl⟩,
    fun s => ⟨_, _, by rfl⟩, fun s => ⟨_, _, by rfl⟩, fun s => ⟨_, _, by rfl⟩⟩

theorem arithmeticWords_writeScalar :
    ∀ i ∈ [Instr.mul d a b, .mulh d a b u, .div d a b u, .rem d a b u, .clz d a, .ctz d a, .popc d a, .min d a b u, .max d a b u,
        .sel d a b u q, .limm p d limm, .xptr d ch], WritesScalar i d := by
  simp only [List.forall_mem_cons, List.not_mem_nil, IsEmpty.forall_iff, implies_true, and_true]
  exact ⟨fun s => ⟨_, _, by rfl⟩, fun s => ⟨_, _, by rfl⟩, fun s => ⟨_, _, by rfl⟩, fun s => ⟨_, _, by rfl⟩, fun s => ⟨_, _, by rfl⟩,
    fun s => ⟨_, _, by rfl⟩, fun s => ⟨_, _, by rfl⟩, fun s => ⟨_, _, by rfl⟩, fun s => ⟨_, _, by rfl⟩, fun s => ⟨_, _, by rfl⟩,
    fun s => ⟨_, _, by rfl⟩, fun s => ⟨_, _, by rfl⟩⟩

theorem scalarWords_writeScalar :
    ∀ i ∈ [Instr.add d a b, .addi d a imm, .sub d a b, .and d a b, .andi d a imm, .or d a b, .ori d a imm, .xor d a b,
        .xori d a imm, .shl d a g, .shr d a g, .sra d a g, .rotl d a g, .mul d a b, .mulh d a b u, .div d a b u, .rem d a b u,
        .clz d a, .ctz d a, .popc d a, .min d a b u, .max d a b u, .sel d a b u q, .limm p d limm, .xptr d ch],
      WritesScalar i d :=
  List.forall_mem_append.mpr ⟨logicWords_writeScalar d a b g imm, arithmeticWords_writeScalar d a b limm p u q ch⟩

end

section
variable {s : State} (hr : s.issue.raised = none)
include hr

theorem mfc_traps {d : SReg} (h : s.scalarFits d = false) (num : BitVec 12) (hc : (s.creg s.issue.ctx num.toNat).isSome = true) :
    s.wordTraps 0x105 (.mfc d num) := by
  obtain ⟨v, hv⟩ := Option.isSome_iff_exists.mp hc
  refine ⟨s.writeS 2 d v, ?_, State.trapsFull_writeS hr h 2 v⟩
  show execMfc d num s = _
  rw [execMfc, hv]

theorem kpopc_traps {d : SReg} (h : s.scalarFits d = false) (m : KReg) (hc : s.clusters ≠ []) : s.wordTraps 0x105 (.kpopc d m) := by
  obtain ⟨c, cs, hcs⟩ := List.exists_cons_of_ne_nil hc
  have he : ∃ v, exec (.kpopc d m) s = .next (s.writeS 2 d v) := by
    show ∃ v, execKpopc d m s = _
    rw [execKpopc, hcs]
    exact ⟨_, rfl⟩
  obtain ⟨v, he⟩ := he
  exact ⟨_, he, State.trapsFull_writeS hr h 2 v⟩

theorem kfirst_traps {d : SReg} (h : s.scalarFits d = false) (m : KReg) (hc : s.clusters ≠ []) :
    s.wordTraps 0x105 (.kfirst d m) := by
  obtain ⟨c, cs, hcs⟩ := List.exists_cons_of_ne_nil hc
  have he : ∃ v, exec (.kfirst d m) s = .next (s.writeS 2 d v) := by
    show ∃ v, execKfirst d m s = _
    rw [execKfirst, hcs]
    exact ⟨_, rfl⟩
  obtain ⟨v, he⟩ := he
  exact ⟨_, he, State.trapsFull_writeS hr h 2 v⟩

theorem vget_traps {d : SReg} (h : s.scalarFits d = false) (a : VReg) (b : SReg) (t : ETy) (k : KSel)
    (hreach : (s.reach b t k).2.2 = true) : s.wordTraps 0x105 (.vget d a b t k) := by
  have he : ∃ v, exec (.vget d a b t k) s = .next (s.writeS 4 d v) := by
    show ∃ v, execVget d a b t k s = _
    simp only [execVget, hreach, if_true]
    exact ⟨_, rfl⟩
  obtain ⟨v, he⟩ := he
  exact ⟨_, he, State.trapsFull_writeS hr h 4 v⟩

theorem vput_traps {d : VReg} (h : s.cx.undoFits (.v d.val) = false) (a b : SReg) (t : ETy) (k : KSel)
    (hreach : (s.reach b t k).2.2 = true) : s.wordTraps 0x106 (.vput d a b t k) := by
  have he : ∃ mask val, exec (.vput d a b t k) s = .next ((s.needUndo (.v d.val)).writeV 2 d (s.reach b t k).1 mask val) := by
    show ∃ mask val, execVput d a b t k s = _
    simp only [execVput, hreach, if_true]
    exact ⟨_, _, rfl⟩
  obtain ⟨mask, val, he⟩ := he
  exact ⟨_, he, (State.trapsFull_vector hr (key := .v d.val) rfl h).pend ..⟩

theorem cmp_traps {d : QReg} (h : s.qFits d = false) (a : SReg) (b : Src) (c : Cond) : s.wordTraps 0x105 (.cmp d a b c) :=
  ⟨_, by rfl, State.trapsFull_writeQ hr h ..⟩

theorem call_traps (h : s.cx.undoFits (.s 63) = false) (disp : BitVec 20) : s.wordTraps 0x105 (.call disp) :=
  ⟨_, exec_call disp s, (State.trapsFull_writeS hr (by simpa [State.scalarFits] using h) ..).advance ..⟩

theorem loop_traps_full {c1 : Bool} (h : s.cx.undoFits (.cr (loopNum c1)) = false) (disp : BitVec 20) :
    s.wordTraps 0x105 (.loop c1 disp) := by
  refine ⟨_, exec_loop c1 disp s, ?_⟩
  have hfull := State.trapsFull_scalar hr (key := .cr (loopNum c1)) rfl h
  split
  · exact hfull.advance ..
  · exact (hfull.pend ..).advance ..

/-! ### Control registers -/

/-- A write of a control register outside service mode that no fault of R399 and R400 stops. -/
theorem State.writeCr_traps {num : Nat} {key : UKey} (hcr : (s.creg s.issue.ctx num).isNone = false) (hro : crReadOnly num = false)
    (hsv : crService num = false) (hm : s.cx.svcMode = false) {v : Word} (hv : ¬ (num = 0x005 ∧ v.toNat % 16 = 0))
    (hkey : (Dst.cr num).key = some key) (hk : key.vector = false) (h : s.cx.undoFits key = false) :
    s.TrapsFull 0x105 (s.writeCr num v) := by
  simp only [State.writeCr, hcr, hro, hsv, hm, hv, hkey, Bool.false_eq_true, Bool.false_and, if_false]
  exact (State.trapsFull_scalar hr hk h).pend ..

theorem mtc_traps (hm : s.cx.svcMode = false) {num : BitVec 12} (hn : num.toNat ∈ [0x020, 0x021, 0x023, 0x024])
    (h : s.cx.undoFits (.cr num.toNat) = false) (a : SReg) : s.wordTraps 0x105 (.mtc num a) := by
  refine ⟨_, by rfl, ?_⟩
  generalize num.toNat = n at *
  simp only [List.mem_cons, List.not_mem_nil, or_false] at hn
  rcases hn with rfl | rfl | rfl | rfl <;>
    exact State.writeCr_traps hr rfl rfl rfl hm (by simp) rfl rfl h

theorem mtcDmr_traps (hm : s.cx.svcMode = false) (h : s.cx.undoFits (.cr 0x006) = false) (a : SReg) :
    s.wordTraps 0x105 (.mtcDmr a) :=
  ⟨_, by rfl, State.writeCr_traps hr rfl rfl rfl hm (by simp) rfl rfl h⟩

theorem mtcAshape_traps (hm : s.cx.svcMode = false) (h : s.cx.undoFits (.cr 0x005) = false) {a : SReg}
    (ha : (s.rs a).toNat % 16 ≠ 0) : s.wordTraps 0x105 (.mtcAshape a) :=
  ⟨_, by rfl, State.writeCr_traps hr rfl rfl rfl hm (fun h => ha h.2) rfl rfl h⟩

/-! ### Masks and queues -/

theorem maskWords_trap {d : KReg} (h : s.maskFits d = false) (a b : KReg) (x y : VReg) (vc : VCond) (t : ETy) (k : KSel) :
    ∀ i ∈ [Instr.kand d a b, .kor d a b, .kxor d a b, .knot d a, .vcmp vc d x y t k], s.wordTraps 0x106 i := by
  simp only [List.forall_mem_cons, List.not_mem_nil, IsEmpty.forall_iff, implies_true, and_true]
  exact ⟨⟨_, by rfl, State.trapsFull_maskWord hr h _⟩, ⟨_, by rfl, State.trapsFull_maskWord hr h _⟩,
    ⟨_, by rfl, State.trapsFull_maskWord hr h _⟩, ⟨_, by rfl, State.trapsFull_maskWord hr h _⟩,
    ⟨_, exec_vcmp vc d x y t k s, State.trapsFull_maskLoop hr h ..⟩⟩

/-- A pop's two results, the vector register without its entry. -/
theorem State.trapsFull_writeWhole {v : VReg} (h : s.cx.undoFits (.v v.val) = false) (img : Nat → Nat) :
    s.TrapsFull 0x106 (s.writeWhole v img) :=
  (State.trapsFull_vector hr (key := .v v.val) rfl h).foldl (fun _ _ hu => hu.pend ..) _

/-- The queue that a pop leaves shorter is no part of the registers. -/
theorem State.trapsFull_popped {x : Ctx} (hregs : x.regs = s.cx.regs) (hundo : x.undo = s.cx.undo) {v : VReg}
    (h : s.cx.undoFits (.v v.val) = false) (img : Nat → Nat) (d : SReg) (w : Word) :
    s.TrapsFull 0x106 (((s.setCx x).writeWhole v img).writeS 2 d w) := by
  have hfit : (s.setCx x).cx.undoFits (.v v.val) = false := by simpa [State.cx_setCx, Ctx.undoFits, hundo] using h
  have hwhole : (s.setCx x).TrapsFull 0x106 ((s.setCx x).writeWhole v img) :=
    State.trapsFull_writeWhole (s := s.setCx x) hr hfit img
  have hsame : s.TrapsFull 0x106 ((s.setCx x).writeWhole v img) :=
    hwhole.of_same rfl ((congrArg Ctx.regs (State.cx_setCx s x)).trans hregs) ((congrArg Ctx.undo (State.cx_setCx s x)).trans hundo)
  exact hsame.writeS 2 d w

theorem gpop_traps {v : VReg} (h : s.cx.undoFits (.v v.val) = false) (d : SReg) {g : GatherRec} {rest : List GatherRec}
    (hg : s.cx.gathers = g :: rest) (hdone : g.results.isSome = true) : s.wordTraps 0x106 (.gpop v d) := by
  obtain ⟨rs, hrs⟩ := Option.isSome_iff_exists.mp hdone
  have he : ∃ img w, exec (.gpop v d) s =
      .next (((s.setCx { s.cx with gathers := rest, cmt := true }).writeWhole v img).writeS 2 d w) := by
    show ∃ img w, execGpop v d s = _
    simp only [execGpop, hg, hrs]
    exact ⟨_, _, rfl⟩
  obtain ⟨img, w, he⟩ := he
  exact ⟨_, he, State.trapsFull_popped hr (x := { s.cx with gathers := rest, cmt := true }) rfl rfl h img d w⟩

theorem cpop_traps {v : VReg} (h : s.cx.undoFits (.v v.val) = false) (d : SReg) {r : CollRec} {rest : List CollRec}
    (hc : s.cx.colls = r :: rest) (hdone : r.st = .done) : s.wordTraps 0x106 (.cpop v d) := by
  have he : ∃ img w, exec (.cpop v d) s =
      .next (((s.setCx { s.cx with colls := rest, cmt := true }).writeWhole v img).writeS 2 d w) := by
    show ∃ img w, execCpop v d s = _
    simp only [execCpop, hc, hdone]
    exact ⟨_, _, rfl⟩
  obtain ⟨img, w, he⟩ := he
  exact ⟨_, he, State.trapsFull_popped hr (x := { s.cx with colls := rest, cmt := true }) rfl rfl h img d w⟩

end

end Sys2Proof.Machine

/-! SUPPORT. Local accesses: the checks of R386 and R452 that stand or do not, and the room in the gate (R280). -/

namespace Sys2Proof.Machine

/-- Ranges as they are once they lie in the scratchpad. -/
def natRanges (rs : List (Int × Nat)) : List (Nat × Nat) := rs.map (fun r => (r.1.toNat, r.2))

/-! ### Checks -/

section
variable {s : State} {rs : List (Int × Nat)} {off : Option Int} {both : Bool} {bank ecc : List (Nat × Nat) → Bool} {k : State → State}

/-- An access against which no fault stands goes on. -/
theorem State.localCheck_ok (h : s.accessOk rs both off.isNone (bank (natRanges rs)) (ecc (natRanges rs)) = true) :
    s.localCheck rs off both bank ecc k = k s := by
  simp only [State.accessOk, Bool.and_eq_true, Option.isNone_iff_eq_none, Bool.not_eq_true', natRanges] at h
  obtain ⟨⟨⟨⟨hsp, hoff⟩, hbank⟩, hcol⟩, hecc⟩ := h
  simp [State.localCheck, hsp, hoff, hbank, hcol, hecc]

theorem State.localCheck_const : s.localCheck rs off both bank ecc k = s.localCheck rs off both bank ecc fun _ => k s := by
  unfold State.localCheck
  rfl

/-- The first address that by itself breaks a rule, else the first address. -/
def Breaks (rs : List (Int × Nat)) (p : List (Nat × Nat) → Bool) (a : Int) : Prop :=
  match rs.find? (fun r => p [(r.1.toNat, r.2)]) with
  | some r => a = r.1
  | none => ∀ r, rs.head? = some r → a = r.1

theorem faultAt_of_breaks {p : List (Nat × Nat) → Bool} {a : Int} (hne : rs ≠ []) (h : Breaks rs p a) : faultAt rs p = spEaddr a := by
  obtain ⟨r, rest, rfl⟩ := List.exists_cons_of_ne_nil hne
  unfold Breaks at h
  unfold faultAt
  split at h
  next q hq => rw [hq, h]; rfl
  next hq =>
    rw [hq, h r rfl]
    rfl

end

/-! ### The gate -/

section
variable {s : State}

theorem State.gateRows_fit {bs : List (Nat × Byte)} (h : s.rowsFit bs = true) (k : State → State) :
    s.gateRows (bs.map (·.1)) k = k s := by
  have hn := of_decide_eq_true h
  exact if_neg (Nat.not_lt.mpr hn)

theorem State.gateRows_full {bs : List (Nat × Byte)} (h : s.rowsFit bs = false) (k : State → State) :
    s.gateRows (bs.map (·.1)) k = s.raise 0x104 (spEaddr ((bs.map (·.1)).headD 0 : Nat)) := by
  have hn := of_decide_eq_false h
  exact if_pos (Nat.lt_of_not_le hn)

/-- Room depends on the rows alone. -/
theorem State.rowsFit_congr {bs cs : List (Nat × Byte)} (h : rowsOf (bs.map (·.1)) = rowsOf (cs.map (·.1))) :
    s.rowsFit bs = s.rowsFit cs := by
  simp only [State.rowsFit, h]

/-- What a state keeps for a register write after a store: the bundle in hand, the registers and the log. -/
structure State.SameRegs (s t : State) : Prop where
  issue : t.issue = s.issue
  regs : t.cx.regs = s.cx.regs
  undo : t.cx.undo = s.cx.undo

theorem Ctx.keepBytes_keeps {α : Type} {g : Ctx → α} (hg : ∀ x k, g (Ctx.keepByte x k) = g x) (x : Ctx) (sp : Memory) (now : Nat)
    (addrs : List Nat) : g (x.keepBytes sp now addrs) = g x :=
  List.foldlRecOn addrs _ (motive := fun y => g y = g x) rfl fun y hy _ _ => (hg y _).trans hy

theorem State.sameRegs_storeBytes {bs : List (Nat × Byte)} (h : s.rowsFit bs = true) : s.SameRegs (s.storeBytes bs) := by
  rw [State.storeBytes, State.gateRows_fit h]
  refine ⟨rfl, ?_, ?_⟩
  · simp only [State.cx_setTl, State.cx_setCx]
    split
    · exact Ctx.keepBytes_keeps (g := Ctx.regs) (fun _ _ => by rfl) ..
    · rfl
  · simp only [State.cx_setTl, State.cx_setCx]
    split
    · exact Ctx.keepBytes_keeps (g := Ctx.undo) (fun _ _ => by rfl) ..
    · rfl

theorem State.sameRegs_gateTouch {a : Nat} (h : s.rowsFit [(a, 0#8)] = true) : s.SameRegs (s.gateTouch a) := by
  have he : s.gateTouch a = if s.cx.rows.any (fun g => g.row == a / 64) then s
      else s.setCx { s.cx with rows := s.cx.rows ++ [⟨a / 64, 0, 0⟩] } := State.gateRows_fit (bs := [(a, 0#8)]) h _
  rw [he]
  split
  · exact ⟨rfl, rfl, rfl⟩
  · exact ⟨rfl, (congrArg Ctx.regs (State.cx_setCx s _)).trans rfl, (congrArg Ctx.undo (State.cx_setCx s _)).trans rfl⟩

end

/-! ### Atomics -/

/-- The store of an atomic (R342): its bytes, or its row alone. -/
def State.StoresRow (s : State) (a n : Nat) (t : State) : Prop := (∃ new, t = s.storeBytes (bytesAt a n new)) ∨ t = s.gateTouch a

/-- The bytes of an atomic. -/
def wordBytes (w : Bool) : Nat := if w then 8 else 4

/-- The banks of a word that reserves its bank, taken by the word of slot MB or read soon (R343). -/
def State.atomicBank (s : State) (rn : List (Nat × Nat)) : Bool :=
  (rowsOfRanges rn).any (fun r => s.issue.mbBanks.contains (bankOf r) || s.readSoon (bankOf r))

/-- The error that an atomic meets in the row it reads. -/
def State.atomicEcc (s : State) (a : Nat) (_ : List (Nat × Nat)) : Bool := eccRead s.issue.bad0 [(64 * (a / 64), 64)]

theorem State.atomic_shape (s : State) (op : AOp) (d a b : SReg) (w u : Bool) :
    ∃ k, s.atomic op d a b w u = s.localCheck [((s.rs a).toNat, wordBytes w)] (offAlign (wordBytes w) [((s.rs a).toNat, wordBytes w)])
        true s.atomicBank (s.atomicEcc (s.rs a).toNat) k ∧
      ∃ t v row, s.StoresRow (s.rs a).toNat (wordBytes w) t ∧ k s = (t.writeS 5 d v).reserve row := by
  cases w <;>
  · refine ⟨_, by rfl, ?_⟩
    refine ⟨_, _, _, ?_, by rfl⟩
    split
    · exact .inl ⟨_, rfl⟩
    · exact .inr rfl
/-- An aligned word lies in one row. -/
theorem rowsOf_bytesAt {a : Nat} {w : Bool} (h : a % wordBytes w = 0) (v : Nat) (c : Byte) :
    rowsOf ((bytesAt a (wordBytes w) v).map (·.1)) = rowsOf ([(a, c)].map (·.1)) := by
  have hrow {i : Nat} (hi : i < wordBytes w) : (a + i) / 64 = a / 64 := by
    unfold wordBytes at h hi
    split at h <;> simp_all <;> omega
  have hmap : ((bytesAt a (wordBytes w) v).map (·.1)).map (· / 64) = List.replicate (wordBytes w) (a / 64) := by
    refine List.eq_replicate_iff.mpr ⟨by simp [bytesAt], fun r hr => ?_⟩
    simp only [bytesAt, List.map_map, List.mem_map, List.mem_range, Function.comp_apply] at hr
    obtain ⟨i, hi, rfl⟩ := hr
    exact hrow hi
  rw [rowsOf, hmap, rowsOf]
  cases w <;> simp [wordBytes, List.replicate, List.eraseDups_cons]

theorem offAlign_isNone (n : Nat) (rs : List (Int × Nat)) : (offAlign n rs).isNone = rs.all (fun r => decide (r.1 % n = 0)) := by
  rw [offAlign, Option.isNone_map, Bool.eq_iff_iff]
  simp

theorem offAlign_isNone_one (n : Nat) (a : Int) (m : Nat) : (offAlign n [(a, m)]).isNone = decide (a % n = 0) := by
  rw [offAlign_isNone, List.all_cons, List.all_nil, Bool.and_true]

theorem offAlign_isNone_nat (n a : Nat) (m : Nat) : (offAlign n [((a : Int), m)]).isNone = decide (a % n = 0) := by
  rw [offAlign_isNone_one, decide_eq_decide, ← Int.natCast_mod]
  exact Int.natCast_eq_zero

/-- All clusters' ranges are as aligned as the base. -/
theorem offAlign_vldRanges {s : State} (hc : s.clusters ≠ []) (a : Int) :
    (offAlign 4 (s.vldRanges a)).isNone = decide (a % 4 = 0) := by
  obtain ⟨c, cs, hcs⟩ := List.exists_cons_of_ne_nil hc
  have hmod (c : Nat) : decide ((a + 256 * (c : Int)) % (4 : Nat) = 0) = decide (a % 4 = 0) := decide_eq_decide.mpr (by omega)
  rw [offAlign_isNone, State.vldRanges, hcs, List.all_map, Bool.eq_iff_iff]
  simp only [Function.comp_def, hmod, List.all_cons, Bool.and_eq_true, List.all_eq_true]
  exact ⟨fun h => h.1, fun h => ⟨h, fun _ _ => h⟩⟩

section
variable {s t : State}

theorem State.SameRegs.traps (h : s.SameRegs t) (hr : s.issue.raised = none) {d : SReg} (hd : s.scalarFits d = false) (lat : Nat)
    (v : Word) : s.TrapsFull 0x105 (t.writeS lat d v) := by
  have hfit : t.scalarFits d = false := by simpa [State.scalarFits, Ctx.undoFits, h.undo] using hd
  exact (State.trapsFull_writeS (h.issue ▸ hr) hfit lat v).of_same (congrArg Issue.slot h.issue) h.regs h.undo

theorem State.TrapsFull.reserve {code : Nat} (h : s.TrapsFull code t) (row : Nat) : s.TrapsFull code (t.reserve row) :=
  ⟨h.raised, h.regs, h.vector, h.scalar⟩

/-- R279, R342: the old value of an atomic finds no undo entry. -/
theorem State.atomic_traps (hr : s.issue.raised = none) {d a b : SReg} {w : Bool} (hd : s.scalarFits d = false)
    (hok : s.accessOk [((s.rs a).toNat, wordBytes w)] true (decide ((s.rs a).toNat % wordBytes w = 0))
      (s.atomicBank [((s.rs a).toNat, wordBytes w)]) (s.atomicEcc (s.rs a).toNat []) = true)
    (hrow : s.rowsFit [((s.rs a).toNat, 0#8)] = true) (op : AOp) (u : Bool) : s.TrapsFull 0x105 (s.atomic op d a b w u) := by
  obtain ⟨k, he, t, v, row, hstore, hk⟩ := s.atomic_shape op d a b w u
  have halign : (s.rs a).toNat % wordBytes w = 0 := by
    simp only [State.accessOk, Bool.and_eq_true, decide_eq_true_eq] at hok
    obtain ⟨⟨⟨⟨-, hoff⟩, -⟩, -⟩, -⟩ := hok
    exact hoff
  rw [he, State.localCheck_ok (by rw [offAlign_isNone_nat]; exact hok), hk]
  have hsame : s.SameRegs t := by
    obtain ⟨new, rfl⟩ | rfl := hstore
    · exact State.sameRegs_storeBytes ((State.rowsFit_congr (rowsOf_bytesAt halign new 0#8)).trans hrow)
    · exact State.sameRegs_gateTouch hrow
  exact (hsame.traps hr hd 5 v).reserve row

theorem atomicWords_eq (d a b : SReg) (w u : Bool) (col : Colour) :
    ∀ i ∈ [Instr.aadd d a b w col, .amin d a b w u col, .amax d a b w u col, .aand d a b w col, .aor d a b w col,
        .axor d a b w col, .aswap d a b w col, .acas d a b w col], ∃ op u, ∀ s, exec i s = .next (s.atomic op d a b w u) := by
  simp only [List.forall_mem_cons, List.not_mem_nil, IsEmpty.forall_iff, implies_true, and_true]
  exact ⟨⟨.add, false, fun s => rfl⟩, ⟨.min, u, fun s => rfl⟩, ⟨.max, u, fun s => rfl⟩, ⟨.and, false, fun s => rfl⟩,
    ⟨.or, false, fun s => rfl⟩, ⟨.xor, false, fun s => rfl⟩, ⟨.swap, false, fun s => rfl⟩, ⟨.cas, false, fun s => rfl⟩⟩

end

/-! ### Loads -/

section
variable {s : State}

/-- A vector load without an entry for its register. -/
theorem State.trapsFull_vecLoad (hr : s.issue.raised = none) {d : VReg} (h : s.cx.undoFits (.v d.val) = false) (cs : List Nat) (lat : Nat)
    (img : Nat → Nat) : s.TrapsFull 0x106 (cs.foldl (fun s' c => s'.writeV lat d c (ones 2048) (img c)) (s.needUndo (.v d.val))) :=
  (State.trapsFull_vector hr (key := .v d.val) rfl h).foldl (fun _ _ hu => hu.pend ..) _

variable {rs : List (Int × Nat)} {off : Option Int} {bank : List (Nat × Nat) → Bool} {t : State}

/-- A load against which no fault stands goes on to its write. -/
theorem wordTraps_of_load {i : Instr} {code : Nat} {k : State → State} {aligned b : Bool}
    (he : exec i s = .next (s.localCheck rs off false bank (eccRead s.issue.bad0) k)) (hrs : s.touched i = rs)
    (hoff : off.isNone = aligned) (hb : bank (natRanges rs) = b) (hok : s.loadOk i aligned b = true) (hk : s.TrapsFull code (k s)) :
    s.wordTraps code i := by
  subst hrs hoff hb
  exact ⟨_, he.trans (congrArg _ (State.localCheck_ok hok)), hk⟩

variable (hr : s.issue.raised = none)
include hr

theorem ld_traps {d : SReg} (h : s.scalarFits d = false) (t : LdTy) (b : SReg) (off : BitVec 12)
    (hok : s.loadOk (.ld t d b off) (decide (((s.rs b).toNat + off.toInt * t.bytes : Int) % t.bytes = 0)) false = true) :
    s.wordTraps 0x105 (.ld t d b off) :=
  wordTraps_of_load (by rfl) rfl (offAlign_isNone_one ..) rfl hok (State.trapsFull_writeS hr h ..)

theorem vld_traps {d : VReg} (h : s.vecFits d = false) (b : SReg) (off : BitVec 12)
    (hok : s.loadOk (.vld d b off) (decide (((s.rs b).toNat + off.toInt * 256 : Int) % 4 = 0)) false = true) :
    s.wordTraps 0x106 (.vld d b off) := by
  obtain ⟨hc, hu⟩ := State.clusters_of_not_vecFits h
  refine wordTraps_of_load (rs := s.vldRanges (s.addr b off.toInt 256)) (bank := fun _ => false)
    (k := fun u => s.clusters.foldl (fun s' (c : Nat) => s'.writeV 6 d c (ones 2048)
      (readLE u.issue.sp0 (s.addr b off.toInt 256 + 256 * c).toNat 256)) (u.needUndo (.v d.val)))
    ?_ rfl (offAlign_vldRanges hc _) rfl hok (State.trapsFull_vecLoad hr hu ..)
  obtain ⟨c, cs, hcs⟩ := List.exists_cons_of_ne_nil hc
  show execVld d b off s = _
  rw [execVld]
  split
  · contradiction
  · rfl

theorem vldb_traps {d : VReg} (h : s.vecFits d = false) (b : SReg) (off : BitVec 12)
    (hok : s.loadOk (.vldb d b off) (decide (((s.rs b).toNat + off.toInt * 64 : Int) % 4 = 0)) false = true) :
    s.wordTraps 0x106 (.vldb d b off) := by
  obtain ⟨hc, hu⟩ := State.clusters_of_not_vecFits h
  refine wordTraps_of_load (rs := [(s.addr b off.toInt 64, 64)]) (bank := fun _ => false) (off := offAlign 4 [(s.addr b off.toInt 64, 64)])
    (k := fun u => s.clusters.foldl (fun s' (c : Nat) => s'.writeV 6 d c (ones 2048)
      (readLE u.issue.sp0 (s.addr b off.toInt 64).toNat 64 * (1 + 2 ^ 512 + 2 ^ 1024 + 2 ^ 1536))) (u.needUndo (.v d.val)))
    ?_ ?_ (offAlign_isNone_one ..) rfl hok (State.trapsFull_vecLoad hr hu ..)
  · show execVldb d b off s = _
    rw [execVldb]
    split
    · contradiction
    · rfl
  · simp [State.touched, hc]

theorem vlds_traps {d : VReg} (h : s.vecFits d = false) (w : Width) (b : SReg) (off : BitVec 12)
    (hok : s.loadOk (.vlds w d b off) ((s.touched (.vlds w d b off)).all (fun r => decide (r.1 % w.bytes = 0)))
      (bankRule ((s.touched (.vlds w d b off)).map (fun r => (r.1.toNat, r.2)))) = true) : s.wordTraps 0x106 (.vlds w d b off) := by
  obtain ⟨hc, hu⟩ := State.clusters_of_not_vecFits h
  have he : ∃ img : Nat → Nat, exec (.vlds w d b off) s = .next (s.localCheck (s.touched (.vlds w d b off))
      (offAlign w.bytes (s.touched (.vlds w d b off))) false bankRule (eccRead s.issue.bad0) fun _ =>
        s.clusters.foldl (fun s' c => s'.writeV 8 d c (ones 2048) (img c)) (s.needUndo (.v d.val))) := by
    show ∃ img : Nat → Nat, execVlds w d b off s = _
    rw [execVlds]
    split
    · contradiction
    · exact ⟨_, congrArg _ (State.localCheck_const.trans rfl)⟩
  obtain ⟨img, he⟩ := he
  exact wordTraps_of_load he rfl (offAlign_isNone ..) rfl hok (State.trapsFull_vecLoad hr hu ..)

end

end Sys2Proof.Machine

/-! SUPPORT. The first fault that stands against a local access (R386, R419, R452, R343, R437), one check after the other. -/

namespace Sys2Proof.Machine

/-- What the faults of a local access are: the first that stands is raised, and nothing else changes. -/
def State.Stands (s : State) (i : Instr) (rs : List (Int × Nat)) (both : Bool) (off : Option Int) (bank ecc : List (Nat × Nat) → Bool)
    (bs : List (Nat × Byte)) : Prop :=
  let rn := natRanges rs
  let taken := fun rn => bank rn || s.collides both (rowsOfRanges rn)
  (∀ a, s.cx.spBad rs = some a → exec i s = .next (s.raises 0x100 (spEaddr a))) ∧
  (rs ≠ [] → s.cx.spBad rs = none →
    (∀ a, off = some a → exec i s = .next (s.raises 0x101 (spEaddr a))) ∧
    (∀ a, off = none → taken rn = true → Breaks rs taken a → exec i s = .next (s.raises 0x102 (spEaddr a))) ∧
    (∀ a, off = none → taken rn = false → ecc rn = true → Breaks rs ecc a → exec i s = .next (s.raises 0x103 (spEaddr a))) ∧
    (bs ≠ [] → s.accessOk rs both off.isNone (bank rn) (ecc rn) = true → s.rowsFit bs = false →
      ∃ t, exec i s = .next t ∧ t.issue = (s.raises 0x104 (spEaddr ((bs.map (·.1)).headD 0 : Nat))).issue ∧
        t.tl.sp = s.tl.sp ∧ t.cx.rows = s.cx.rows))

/-- What a store without room in the gate leaves. -/
def State.GateFull (s : State) (a : Nat) (t : State) : Prop :=
  t.issue = (s.raises 0x104 (spEaddr (a : Nat))).issue ∧ t.tl.sp = s.tl.sp ∧ t.cx.rows = s.cx.rows

section
variable {s : State} (hr : s.issue.raised = none)
include hr

theorem State.stands_of_check {i : Instr} {rs : List (Int × Nat)} {both : Bool} {off : Option Int} {bank ecc : List (Nat × Nat) → Bool}
    {bs : List (Nat × Byte)} {k : State → State} (hi : rs ≠ [] → exec i s = .next (s.localCheck rs off both bank ecc k))
    (hk : bs ≠ [] → off = none → s.rowsFit bs = false → s.GateFull ((bs.map (·.1)).headD 0) (k s)) : s.Stands i rs both off bank ecc bs := by
  refine ⟨fun a ha => ?_, fun hne hsp => ⟨fun a ha => ?_, fun a ho ht hb => ?_, fun a ho ht he hb => ?_, fun hbs hok hfit => ?_⟩⟩
  · have hne : rs ≠ [] := fun h => by simp [h, Ctx.spBad] at ha
    rw [hi hne, State.localCheck, ha, ← State.raise_eq hr]
  · subst ha
    rw [hi hne, State.localCheck, hsp, ← State.raise_eq hr]
  · subst ho
    rw [hi hne, ← State.raise_eq hr, ← faultAt_of_breaks hne hb, State.localCheck, hsp]
    exact congrArg Host.Outcome.next (if_pos ht)
  · subst ho
    rw [hi hne, ← State.raise_eq hr, ← faultAt_of_breaks hne hb, State.localCheck, hsp]
    exact congrArg Host.Outcome.next ((if_neg (Bool.eq_false_iff.mp ht)).trans (if_pos he))
  · have hoff : off = none := by
      simp only [State.accessOk, Bool.and_eq_true, Option.isNone_iff_eq_none] at hok
      exact hok.1.1.1.2
    exact ⟨k s, (hi hne).trans (congrArg Host.Outcome.next (State.localCheck_ok hok)), hk hbs hoff hfit⟩

/-! ### Stores without room -/

theorem State.gateFull_raise (a : Nat) : s.GateFull a (s.raise 0x104 (spEaddr a)) := by
  rw [State.raise_eq hr]
  exact ⟨rfl, rfl, rfl⟩

theorem State.gateFull_storeBytes {bs : List (Nat × Byte)} (h : s.rowsFit bs = false) :
    s.GateFull ((bs.map (·.1)).headD 0) (s.storeBytes bs) := by
  rw [State.storeBytes, State.gateRows_full h]
  exact State.gateFull_raise hr _

theorem State.gateFull_gateTouch {a : Nat} (h : s.rowsFit [(a, 0#8)] = false) : s.GateFull a (s.gateTouch a) := by
  have he : s.gateTouch a = s.raise 0x104 (spEaddr (a : Nat)) := State.gateRows_full (bs := [(a, 0#8)]) h _
  rw [he]
  exact State.gateFull_raise hr a

end

section
variable {s t : State}

theorem Ctx.logged_rows (x : Ctx) (key : UKey) : (x.logged key).rows = x.rows := by
  unfold Ctx.logged
  split <;> rfl

theorem State.rows_needUndo (key : UKey) : (s.needUndo key).cx.rows = s.cx.rows ∧ (s.needUndo key).tl = s.tl := by
  cases h : s.cx.undoFits key with
  | true =>
    rw [State.needUndo_eq h]
    split
    · exact ⟨rfl, rfl⟩
    · exact ⟨by rw [State.cx_setCx, Ctx.logged_rows], rfl⟩
  | false =>
    rw [State.needUndo_full h]
    refine ⟨by rw [State.cx_raise], ?_⟩
    unfold State.raise
    split <;> rfl

/-- A register write leaves the gate and the tile. -/
theorem State.rows_writeS (lat : Nat) (d : SReg) (v : Word) : (s.writeS lat d v).cx.rows = s.cx.rows ∧ (s.writeS lat d v).tl = s.tl := by
  unfold State.writeS
  split
  · exact ⟨rfl, rfl⟩
  · obtain ⟨hrows, htl⟩ := State.rows_needUndo (s := s) (.s d.val)
    rw [State.setCtx_ctx_pend]
    exact ⟨(congrArg Ctx.rows (State.cx_setCx _ _)).trans hrows, htl⟩

/-- Past its first fault a word's register write leaves the bundle in hand. -/
theorem State.issue_writeS_raised {r : Raise} (h : s.issue.raised = some r) (lat : Nat) (d : SReg) (v : Word) :
    (s.writeS lat d v).issue = s.issue := by
  unfold State.writeS
  split
  · rfl
  · rw [State.issue_pend]
    cases hk : s.cx.undoFits (.s d.val) with
    | true => exact needUndo_issue hk
    | false => rw [State.needUndo_full hk, State.raise_of_raised h]

theorem State.GateFull.writeS {a : Nat} (h : s.GateFull a t) (lat : Nat) (d : SReg) (v : Word) : s.GateFull a (t.writeS lat d v) := by
  obtain ⟨hissue, hsp, hrows⟩ := h
  obtain ⟨hrows', htl⟩ := State.rows_writeS (s := t) lat d v
  have hraised := congrArg Issue.raised hissue
  exact ⟨(State.issue_writeS_raised hraised lat d v).trans hissue, (congrArg Tile.sp htl).trans hsp, hrows'.trans hrows⟩

theorem State.GateFull.reserve {a : Nat} (h : s.GateFull a t) (row : Nat) : s.GateFull a (t.reserve row) := by
  obtain ⟨hissue, hsp, hrows⟩ := h
  refine ⟨hissue, ?_, hrows⟩
  rw [State.reserve, State.tl_setTl]
  exact hsp

end

/-! ### Loads and stores -/

theorem vldRanges_nil {s : State} (hc : s.clusters = []) (a : Int) : s.vldRanges a = [] := by simp [State.vldRanges, hc]

theorem lanes_nil {s : State} (hc : s.clusters = []) (b : SReg) (o : Int) (w : Width) : s.lanes b o w = [] := by simp [State.lanes, hc]

/-- A store's errors are those of words that it writes in part. -/
theorem eccStore_eq (bad : List Nat) (bs : List (Nat × Byte)) :
    eccStore bad (bs.map (·.1)) = eccRead (bad.filter (fun w => bs.any (fun q => q.1 / 8 == w) &&
      !(List.range 8).all (fun j => (bs.map (·.1)).contains (8 * w + j)))) := by
  funext rs
  simp only [eccStore, eccWrite, List.any_cons, List.any_nil, Bool.or_false, List.any_map, Function.comp_def]

section
variable {s : State} (hr : s.issue.raised = none)
include hr

section
variable {i : Instr} {rs : List (Int × Nat)} {off : Option Int} {bank ecc : List (Nat × Nat) → Bool} {bs : List (Nat × Byte)}

/-- A vector access, which with no cluster enabled touches nothing. -/
theorem State.stands_of_clusters (hrs : s.clusters = [] → rs = []) (hi : s.clusters ≠ [] →
      ∃ k, exec i s = .next (s.localCheck rs off false bank ecc k) ∧
        (bs ≠ [] → off = none → s.rowsFit bs = false → s.GateFull ((bs.map (·.1)).headD 0) (k s))) : s.Stands i rs false off bank ecc bs := by
  by_cases hc : s.clusters = []
  · exact ⟨fun a ha => by simp [hrs hc, Ctx.spBad] at ha, fun h => absurd (hrs hc) h⟩
  · obtain ⟨k, he, hk⟩ := hi hc
    exact State.stands_of_check hr (fun _ => he) hk

theorem State.stands_of_load (hrs : s.clusters = [] → rs = [])
    (hi : s.clusters ≠ [] → ∃ k, exec i s = .next (s.localCheck rs off false bank ecc k)) : s.Stands i rs false off bank ecc [] :=
  State.stands_of_clusters hr hrs fun hc => (hi hc).imp fun _ he => ⟨he, fun h => absurd rfl h⟩

theorem State.stands_of_store (hrs : s.clusters = [] → rs = [])
    (hi : s.clusters ≠ [] → exec i s = .next (s.localCheck rs off false bank ecc fun u => u.storeBytes bs)) :
    s.Stands i rs false off bank ecc bs :=
  State.stands_of_clusters hr hrs fun hc => ⟨_, hi hc, fun _ _ => State.gateFull_storeBytes hr⟩

end

theorem ld_stands (t : LdTy) (d b : SReg) (o : BitVec 12) :
    s.Stands (.ld t d b o) (s.touched (.ld t d b o)) false (offAlign t.bytes (s.touched (.ld t d b o))) (fun _ => false)
      (eccRead s.issue.bad0) [] :=
  State.stands_of_check hr (fun _ => by rfl) fun h => absurd rfl h

theorem vld_stands (v : VReg) (b : SReg) (o : BitVec 12) :
    s.Stands (.vld v b o) (s.touched (.vld v b o)) false (offAlign 4 (s.touched (.vld v b o))) (fun _ => false)
      (eccRead s.issue.bad0) [] := by
  refine State.stands_of_load hr (fun hc => vldRanges_nil hc _) fun hc => ?_
  show ∃ k, execVld v b o s = _
  rw [execVld]
  split
  · contradiction
  · exact ⟨_, rfl⟩

theorem vldb_stands (v : VReg) (b : SReg) (o : BitVec 12) :
    s.Stands (.vldb v b o) (s.touched (.vldb v b o)) false (offAlign 4 (s.touched (.vldb v b o))) (fun _ => false)
      (eccRead s.issue.bad0) [] := by
  refine State.stands_of_load hr (fun hc => by simp [State.touched, hc]) fun hc => ?_
  have htouched : s.touched (.vldb v b o) = [(s.addr b o.toInt 64, 64)] := by simp [State.touched, hc]
  rw [htouched]
  show ∃ k, execVldb v b o s = _
  rw [execVldb]
  split
  · contradiction
  · exact ⟨_, rfl⟩

theorem vlds_stands (w : Width) (v : VReg) (b : SReg) (o : BitVec 12) :
    s.Stands (.vlds w v b o) (s.touched (.vlds w v b o)) false (offAlign w.bytes (s.touched (.vlds w v b o))) bankRule
      (eccRead s.issue.bad0) [] := by
  refine State.stands_of_load hr (fun hc => by simp [State.touched, lanes_nil hc]) fun hc => ?_
  show ∃ k, execVlds w v b o s = _
  rw [execVlds]
  split
  · contradiction
  · exact ⟨_, rfl⟩

theorem st_stands (w : Width) (d b : SReg) (o : BitVec 9) (col : Colour) :
    s.Stands (.st w d b o col) (s.touched (.st w d b o col)) false (offAlign w.bytes (s.touched (.st w d b o col))) (fun _ => false)
      (eccStore s.issue.bad0 ((bytesAt (s.addr b o.toInt w.bytes).toNat w.bytes (s.rs d).toNat).map (·.1)))
      (bytesAt (s.addr b o.toInt w.bytes).toNat w.bytes (s.rs d).toNat) := by
  have haddrs : (bytesAt (s.addr b o.toInt w.bytes).toNat w.bytes (s.rs d).toNat).map (·.1) =
      (List.range w.bytes).map ((s.addr b o.toInt w.bytes).toNat + ·) := by simp [bytesAt, Function.comp_def]
  exact State.stands_of_check hr (fun _ => by rw [haddrs]; rfl) fun _ _ => State.gateFull_storeBytes hr

/-- A masked vector store, under any of the four masks. -/
theorem vst_stands {i : Instr} {n : Nat} {v : VReg} {b : SReg} {o : BitVec 9} (hi : exec i s = .next (s.vst n v b o)) :
    s.Stands i (s.vldRanges (s.addr b o.toInt 256)) false (offAlign 4 (s.vldRanges (s.addr b o.toInt 256))) (fun _ => false)
      (eccStore s.issue.bad0 ((s.vstBytes n v (s.addr b o.toInt 256)).map (·.1))) (s.vstBytes n v (s.addr b o.toInt 256)) := by
  refine State.stands_of_store hr (fun hc => vldRanges_nil hc _) fun hc => ?_
  rw [hi, State.vst]
  split
  · contradiction
  · rfl

theorem vsts_stands (w : Width) (v : VReg) (b : SReg) (o : BitVec 9) (col : Colour) :
    s.Stands (.vsts w v b o col) (s.touched (.vsts w v b o col)) false (offAlign w.bytes (s.touched (.vsts w v b o col))) bankRule
      (eccStore s.issue.bad0 ((s.vstsBytes v b o.toInt w).map (·.1))) (s.vstsBytes v b o.toInt w) := by
  refine State.stands_of_store hr (fun hc => by simp [State.touched, lanes_nil hc]) fun hc => ?_
  show execVsts w v b o col s = _
  rw [execVsts]
  split
  · contradiction
  · rfl

/-! ### Words that reserve their bank -/

theorem State.StoresRow.gateFull {a : Nat} {w : Bool} {t : State} (h : s.StoresRow a (wordBytes w) t) (ha : a % wordBytes w = 0)
    (hfit : s.rowsFit [(a, 0#8)] = false) : s.GateFull a t := by
  obtain ⟨new, rfl⟩ | rfl := h
  · have hfull := State.gateFull_storeBytes hr ((State.rowsFit_congr (rowsOf_bytesAt ha new 0#8)).trans hfit)
    have hhead : ((bytesAt a (wordBytes w) new).map (·.1)).headD 0 = a := by cases w <;> simp [bytesAt, wordBytes, List.range_succ]
    rwa [hhead] at hfull
  · exact State.gateFull_gateTouch hr hfit

/-- R341 to R343, R263. -/
theorem atomic_stands {i : Instr} {op : AOp} {d a b : SReg} {w u : Bool} (hi : exec i s = .next (s.atomic op d a b w u)) :
    s.Stands i [((s.rs a).toNat, wordBytes w)] true (offAlign (wordBytes w) [((s.rs a).toNat, wordBytes w)]) s.atomicBank
      (s.atomicEcc (s.rs a).toNat) [((s.rs a).toNat, 0#8)] := by
  obtain ⟨k, he, t, v, row, hstore, hk⟩ := s.atomic_shape op d a b w u
  refine State.stands_of_check hr (fun _ => hi.trans (congrArg Host.Outcome.next he)) fun _ hoff hfit => ?_
  have halign : (s.rs a).toNat % wordBytes w = 0 := by
    have hnone := offAlign_isNone_nat (wordBytes w) (s.rs a).toNat (wordBytes w)
    rw [hoff] at hnone
    exact of_decide_eq_true hnone.symm
  rw [hk]
  exact ((hstore.gateFull hr halign hfit).writeS ..).reserve _

theorem atomicWords_stand (d a b : SReg) (w u : Bool) (col : Colour) :
    ∀ i ∈ [Instr.aadd d a b w col, .amin d a b w u col, .amax d a b w u col, .aand d a b w col, .aor d a b w col,
        .axor d a b w col, .aswap d a b w col, .acas d a b w col],
      s.Stands i [((s.rs a).toNat, wordBytes w)] true (offAlign (wordBytes w) [((s.rs a).toNat, wordBytes w)]) s.atomicBank
        (s.atomicEcc (s.rs a).toNat) [((s.rs a).toNat, 0#8)] := by
  intro i hi
  obtain ⟨op, u', he⟩ := atomicWords_eq d a b w u col i hi
  exact atomic_stands hr (he s)

/-- R436, R437. -/
theorem vcsq_stands (d b : SReg) (a : VReg) (t : ETy) (k : KSel) :
    s.Stands (.vcsq d a b t k) (s.vcsqRanges a (s.rs b).toNat t k) true (s.vcsqOff (s.rs b).toNat t)
      (fun rn => (rowsOfRanges rn).any (fun r => s.issue.mbBanks.contains (bankOf r))
        || (rn.any (fun r => r.1 == (s.rs b).toNat) && s.readSoon (bankOf ((s.rs b).toNat / 64))))
      (fun _ => eccRead s.issue.bad0 [((s.rs b).toNat, 8)]) (s.vcsqBytes a (s.rs b).toNat t k) := by
  refine State.stands_of_check hr (k := fun u => ((u.storeBytes (u.vcsqBytes a (s.rs b).toNat t k)).writeS 2 d
    (BitVec.ofNat 64 (s.squeeze a t k).length)).reserve (bankOf ((s.rs b).toNat / 64))) (fun _ => ?_)
    fun _ _ h => ((State.gateFull_storeBytes hr h).writeS ..).reserve _
  show execVcsq d a b t k s = _
  simp only [execVcsq, Int.toNat_natCast]

end

end Sys2Proof.Machine

/-! SUPPORT. The faults of slot X (R57, R85, R237), and where words trap. -/

namespace Sys2Proof.Machine

/-! ### Slot X -/

section
variable {s : State} (hr : s.issue.raised = none)
include hr

theorem State.xOwn_owned (h : s.xOwned = true) (k : State → State) : s.xOwn k = s.raises 0x286 0 := by
  rw [State.xOwn, h, State.check_true, State.raise_eq hr]

theorem State.xAcc_owned (h : s.xOwned = true) (acc : ATile) (k : State → State) : s.xAcc acc k = s.raises 0x286 0 :=
  State.xOwn_owned hr h _

theorem State.xAcc_outside (h : s.xOwned = false) {acc : ATile} (ha : s.cx.accCnt.toNat ≤ acc.val) (k : State → State) :
    s.xAcc acc k = s.raises 0x083 0 := by
  rw [State.xAcc, State.xOwn, h, State.check_false, decide_eq_true ha, State.check_true, State.raise_eq hr]

omit hr in
theorem State.xAcc_inside (h : s.xOwned = false) {acc : ATile} (ha : acc.val < s.cx.accCnt.toNat) (k : State → State) :
    s.xAcc acc k = k s := by
  rw [State.xAcc, State.xOwn, h, State.check_false, decide_eq_false (Nat.not_le.mpr ha), State.check_false]

omit hr in
theorem State.xOwn_free (h : s.xOwned = false) (k : State → State) : s.xOwn k = k s := by
  rw [State.xOwn, h, State.check_false]

theorem State.xPair_none (h : s.cx.pair = none) (bands : BitVec 4) (k : Nat → Nat → State → State) :
    s.xPair bands k = s.raises 0x086 0 := by
  rw [State.xPair, h, ← State.raise_eq hr]

variable (acc : ATile) (a b : SReg) (f : Bool) (m : BitVec 4)

/-- R57: a strict context of another plane owns the engine. -/
theorem matrixWords_owned (h : s.xOwned = true) :
    ∀ i ∈ [Instr.mcfg a b, .mswap, .mldw a b m, .mmul acc a b f m, .mvec acc a b f m, .mzero acc m, .mdrn acc a b f m,
        .maccd acc a b f m], exec i s = .next (s.raises 0x286 0) := by
  simp only [List.forall_mem_cons, List.not_mem_nil, IsEmpty.forall_iff, implies_true, and_true]
  have hown := fun k => congrArg (Host.Outcome.next (φ := Fault) (ρ := Refusal)) (State.xOwn_owned hr h k)
  exact ⟨hown _, hown _, hown _, hown _, hown _, hown _, hown _, hown _⟩

/-- R85: an accumulator outside the window. -/
theorem matrixWords_outside (h : s.xOwned = false) (ha : s.cx.accCnt.toNat ≤ acc.val) :
    ∀ i ∈ [Instr.mmul acc a b f m, .mvec acc a b f m, .mzero acc m, .mdrn acc a b f m, .maccd acc a b f m],
      exec i s = .next (s.raises 0x083 0) := by
  simp only [List.forall_mem_cons, List.not_mem_nil, IsEmpty.forall_iff, implies_true, and_true]
  have hout := fun k => congrArg (Host.Outcome.next (φ := Fault) (ρ := Refusal)) (State.xAcc_outside hr h ha k)
  exact ⟨hout _, hout _, hout _, hout _, hout _⟩

/-- R237: no pair is set. -/
theorem matrixWords_pairless (h : s.xOwned = false) (hp : s.cx.pair = none) (ha : acc.val < s.cx.accCnt.toNat) :
    ∀ i ∈ [Instr.mldw a b m, .mmul acc a b f m, .mvec acc a b f m], exec i s = .next (s.raises 0x086 0) := by
  simp only [List.forall_mem_cons, List.not_mem_nil, IsEmpty.forall_iff, implies_true, and_true]
  have hin := fun k => (State.xAcc_inside h ha fun u => u.xPair m k).trans (State.xPair_none hr hp m k)
  have hown := fun k => (State.xOwn_free h fun u => u.xPair m k).trans (State.xPair_none hr hp m k)
  exact ⟨congrArg Host.Outcome.next (hown _), congrArg Host.Outcome.next (hin _), congrArg Host.Outcome.next (hin _)⟩

end

theorem vcsqOff_nat (s : State) (pa : Nat) (t : ETy) :
    s.vcsqOff pa t = if pa % 8 ≠ 0 then some (pa : Int)
      else if readLE s.issue.sp0 pa 8 % max 1 (t.cw / 8) ≠ 0 then some (readLE s.issue.sp0 pa 8 : Int) else none := by
  have hmod : ((pa : Int) % 8 ≠ 0) ↔ pa % 8 ≠ 0 := by omega
  simp only [State.vcsqOff, Int.toNat_natCast, hmod]

/-! ### What a trapping word leaves, spelled out -/

theorem State.TrapsFull.facts {s t : State} {code : Nat} (h : s.TrapsFull code t) :
    t.issue.raised = some ⟨code, 0, s.issue.slot.num, false⟩ ∧ t.cx.s = s.cx.s ∧ t.cx.q = s.cx.q ∧ t.cx.v = s.cx.v ∧
      t.cx.k = s.cx.k ∧ t.cx.vstat = s.cx.vstat ∧
      t.cx.undo.filter (fun e => e.key.vector) = s.cx.undo.filter (fun e => e.key.vector) ∧
      (code = 0x105 → t.cx.undo.filter (fun e => !e.key.vector) = s.cx.undo.filter (fun e => !e.key.vector)) := by
  obtain ⟨hraised, hregs, hvector, hscalar⟩ := h
  simp only [Ctx.regs, Prod.mk.injEq] at hregs
  obtain ⟨⟨hs, hq⟩, hv, hk, hvstat⟩ := hregs
  simp only [Ctx.logOf, beq_true, beq_false] at hvector hscalar
  exact ⟨hraised, hs, hq, hv, hk, hvstat, hvector, hscalar⟩

theorem State.wordTraps.full {s : State} {code : Nat} {i : Instr} (h : s.wordTraps code i) :
    ∃ t, exec i s = .next t ∧ t.issue.raised = some ⟨code, 0, s.issue.slot.num, false⟩ ∧ t.cx.s = s.cx.s ∧ t.cx.q = s.cx.q ∧
      t.cx.v = s.cx.v ∧ t.cx.k = s.cx.k ∧ t.cx.vstat = s.cx.vstat ∧
      t.cx.undo.filter (fun e => e.key.vector) = s.cx.undo.filter (fun e => e.key.vector) ∧
      (code = 0x105 → t.cx.undo.filter (fun e => !e.key.vector) = s.cx.undo.filter (fun e => !e.key.vector)) := by
  obtain ⟨t, he, ht⟩ := h
  exact ⟨t, he, ht.facts⟩

/-- The fault of flags without an entry, spelled out. -/
theorem flagged_facts {s : State} {i : Instr}
    (h : ∃ t, exec i s = .next t ∧ t.issue.raised = some ⟨0x105, 0, s.issue.slot.num, false⟩ ∧ t.cx.regs = s.cx.regs) :
    ∃ t, exec i s = .next t ∧ t.issue.raised = some ⟨0x105, 0, s.issue.slot.num, false⟩ ∧ t.cx.v = s.cx.v ∧
      t.cx.k = s.cx.k ∧ t.cx.vstat = s.cx.vstat := by
  obtain ⟨t, he, hraised, hregs⟩ := h
  simp only [Ctx.regs, Prod.mk.injEq] at hregs
  obtain ⟨-, hv, hk, hvstat⟩ := hregs
  exact ⟨t, he, hraised, hv, hk, hvstat⟩

/-- A full log of one kind. -/
theorem Ctx.undo_full {x : Ctx} {key : UKey} (h : x.undoFits key = false) :
    (if key.vector then 32 else 64) ≤ (x.undo.filter (fun e => e.key.vector == key.vector)).length := by
  obtain ⟨-, hlen⟩ := Bool.or_eq_false_iff.mp h
  exact Nat.le_of_not_lt (of_decide_eq_false hlen)

theorem State.scalarFull {s : State} {d : SReg} (h : s.scalarFits d = false) :
    64 ≤ (s.cx.undo.filter (fun e => !e.key.vector)).length := by
  obtain ⟨-, hu⟩ := Bool.or_eq_false_iff.mp h
  simpa [UKey.vector] using Ctx.undo_full hu

theorem State.vectorFull {s : State} {d : VReg} (h : s.vecFits d = false) :
    32 ≤ (s.cx.undo.filter (fun e => e.key.vector)).length := by
  obtain ⟨-, hu⟩ := State.clusters_of_not_vecFits h
  simpa [UKey.vector] using Ctx.undo_full hu

end Sys2Proof.Machine

namespace Sys2Proof
open Machine

/-- Settles O8: each word asks for its undo entry before it writes, the checks of a local access stand in their order before the store,
and those of slot X before the operation. -/
theorem wordsTrap : Obligations.WordsTrap := by
  unfold Obligations.WordsTrap
  refine ⟨fun s hr => ⟨?_, ?_, ?_, ?_, ?_, ?_, ?_, ?_, ?_, ?_, ?_, ?_, ?_, ?_⟩, fun s hr => ⟨?_, ?_, ?_⟩, ?_⟩
  · intro d a b g imm limm p u q m ch num h
    exact ⟨fun i hi => ((scalarWords_writeScalar d a b g imm limm p u q ch i hi).traps hr h).full,
      fun hc => (mfc_traps hr h num hc).full, fun hc => ⟨(kpopc_traps hr h m hc).full, (kfirst_traps hr h m hc).full⟩⟩
  · exact fun d a b t k h hreach => (vget_traps hr h a b t k hreach).full
  · exact fun t d b off h hok => (ld_traps hr h t b off hok).full
  · intro d a b w u col h at' n hok hrow i hi
    obtain ⟨op, u', he⟩ := atomicWords_eq d a b w u col i hi
    exact State.wordTraps.full ⟨_, he s, State.atomic_traps hr h hok hrow op u'⟩
  · exact fun d a b c h => (cmp_traps hr h a b c).full
  · exact fun c1 disp => ⟨fun h => (call_traps hr h disp).full, fun h => (loop_traps_full hr h disp).full⟩
  · exact fun hm num a => ⟨fun hn h => (mtc_traps hr hm hn h a).full, fun h => (mtcDmr_traps hr hm h a).full,
      fun h ha => (mtcAshape_traps hr hm h ha).full⟩
  · intro d a b r n op m iov kind aty ts t k i hi
    have hw := vectorWords_writeImages d a b r n op m iov kind aty ts t k i hi
    exact ⟨fun h => State.wordTraps.full (hw.traps_full hr h), fun h hfull hflag => flagged_facts (hw.traps_flagged hr h hfull hflag)⟩
  · exact fun d b off w h => ⟨fun hok => (vld_traps hr h b off hok).full, fun hok => (vldb_traps hr h b off hok).full,
      fun hok => (vlds_traps hr h w b off hok).full⟩
  · exact fun d a b t k h hreach => (vput_traps hr h a b t k hreach).full
  · exact fun v d h => ⟨fun g rest hg hdone => (gpop_traps hr h d hg hdone).full, fun r rest hc hdone => (cpop_traps hr h d hc hdone).full⟩
  · exact fun vc d x y a b t k => ⟨fun h i hi => (maskWords_trap hr h a b x y vc t k i hi).full,
      fun h hfull hflag => flagged_facts (vcmp_traps_flagged hr vc d x y t k h hfull hflag)⟩
  · exact fun d h => State.scalarFull h
  · exact fun d h => State.vectorFull h
  · intro t w d b v o p col
    have hst := st_stands hr w d b p col
    have h0 := vst_stands hr (i := .vstK0 v b p col) (n := 0) (v := v) (b := b) (o := p) rfl
    have h1 := vst_stands hr (i := .vstK1 v b p col) (n := 1) (v := v) (b := b) (o := p) rfl
    have h2 := vst_stands hr (i := .vstK2 v b p col) (n := 2) (v := v) (b := b) (o := p) rfl
    have h3 := vst_stands hr (i := .vstK3 v b p col) (n := 3) (v := v) (b := b) (o := p) rfl
    have hvsts := vsts_stands hr w v b p col
    rw [eccStore_eq] at hst h0 h1 h2 h3 hvsts
    exact ⟨ld_stands hr t d b o, vld_stands hr v b o, vldb_stands hr v b o, vlds_stands hr w v b o, hst, h0, h1, h2, h3, hvsts⟩
  · intro d a b w u col
    have hstands := atomicWords_stand hr d a b w u col
    exact ⟨fun i hi => hstands i (List.mem_append_left [_] hi), hstands _ (List.mem_append_right [_, _, _, _, _, _, _] (.head _))⟩
  · intro d b a t k
    have hvcsq := vcsq_stands hr d b a t k
    rw [vcsqOff_nat] at hvcsq
    exact hvcsq
  · exact fun s acc a b f m hr => ⟨matrixWords_owned hr acc a b f m, matrixWords_outside hr acc a b f m,
      fun h hp ha => matrixWords_pairless hr acc a b f m h hp ha⟩

end Sys2Proof

/-! SUPPORT. The resume of a launch whose record is out of reach writes a completion record, which the statement of O35 leaves out. -/

namespace Sys2Proof.Machine

/-- A background launch of one tile in the cellar, with its record in a frame of no key. -/
def strandedLaunch : Launch :=
  { fetchLaunch with cls := 2, st := .evicted, planeReq := 0xF, wtabAddr := 0x201000, segAddr := 0x202000, accCnt := 16, spSize := 0x300000
                     cellarBase := 0x600000, cellarSlot := 65536 }

/-- It waits for a resume; its function has one frame, with a completion ring in it. -/
def strandedState : State :=
  { State.reset with
    keys := [(1, 1)], frameKey := [(1, 1)], ctxs := [(0, Ctx.reset)], launches := [(0, strandedLaunch)]
    tenants := [(1, { Tenant.reset with accCnt := 16, spSize := 0x300000 })], rings := [(1, ⟨0x300000, 4096, 0⟩)] }

theorem strandedState_resumable : mfind strandedState.launches 0 = some strandedLaunch ∧ strandedLaunch.st = .evicted ∧
    strandedState.withheld strandedLaunch = false ∧
    strandedState.canPlace { strandedLaunch with planeReq := 0xF } 0 0 0 = true ∧ strandedState.sameSettings strandedLaunch = true ∧
    strandedState.isHome (strandedState.resumeReads strandedLaunch) = true ∧
    strandedState.outOfReach strandedLaunch.fn strandedLaunch.recordHeads = some 0x600000 := by
  decide +kernel

/-- R331, R485: the failure of the launch enters the ring as a record of KIND 1, whose byte 7 was zero. -/
theorem strandedState_records : (match exec (.resume 0 0 0 0) strandedState with
    | .next t => mread t.dev 0x300007 == 1#8
    | _ => false) = true := by
  decide +kernel

end Sys2Proof.Machine

namespace Sys2Proof
open Machine

/-- Refutes O35: a resume that fails at its acceptance, since the launch unit does not reach a record, ends the launch, whose completion
record is written to device memory (R331, R485); the statement has device memory as it was. -/
theorem not_evictionsAndResumes : ¬ Obligations.EvictionsAndResumes := by
  unfold Obligations.EvictionsAndResumes
  rintro ⟨-, hresume⟩
  obtain ⟨hlaunch, hst, hheld, hplace, hsettings, hhome, haway⟩ := strandedState_resumable
  obtain ⟨haccept, -⟩ := hresume strandedState 0 0 0 0 strandedLaunch hlaunch
  obtain ⟨hfails, -⟩ := haccept hst hheld hplace hsettings hhome
  obtain ⟨t, ht, hdev, -⟩ := hfails 0x600000 haway
  have hrecord := strandedState_records
  rw [ht] at hrecord
  have hone : mread t.dev 0x300007 = 1#8 := beq_iff_eq.mp hrecord
  rw [hdev] at hone
  exact absurd hone (by decide)

end Sys2Proof
